-- ==== Sys2Proof/Word.lean ====
section
/-!
DEFINITION. The words Balim's registers and memories are made of, and their plainest arithmetic.
-/
namespace Sys2Proof

/-- One byte of memory, of a ring entry, of a record or of a serial transaction. -/
abbrev Byte := BitVec 8

/-- A 16-bit register (SMBus, Table 16.9) or field. -/
abbrev Word16 := BitVec 16

/-- A 32-bit register of BAR 0 (R438) or of the checker's SPI map (R425). -/
abbrev Word32 := BitVec 32

/-- A 64-bit value: the clapper, a chip ID, a MAC total. -/
abbrev Word64 := BitVec 64

/-- Round `a` up to a multiple of `m` (R242: "rounded up to 64 KiB"); `m = 0` leaves `a` alone. -/
def roundUp (a m : Nat) : Nat := if m = 0 then a else (a + m - 1) / m * m

/-- The quotient rounded up, the manual's `ceil(a / b)`; 0 when `b = 0`. -/
def ceilDiv (a b : Nat) : Nat := if b = 0 then 0 else (a + b - 1) / b

/-- A value held to a range. -/
def clampInt (x lo hi : Int) : Int := if x < lo then lo else if hi < x then hi else x

/-- A counter that stops at its largest value (the manual's "saturating"). -/
def satAdd (a b top : Nat) : Nat := min (a + b) top

end Sys2Proof
end

