-- ==== Sys2Proof/Syntax.lean ====
section
/-!
DEFINITION. The commands of the block: one constructor of `Instr` for each of the 147 rows of
spec/opcode_table.json, with the operands that come from outside the modelled state (a written value, a pin
level, the bytes of a serial transaction or of a flit, what a sink or a peer answered, which unit an error was
seen at), and the structured content of a reel binary, whose bytes the manual does not lay out (log 5).
-/
namespace Sys2Proof

/-- The three grades of Table 0.1. -/
inductive Grade where
  | nb3296 | nb2896 | nb2448
  deriving DecidableEq, Repr

/-- The formats of Table 4.2. -/
inductive Fmt where
  | int8 | int4 | e4m3 | e5m2 | mxE4m3 | mxE5m2 | mxE2m1 | bf16 | fp16 | fp32
  deriving DecidableEq, Repr

/-- A tensor as R155 orders it, without padding: pixel rows, then pixels, then channels; `scales` holds one
E8M0 byte per pixel and block of 32 channels for an MX format. A weight operand stores its reduction axis as
the channel axis (R157). -/
structure Tensor where
  h : Nat
  w : Nat
  c : Nat
  fmt : Fmt
  codes : List Nat
  scales : List Nat
  deriving DecidableEq, Repr

/-- The padding modes of Table 5.3; CONSTANT carries one code per input channel. -/
inductive PadMode where
  | zero
  | constant (codes : List Nat)
  | edge
  | mirror
  deriving DecidableEq, Repr

/-- A window: filter, stride, dilation, padding (Table 5.2). -/
structure Window where
  kh : Nat
  kw : Nat
  sy : Nat
  sx : Nat
  dy : Nat
  dx : Nat
  pt : Nat
  pb : Nat
  pl : Nat
  pr : Nat
  deriving DecidableEq, Repr

/-- The offset granularities of R175. -/
inductive Granularity where
  | shared
  | perTap
  | perTapGroup (groups : Nat)
  deriving DecidableEq, Repr

/-- Where a warped window takes its offsets from (R176): a motion plane (K plane or not) with the scale choice
0 = p, 1 = 840 − p, 2 = 840 and the feature scale t, or an offset tensor. -/
inductive OffsetSource where
  | motion (kPlane : Bool) (scaleBy : Nat) (t : Nat)
  | tensor
  deriving DecidableEq, Repr

/-- The elementwise operations of R197. -/
inductive EltOp where
  | add | sub | mul | max | min
  deriving DecidableEq, Repr

/-- The parameters of a box-decoding layer (R204 to R209); FP32 constants are codes. -/
structure BoxParams where
  wf : Nat
  hf : Nat
  st : Nat
  anchors : List (Nat × Nat)
  ncls : Nat
  vx : Nat
  vy : Nat
  vw : Nat
  vh : Nat
  threshold : Nat
  kPre : Nat
  iouThr : Nat
  classWise : Bool
  kOut : Nat
  deriving DecidableEq, Repr

/-- The operators of chapters 5 and 6. -/
inductive Op where
  /-- Batched matrix product (R160): B stored N × K in the reel, the same for every product, or (none) the second input in the
  bench, one N × K matrix for each product of the batch. -/
  | matmul (weights : Option Tensor)
  /-- Convolution with `groups` groups; weights stored Co × (Kh Kw) × (Ci / G). -/
  | conv (win : Window) (groups : Nat) (pad : PadMode) (weights : Tensor)
  /-- Warped window (R175). -/
  | warp (win : Window) (groups : Nat) (pad : PadMode) (gran : Granularity) (off : OffsetSource) (weights : Tensor)
  /-- Max or average pooling (R180 to R182); `inside` counts only the taps inside the input. -/
  | pool (isMax : Bool) (win : Window) (inside : Bool)
  /-- Resampling (R184 to R186). -/
  | resample (bicubic : Bool) (wo ho : Nat)
  /-- Pixel normalisation (R196). -/
  | norm (rms : Bool) (eps : Nat) (gamma beta : List Nat)
  /-- Elementwise (R197): a second tensor, or a per-channel FP32 constant. -/
  | eltwise (op : EltOp) (konst : Option (List Nat))
  /-- Box decoding and suppression (R204 to R208). -/
  | boxes (p : BoxParams)
  /-- Expert gate over E logits (R210 to R213). -/
  | gate (experts k cf : Nat)
  /-- Expert take: one matrix per expert, over the cap slots of R212 that the route entries fill (R213). -/
  | expert (weights : List Tensor) (k cf : Nat)
  /-- Combine over the k ranks of E experts (R214). -/
  | combine (experts k : Nat)
  deriving DecidableEq, Repr

/-- The activations of Table 6.2; constants are FP32 codes. -/
inductive Activation where
  | none
  | relu
  | clamp (lo hi : Nat)
  | leaky (alpha : Nat)
  | table (knots : List Nat) (aLo bLo aHi bHi : Nat)
  deriving DecidableEq, Repr

/-- The integer path of R189, per output channel. -/
structure IntPath where
  bias : List Int
  mult : List Int
  shift : List Nat
  zp : List Int
  lo : Int
  hi : Int
  relu : Bool
  lut : Option (List Nat)
  deriving DecidableEq, Repr

/-- The float path of R190 to R193; constants are FP32 codes; `residual` is the factor rs and whether the
addition comes after the activation. -/
structure FloatPath where
  scale : List Nat
  bias : List Nat
  residual : Option (Nat × Bool)
  act : Activation
  deriving DecidableEq, Repr

/-- Table 6.1's two paths. -/
inductive FinishPath where
  | integer (p : IntPath)
  | float (p : FloatPath)
  deriving DecidableEq, Repr

/-- The finishing of one layer (R188): path, 4-bit code of the output format (R124), rounding mode, saturate bit,
depth-to-space factor (1 for none) and transposed layout. `into` is the interleaving of R174: the step that names the shared
tensor and the sub-position ey × b + ex of this convolution's results in it. -/
structure Finish where
  path : FinishPath
  outCode : Nat
  stochastic : Bool
  saturate : Bool
  d2s : Nat
  transposed : Bool
  into : Option (Nat × Nat)
  deriving DecidableEq, Repr

/-- Where a step reads an input: a bench slot that a dolly fills, the output of an earlier step, or partial states. -/
inductive Src where
  | slot (i : Nat)
  | step (k : Nat)
  /-- The partial states of split step `k` that the chip with set index `chip` gave (R294, R396). -/
  | parts (k chip : Nat)
  deriving DecidableEq, Repr

/-- The kinds of step of R393. -/
inductive StepKind where
  | local_ | split | expert
  deriving DecidableEq, Repr

/-- What a take runs of its step: all of it; in a set (R393), a chip's parts of a split step, the join of a split step (R294), or
one expert of an expert step (R397). -/
inductive Part where
  | whole
  | share
  | join
  | expert (e : Nat)
  deriving DecidableEq, Repr

/-- One step of a reel (R263): one layer, its declared input shape, formats, splits and banks. -/
structure Step where
  op : Op
  inputs : List Src
  residualSrc : Option Src
  hi : Nat
  wi : Nat
  ci : Nat
  co : Nat
  /-- 4-bit format codes of the operands on the row and the column feed (R124). -/
  aCode : Nat
  bCode : Nat
  /-- Space-to-depth factor that the framing unit applies to the read addresses of the first input, 1 for none (R172). -/
  s2d : Nat
  /-- Column split σ of R161. -/
  sigma : Nat
  /-- Split count Q per active-array count P = 1 … 36 (R526); empty for none. -/
  splits : List Nat
  /-- The reduction starts from a state loaded from the bench (R132). -/
  loaded : Bool
  finish : Finish
  inBanks : List Nat
  outBanks : List Nat
  /-- The operands' reduction axis is innermost (R157). -/
  innermost : Bool
  /-- The layer's output leaves the array island for a tensor in the pool (R223, R231). -/
  spill : Bool
  kind : StepKind
  deriving DecidableEq, Repr

/-- One dailies take (R427): a step over tiles, the tensors of its inputs and of its residual, and expected fingerprints. -/
structure DailiesTake where
  step : Step
  inputs : List (List Tensor)
  expected : List Nat
  deriving DecidableEq, Repr

/-- The motion parameters of Table 3.2. -/
structure MotionParams where
  matchLambda : Nat
  oobCost : Nat
  hintUse : Nat
  censusNoise : Nat
  flatSpan : Nat
  occTol : Nat
  rayShare : Nat
  deriving DecidableEq, Repr

/-- The content of a reel binary: what chapters 3 to 9 and 13 say a reel carries. `weightOff` and `weightLen`
place the weight section in the binary (R305). -/
structure Reel where
  beta : Nat
  canonical : Bool
  tween : List Step
  key : List Step
  dailies : List DailiesTake
  dailiesSeed : List Byte
  dailiesStep : Nat
  motion : MotionParams
  edgeStep : Nat
  overscan : Nat
  /-- Bytes of the scales, biases, tables and knots in the stage image (R236), whose layout the manual does not give. -/
  constBytes : Nat
  colourFormats : List Nat
  /-- Bit 0 depth, bit 1 motion: planes the reel accepts and planes it needs (R43). -/
  planesAccept : Nat
  planesNeed : Nat
  /-- Host-tensor rings 7–255 and their entry sizes (Table 14.11). -/
  tensorRings : List (Nat × Nat)
  binaryLen : Nat
  weightOff : Nat
  weightLen : Nat
  deriving DecidableEq, Repr

/-- The causes of Table 15.7. -/
inductive Cause where
  | residue | joinResidue | benchUncorrectable | benchRowsExhausted | blockTestFail
  | stageUncorrectable | stageRowsExhausted | transformSumcheck | motionFault | fallbackRecordCrc
  | overlayFault | lineBufferUncorrectable | accessViolation | spliceDown | spliceHopLimit
  | dramUncorrectable | sheetLate | sramUncorrectable | dailiesMismatch | checkerFault
  | bootFallback | doorbellIgnored | fabricIntegrity | tagTimeout | controlWatchdog
  | firmwareUncorrectable | clapperFault | bootImageInvalid
  deriving DecidableEq, Repr

/-- The checker faults of R402. -/
inductive CheckerFaultKind where
  | lockstep | clock | memory | rom | selftest
  deriving DecidableEq, Repr

/-- Why a dolly moves data; a fill is acknowledged to the take that waits for it (R35). -/
inductive MovePurpose where
  | fillAck (takeId : Nat)
  | hotFill (reel : Nat)
  | pageCopy (page : Nat)
  | other
  deriving DecidableEq, Repr

/-- A strided dimension of a copy. -/
structure Stride where
  count : Nat
  src : Nat
  dst : Nat
  deriving DecidableEq, Repr

/-- Which operand a fill of the benches gives, and where it goes: the tile, the source of the step that it is (for cued work also
outputs of earlier steps, R394), the blocks and the offset in their benches. -/
structure FillTo where
  stream : Nat
  frame : Nat
  tile : Nat
  src : Src
  blocks : List (Fin 36)
  off : Nat
  deriving DecidableEq, Repr

/-- A plane at render size in memory: its bands of 64 rows (the slices of a keyframe, or one run), bytes from row to row,
extents, bytes per pixel, and the elements that a pixel's bytes hold. -/
structure PlaneAt where
  bands : List Nat
  pitch : Nat
  h : Nat
  w : Nat
  bpp : Nat
  c : Nat
  fmt : Fmt
  deriving DecidableEq, Repr

/-- The moves of R243. The moves into benches are copies whose result is an operand of a take: elements and scales under R125
and R155, accumulator states of 16 bytes (R133), the input region of a tile (R159), the motion records of a tile (R176), or the
expansion of an output that left the array island (R231), or an input of cued work that the remote reads from its owner gave (R394).
Encoding and decoding take a run of tiles of a store of `total`. -/
inductive Move where
  | copy (src dst len : Nat) (dims : List Stride)
  | fill (dst len : Nat) (pattern : List Byte)
  | multicast (src off len : Nat)
  | expand (src dst lines : Nat)
  | encode (src base total first count fmt : Nat)
  | decode (base total first count dst fmt : Nat)
  | operand (to_ : FillTo) (src scaleSrc h w c : Nat) (fmt : Fmt)
  | states (to_ : FillTo) (src h w c : Nat)
  | region (to_ : FillTo) (plane : PlaneAt)
  | records (to_ : FillTo)
  | restore (stream frame tile step : Nat) (blocks : List (Fin 36)) (off : Nat)
  | remote (to_ : FillTo) (member : Fin 16) (h w c : Nat) (fmt : Fmt)
  deriving DecidableEq, Repr

/-- What a DRAM controller's patrol met (R254). -/
inductive PatrolFinding where
  | clean
  | corrected (addr : Nat)
  | uncorrectable (addr : Nat)
  deriving DecidableEq, Repr

/-- A repairable memory (R250, R252): a bench bank, a stage bank, or a bank of the three other SRAMs. -/
inductive BankId where
  | bench (block : Fin 36) (bank : Fin 16)
  | stage (region : Fin 9) (bank : Fin 24)
  | motion (bank : Fin 8)
  | lineBuffer (gate : Fin 4) (bank : Fin 4)
  | control (bank : Fin 8)
  deriving DecidableEq, Repr

/-- An error that a scrub or an access found in the row of a bank. -/
structure RowFinding where
  bank : BankId
  row : Nat
  uncorrectable : Bool
  deriving DecidableEq, Repr

/-- A scrub pass of one bank and the rows in which it found errors. -/
structure BankPass where
  bank : BankId
  found : List RowFinding
  deriving DecidableEq, Repr

/-- A word that an SMBus write carries, and whether its packet error code is good. -/
structure PecWord where
  word : Word16
  pecGood : Bool
  deriving DecidableEq, Repr

/-- Where an error was seen: the unit, and the address of a memory error. -/
structure ErrorAt where
  unit : Nat
  addr : Option Nat
  deriving DecidableEq, Repr

/-- A block whose cells saw residue mismatches in a run (R154): the first mismatching cell in row-major order and how many. -/
structure BlockSeen where
  block : Fin 36
  cell : Fin 1024
  count : Nat
  deriving DecidableEq, Repr

/-- What a run of a take showed (R154, R201, R250, R293): the blocks, joins and engine regions that mismatched, and the rows
whose reads were corrected or could not be. -/
structure TakeSeen where
  blocks : List BlockSeen
  joins : List BlockSeen
  engines : List (Fin 9)
  rows : List RowFinding
  deriving DecidableEq, Repr

/-- The requesters of the firewall classes (Table 15.5), for host and peer accesses. -/
inductive Requester where
  | host | splice (p : Fin 6) | dolly (n : Fin 16) | control | gate (n : Fin 4) | motion | overlay | continuity
  | egress (k : Fin 9) | warp | jtag
  deriving DecidableEq, Repr

/-- The reasons a host island resets while the chip runs (R449, R513). -/
inductive HostResetCause where
  | functionLevelReset | hotReset | dlDown | refclkLost
  deriving DecidableEq, Repr

/-- The causes of a fundamental reset (R474). -/
inductive ResetCause where
  | powerUp | resetN | perstN
  deriving DecidableEq, Repr

/-- A configuration request (R437, R448, R476): a read, the two writes whose effect the manual states, or another
write. -/
inductive ConfigAccess where
  | read (offset : Nat)
  | resizeBar2 (log2 : Nat)
  | msixEnable (on : Bool)
  | write (offset value : Nat)
  deriving DecidableEq, Repr

/-- An edge on a filtered input: the level, how many equal samples of 0.5 ns the new level has held, and the
eighth of a tick of its first sample (R514). -/
structure Edge where
  level : Bool
  samples : Nat
  eighth : Fin 8
  deriving DecidableEq, Repr

/-- The filtered inputs of Table 16.6. -/
inductive InputPin where
  | genlock | clapIn | safeAck | hpd (gate : Fin 4) | resetN | perstN
  deriving DecidableEq, Repr

/-- The DSC parameters that a sink's DPCD capabilities support (R338): bits per component, the highest target rate in 1/16 bit per
pixel, slices per line, and the widest slice; what a DPCD says is DisplayPort's (PRESUMED, log 126). -/
structure SinkDsc where
  bpcs : List Nat
  maxBpp : Nat
  slices : List Nat
  maxWidth : Nat
  deriving DecidableEq, Repr

/-- What a sink offers and how its training ends (R338, R362): fastest link-rate code, lanes, DSC where it decodes it,
success, and for an IRQ_HPD whether lane lock or equalisation was lost. -/
structure SinkSeen where
  maxRate : Nat
  maxLanes : Nat
  dsc : Option SinkDsc
  trains : Bool
  lost : Bool
  deriving DecidableEq, Repr

/-- How a splice training attempt ended (R364): which of lanes 0–3 work, and the payload of the first TIME flit of the peer (Table 12.5)
with the fraction of a tick, in 1/256, at which it arrived. -/
structure TrainSeen where
  lanes : List Bool
  time : List Byte
  frac : Byte
  deriving DecidableEq, Repr

/-- The launch messages of R391. -/
inductive LaunchMsg where
  | ready (c : Nat) (epoch : Nat) (digests topology : List Byte)
  | go
  | nogo
  deriving DecidableEq, Repr

/-- An entry of a cue's fill list (R394): the input `src` of the tile at place `tile` of the cue, the ranges of the owner's memory that
hold its bytes, and whether these are zero-run compressed (R223). -/
structure CueFill where
  tile : Nat
  src : Src
  from_ : List (Nat × Nat)
  packed : Bool
  deriving DecidableEq, Repr

/-- An owner's cue (R394). `phases` are the phase codes of the frames that `frames` names, one for each tile; `draws` the seed and the
step counter of the rounding bits of each (R302), which the frames of the owner's streams fix; `fills` is the fill list: the inputs
that the member reads from the owner. -/
structure Cue where
  owner : Fin 16
  stream : Nat
  frames : List Nat
  phases : List Nat
  draws : List (List Byte × Nat)
  tiles : List Nat
  fills : List CueFill
  reel : Nat
  step : Nat
  takeId : Nat
  dueBeat : Nat
  batch : Bool
  keySeq : Bool
  deriving DecidableEq, Repr

/-- A take-done token from a set member (R394), with the conversion counts of each tile of its cue in order (R150). -/
structure RemoteToken where
  takeId : Nat
  status : Nat
  cycles : Nat
  counts : List (Nat × Nat × Nat)
  deriving DecidableEq, Repr

/-- The unit kinds of Table 14.24. -/
inductive UnitKind where
  | block | page | engine | port
  deriving DecidableEq, Repr

/-- The JTAG instructions of R519: the always-allowed ones, and those that JTAG_POLICY must allow (R485). -/
inductive JtagInstr where
  | bypass | idcode
  /-- The boundary-scan instructions shift bytes through the boundary register. -/
  | samplePreload (shift : List Byte) | extest (shift : List Byte) | extestPulse (shift : List Byte) | extestTrain (shift : List Byte)
  | readSram (addr : Nat)
  | writeSram (addr : Nat) (data : List Byte)
  | haltCore (core : Fin 8)
  | stepCore (core : Fin 8)
  | other
  deriving DecidableEq, Repr

/-- The commands, in the order of spec/opcode_table.json. -/
inductive Instr where
  | deviceInfo
  | errorQuery
  | streamQuery
  | tensorAlloc
  | tensorFree
  | reelLoad (content : Option Reel)
  | reelDrop
  | streamOpen
  | streamClose
  | outputConfigure
  | setConfigure
  | launchAt
  | unitRetire
  | unitReturn
  | fwStage
  | fwSwitch
  | mboxSubmit (v : Word32)
  | mboxDoneClear (v : Word32)
  | mboxErrorClear (v : Word32)
  | errStatusClear (v : Word32)
  | gateEventsClear (g : Fin 4) (v : Word32)
  | clapLoRead (wide : Bool)
  | beatLoRead (wide : Bool)
  | errLastBeatLoRead (wide : Bool)
  | gateStartLoRead (g : Fin 4) (wide : Bool)
  | gateFpxLoRead (g : Fin 4) (wide : Bool)
  | devEventConsumer (v : Word32)
  | doorbell (stream : Fin 1024) (v : Word32)
  | doorbellHandle
  | msixTableWrite (dword : Fin 8192) (v : Word32)
  | bar0RegisterWrite (offset : Nat) (lo : Word32) (hi : Option Word32)
  | bar0BadAccess (write : Bool) (offset size : Nat)
  | bar2Access (offset len : Nat) (write : Option (List Byte))
  | configRequest (access : ConfigAccess)
  | hostIslandReset (cause : HostResetCause)
  | hostLinkUp
  | hostLossClose
  | rushSlice (stream : Fin 1024)
  | retime (stream : Fin 1024)
  | proxy (stream : Fin 1024)
  | unknownCommandEntry (stream : Fin 1024)
  | ovlList (stream : Fin 1024)
  | arrivalWindowOpen (stream : Fin 1024)
  | keyframeCutoff (stream : Fin 1024)
  | pyramidBuild (stream : Fin 1024) (group : Nat)
  | blockMatch (stream : Fin 1024) (group : Nat)
  | censusRefine (stream : Fin 1024) (group : Nat)
  | occlusionConfidence (stream : Fin 1024) (group : Nat)
  | rayTraversal (stream : Fin 1024) (group : Nat)
  | warpFallback (stream : Fin 1024) (frame : Nat) (row : Nat)
  | warpDoneToken (stream : Fin 1024) (frame : Nat) (row : Nat)
  | beatBoundary
  | callSheetSeal
  | callSheetArrive (corrupt : Bool)
  | takeAdmit
  | takeEnd (seen : TakeSeen)
  | spareRefillDone
  | takeDoneToken (remote : Option RemoteToken)
  | dueBeatPassed (stream : Fin 1024) (frame : Nat) (tile : Nat)
  | frameClose (stream : Fin 1024) (frame : Nat)
  | downgradeNotice
  | repairWindow (found : List RowFinding)
  | dollyMoveComplete (engine : Fin 16) (move : Move) (purpose : MovePurpose) (failed : Bool)
  | dramPatrol (stack : Fin 4) (finding : PatrolFinding)
  | errorDetect (cause : Cause) (unit : ErrorAt) (stream : Option (Fin 1024))
  | controlWatchdog (core : Fin 8)
  | tagTimeout (tag : Fin 16384)
  | generatedRecord
  | fallbackRecord
  | regionRecord
  | readbackRecord (g : Fin 4)
  | storeRecord
  | dailiesRecord
  | checkerStart
  | checkerFault (kind : CheckerFaultKind)
  | checkerSelfTest (good bad : Nat)
  | checkerScrub (uncorrectable : Bool)
  | safeAckEdge (e : Edge)
  | safeAckTimeout
  | ackStuck
  | spiRead (bytes : List Byte)
  | spiWrite (bytes : List Byte)
  | chkRelease (v : Word32)
  | chkChallenge (v : Word32)
  | chkCauseClear (v : Word32)
  | overlayBinRow (stream : Fin 1024) (frame : Nat) (row : Nat)
  | overlayPass (stream : Fin 1024) (frame : Nat) (row : Nat)
  | overlayPassAbandon (stream : Fin 1024) (frame : Nat) (row : Nat)
  | tileRowLatch (stream : Fin 1024) (frame : Nat) (row : Nat)
  | lineFetch (g : Fin 4)
  | lineRead (g : Fin 4)
  | lineMatch (g : Fin 4)
  | sob (g : Fin 4)
  | frameDone (g : Fin 4)
  | gatePllLock (g : Fin 4)
  | hpdEdge (g : Fin 4) (e : Edge)
  | hpdUnplug (g : Fin 4)
  | linkTraining (g : Fin 4) (seen : SinkSeen)
  | genlockEdge (e : Edge)
  | genlockLost (g : Fin 4)
  | flitSlot (port : Fin 6)
  | flitReceive (port : Fin 6) (bytes : List Byte) (frac : Byte)
  | retryWaitExpiry (port : Fin 6)
  | replayTimeout (port : Fin 6)
  | spliceTrainingAttempt (port : Fin 6) (peer : Bool)
  | spliceTrainingDone (port : Fin 6) (seen : TrainSeen)
  | retrainTimeout (port : Fin 6)
  | clapperCorrection
  | clapInEdge (e : Edge)
  | clapSourceLost
  | launchMessage (peer : Fin 16) (msg : LaunchMsg)
  | launchGoPoint
  | launchCommit
  | setCue (cue : Cue)
  | exchangePhase (takeId : Nat)
  | batchFrameComplete (stream : Fin 1024)
  | returningTestDone (kind : UnitKind) (index : Nat) (pass : Bool)
  | portReturnTimeout (port : Fin 6)
  | fwSwitchReady
  | fwSwitchTimeout
  | rollbackFuseUpdate
  | fundamentalReset (cause : ResetCause)
  | bootPllLock
  | bootImageVerify
  | fwLock (v : Word32)
  | fwReady (failedBlocks : List (Fin 36))
  | resetNAssert (e : Edge)
  | perstNAssert (e : Edge)
  | deferredEdge (pin : InputPin)
  | brownOut
  | thermalTrip
  | clapperFault
  | dramHot (stack : Fin 4) (tempQ : Int)
  | tjAlert (tempQ : Int)
  | smbReadWord (code : Byte)
  | smbWriteWord (code : Byte) (v : Word16) (pecGood : Bool)
  | smbAlertResponse
  | smbTjPeakRead
  | smbRateFaultsRead (second : Bool)
  | smbAlertClear (v : PecWord)
  | jtagInstruction (instr : JtagInstr)
  | gateFrameStart (g : Fin 4)
  | acceptedSourceWrite
  | dramAlert (tempQ : Int)
  | flashWriteDone
  | pagePatternTestDone (page : Nat) (pass : Bool)
  | idleTimeRepair (bank : BankPass)
  deriving DecidableEq, Repr

end Sys2Proof
end

