-- ==== Sys2Proof/Decode.lean ====
section
/-!
DEFINITION. The block has no instruction words: no row of spec/opcode_table.json gives a field or a bit, so no word
spells a command. Register writes, mailbox messages, flits and SPI transactions carry bytes; those are read where
they are handled (Machine/Operands.lean).
-/
namespace Sys2Proof

/-- The command a word spells by the table's bits: none, for every word (no row of the table gives bits). -/
def decodeTableWord (_nbits _w : Nat) : Option Instr := none

end Sys2Proof
end

