-- ==== Sys2Proof/Machine/Bytes.lean ====
section
/-!
DEFINITION. Little-endian fields of byte lists and bit fields of words (R8, R9), and the serial comparison of
R50.
-/
namespace Sys2Proof.Machine

/-- The byte at offset `i`; bytes beyond the list read as 0. -/
def byteAt (bs : List Byte) (i : Nat) : Byte := bs.getD i 0

/-- An unsigned little-endian field of `n` bytes at offset `off` (R9). -/
def leNat (bs : List Byte) (off : Nat) : Nat → Nat
  | 0 => 0
  | n + 1 => (byteAt bs off).toNat + 256 * leNat bs (off + 1) n

/-- The `n` bytes of `v`, least significant first (R9). -/
def leBytes : Nat → Nat → List Byte
  | 0, _ => []
  | n + 1, v => BitVec.ofNat 8 v :: leBytes n (v / 256)

/-- The two's-complement reading of an `n`-bit value. -/
def toSigned (bits v : Nat) : Int :=
  let w := v % 2 ^ bits
  if bits = 0 then 0 else if w < 2 ^ (bits - 1) then Int.ofNat w else Int.ofNat w - Int.ofNat (2 ^ bits)

/-- The `bits`-bit two's-complement code of `x`. -/
def ofSigned (bits : Nat) (x : Int) : Nat := (x % Int.ofNat (2 ^ bits)).toNat

/-- A signed little-endian field of `n` bytes. -/
def leInt (bs : List Byte) (off n : Nat) : Int := toSigned (8 * n) (leNat bs off n)

/-- `n` bytes of the list from offset `off`, padded with 0. -/
def slice (bs : List Byte) (off n : Nat) : List Byte :=
  let t := (bs.drop off).take n
  t ++ List.replicate (n - t.length) 0

/-- Overwrite `bs` from offset `off` with `v`, within its length. -/
def patch (bs : List Byte) (off : Nat) (v : List Byte) : List Byte :=
  let head := bs.take off
  let fit := v.take (bs.length - off)
  head ++ fit ++ bs.drop (off + fit.length)

/-- Zero bytes. -/
def zeros (n : Nat) : List Byte := List.replicate n 0

/-- Bits `[hi:lo]` of a number (R8). -/
def bitsOf (v hi lo : Nat) : Nat := v / 2 ^ lo % 2 ^ (hi + 1 - lo)

/-- Bit `i` of a number as a truth value. -/
def bitOf (v i : Nat) : Bool := v / 2 ^ i % 2 == 1

/-- Where 32-bit counters saturate. -/
def top32 : Nat := 2 ^ 32 - 1

/-- 1 or 0. -/
def bitN (b : Bool) : Nat := if b then 1 else 0

/-- `a` is after `b` in the serial order of R50 on 32-bit values. -/
def after32 (a b : Nat) : Bool :=
  let d := (a + 2 ^ 32 - b % 2 ^ 32) % 2 ^ 32
  decide (1 ≤ d) && decide (d ≤ 2 ^ 31 - 1)

/-- "Greater by 1" of R50. -/
def next32 (a b : Nat) : Bool := (a + 2 ^ 32 - b % 2 ^ 32) % 2 ^ 32 == 1

/-- `div_round` of R99, for a positive divisor. -/
def divRound (a : Int) (b : Nat) : Int := Int.fdiv (2 * a + Int.ofNat b) (2 * Int.ofNat b)

/-- Left rotation of a `bits`-bit value. -/
def rotl (bits v s : Nat) : Nat :=
  let w := v % 2 ^ bits
  (w <<< (s % bits) ||| w >>> (bits - s % bits)) % 2 ^ bits

/-- All bits of a `bits`-bit value inverted. -/
def invert (bits v : Nat) : Nat := 2 ^ bits - 1 - v % 2 ^ bits

/-- Number of bits of `v` that are 1, over its low `bits` bits. -/
def popcount : Nat → Nat → Nat
  | 0, _ => 0
  | n + 1, v => v % 2 + popcount n (v / 2)

/-- Cut a list into pieces of `n`. -/
def chunks {α : Type} (n : Nat) (xs : List α) : List (List α) :=
  if n = 0 then [] else (List.range (ceilDiv xs.length n)).map fun i => (xs.drop (i * n)).take n

/-- The ranges of `len` bytes from offset `off` of an area of several ranges. -/
def areaRanges : List (Nat × Nat) → Nat → Nat → List (Nat × Nat)
  | [], _, _ => []
  | r :: rest, off, len =>
    if len = 0 then [] else if r.2 ≤ off then areaRanges rest (off - r.2) len
    else (r.1 + off, min (r.2 - off) len) :: areaRanges rest 0 (len - min (r.2 - off) len)

end Sys2Proof.Machine
end

