-- ==== Sys2Proof/Machine/Digest.lean ====
section
/-!
DEFINITION. The checks and digests of the manual: CRC-32C (R46), CRC-64 (R220), SHA3-256 and SHA3-512
(R304, R482: FIPS 202), and what the signatures of R482 hash with: SHAKE128 and SHAKE256 (FIPS 202) and SHA-512 (FIPS 180-4).
-/
namespace Sys2Proof.Machine

/-- One bit of a reflected CRC. -/
def crcBit (poly c : Nat) : Nat := if c % 2 = 1 then (c >>> 1) ^^^ poly else c >>> 1

/-- Eight bits of a reflected CRC. -/
def crcByte (poly c : Nat) (b : Byte) : Nat :=
  let f := crcBit poly
  f (f (f (f (f (f (f (f (c ^^^ b.toNat))))))))

/-- CRC-32C of R46: Castagnoli polynomial 0x82F6_3B78 reflected, initial value and final XOR all ones. -/
def crc32c (bs : List Byte) : Nat := bs.foldl (crcByte 0x82F63B78) 0xFFFFFFFF ^^^ 0xFFFFFFFF

/-- CRC-64 of R220: polynomial 0xC96C_5795_D787_0F42 reflected, initial value and final XOR all ones. -/
def crc64 (bs : List Byte) : Nat :=
  bs.foldl (crcByte 0xC96C5795D7870F42) 0xFFFFFFFFFFFFFFFF ^^^ 0xFFFFFFFFFFFFFFFF

/-- One step of the shift register behind ι: multiply by x modulo x⁸ + x⁶ + x⁵ + x⁴ + 1 (FIPS 202, algorithm 5). -/
def iotaShift (r : Nat) : Nat := if r < 128 then 2 * r else (2 * r) ^^^ 0x171

/-- One round constant from a register state: bit 2^j − 1 is the register's low bit after j shifts, j = 0 … 6. -/
def iotaWord (r : Nat) : Nat :=
  ((List.range 7).foldl (fun (w : Nat × Nat) j => (w.1 + w.2 % 2 * 2 ^ (2 ^ j - 1), iotaShift w.2)) (0, r)).1

/-- The constants of `n` rounds from a register state: seven shifts a round. -/
def iotaWords : Nat → Nat → List Nat
  | 0, _ => []
  | n + 1, r => iotaWord r :: iotaWords n ((List.range 7).foldl (fun x _ => iotaShift x) r)

/-- ρ and π walk the lanes together: from (1, 0), step t moves a lane on to (y, 2 x + 3 y) turned by (t + 1)(t + 2) / 2
bits. `held` is the lane picked up at the place before (FIPS 202, algorithms 2 and 3). -/
def rhoPi : Nat → Nat → Nat → Nat → List Nat → List Nat
  | 0, _, _, _, a => a
  | n + 1, x, y, held, a =>
    let dst := y + 5 * ((2 * x + 3 * y) % 5)
    rhoPi n y ((2 * x + 3 * y) % 5) (a.getD dst 0)
      (a.set dst (rotl 64 held ((25 - (n + 1)) * (26 - (n + 1)) / 2 % 64)))

/-- θ: every lane takes the parities of the column before it and of the turned column behind it. -/
def theta (a : List Nat) : List Nat :=
  let parity (x : Nat) : Nat := ((List.range 5).map fun y => a.getD (x % 5 + 5 * y) 0).foldl (· ^^^ ·) 0
  let mix := (List.range 5).map fun x => parity (x + 4) ^^^ rotl 64 (parity (x + 1)) 1
  a.mapIdx fun i v => v ^^^ mix.getD (i % 5) 0

/-- χ on one row of five lanes. -/
def chiRow (r : List Nat) : List Nat :=
  r.mapIdx fun x v => v ^^^ (invert 64 (r.getD ((x + 1) % 5) 0) &&& r.getD ((x + 2) % 5) 0)

/-- One round of Keccak-f[1600]: θ, ρ with π, χ row by row, ι on the first lane. -/
def keccakRound (a : List Nat) (rc : Nat) : List Nat :=
  let m := theta a
  match (chunks 5 (rhoPi 24 1 0 (m.getD 1 0) m)).flatMap chiRow with
  | [] => []
  | v :: rest => (v ^^^ rc) :: rest

/-- The 24 round constants. -/
def keccakRC : List Nat := iotaWords 24 1

/-- Keccak-f[1600]. -/
def keccakF (a : List Nat) : List Nat := keccakRC.foldl keccakRound a

/-- XOR one block of `rate` bytes into the lanes and permute. -/
def keccakAbsorb (rate : Nat) (a : List Nat) (block : List Byte) : List Nat :=
  keccakF ((List.range 25).map fun i => a.getD i 0 ^^^ (if 8 * i < rate then leNat block (8 * i) 8 else 0))

/-- Absorb whole blocks; the last one, shorter than `rate`, gets the padding `suffix` … 0x80: suffix 0x06 for SHA-3, 0x1F for SHAKE. -/
def keccakSponge (rate : Nat) (suffix : Byte) : Nat → List Nat → List Byte → List Nat
  | 0, a, _ => a
  | fuel + 1, a, bs =>
    if bs.length < rate then
      let p := bs ++ [suffix] ++ zeros (rate - bs.length - 1)
      keccakAbsorb rate a (p.set (rate - 1) (p.getD (rate - 1) 0 ||| 0x80))
    else keccakSponge rate suffix fuel (keccakAbsorb rate a (bs.take rate)) (bs.drop rate)

/-- SHA3 with the given rate and output length. -/
def sha3 (rate out : Nat) (bs : List Byte) : List Byte :=
  let a := keccakSponge rate 6 (bs.length / rate + 1) (List.replicate 25 0) bs
  (a.flatMap (leBytes 8)).take out

/-- SHA3-256, every digest of R304. -/
def sha3_256 (bs : List Byte) : List Byte := sha3 136 32 bs

/-- SHA3-512, the message digest M of R482. -/
def sha3_512 (bs : List Byte) : List Byte := sha3 72 64 bs

/-- Squeeze `n` blocks of `rate` bytes from the lanes. -/
def keccakSqueeze (rate : Nat) : Nat → List Nat → List Byte
  | 0, _ => []
  | n + 1, a => (a.flatMap (leBytes 8)).take rate ++ keccakSqueeze rate n (keccakF a)

/-- SHAKE with the given rate: the first `out` bytes. -/
def shake (rate out : Nat) (bs : List Byte) : List Byte :=
  (keccakSqueeze rate (out / rate + 1) (keccakSponge rate 0x1F (bs.length / rate + 1) (List.replicate 25 0) bs)).take out

def shake128 (out : Nat) (bs : List Byte) : List Byte := shake 168 out bs
def shake256 (out : Nat) (bs : List Byte) : List Byte := shake 136 out bs

/-! ## SHA-512 (FIPS 180-4) -/

/-- The largest r of at most `bits` bits with r^k ≤ n. -/
def rootOf (k n bits : Nat) : Nat :=
  (List.range bits).foldl (fun r i =>
    let t := r + 2 ^ (bits - 1 - i)
    if t ^ k ≤ n then t else r) 0

/-- The first eighty primes. -/
def primes80 : List Nat := (List.range 410).filter fun n => decide (2 ≤ n) && (List.range n).all fun d => decide (d < 2) || !(n % d == 0)

/-- The first 64 bits of the fractional parts of the k-th roots of primes: constants of SHA-512. -/
def rootWords (k : Nat) (ps : List Nat) : List Nat := ps.map fun p => rootOf k (p * 2 ^ (64 * k)) 70 % 2 ^ 64

/-- A 64-bit word turned right. -/
def rotr64 (v n : Nat) : Nat := rotl 64 v (64 - n)

/-- The schedule of a block: its sixteen words and those that follow, oldest first. -/
def sha512Schedule (w : List Nat) : Nat → List Nat
  | 0 => w
  | n + 1 =>
    let prev := sha512Schedule w n
    let t := prev.length
    let g (i : Nat) : Nat := prev.getD (t - i) 0
    let s0 (x : Nat) : Nat := rotr64 x 1 ^^^ rotr64 x 8 ^^^ x / 2 ^ 7
    let s1 (x : Nat) : Nat := rotr64 x 19 ^^^ rotr64 x 61 ^^^ x / 2 ^ 6
    prev ++ [(s1 (g 2) + g 7 + s0 (g 15) + g 16) % 2 ^ 64]

/-- One round on the eight working variables. -/
def sha512Round (v : List Nat) (kw : Nat × Nat) : List Nat :=
  match v with
  | [a, b, c, d, e, f, g, h] =>
    let t1 := h + (rotr64 e 14 ^^^ rotr64 e 18 ^^^ rotr64 e 41) + ((e &&& f) ^^^ (invert 64 e &&& g)) + kw.1 + kw.2
    let t2 := (rotr64 a 28 ^^^ rotr64 a 34 ^^^ rotr64 a 39) + ((a &&& b) ^^^ (a &&& c) ^^^ (b &&& c))
    [(t1 + t2) % 2 ^ 64, a, b, c, (d + t1) % 2 ^ 64, e, f, g]
  | _ => v

/-- A big-endian number of bytes. -/
def beNat (bs : List Byte) : Nat := bs.foldl (fun n b => 256 * n + b.toNat) 0

/-- One block of 128 bytes. -/
def sha512Block (h : List Nat) (block : List Byte) : List Nat :=
  let w := sha512Schedule ((chunks 8 block).map beNat) 64
  let v := ((rootWords 3 primes80).zip w).foldl sha512Round h
  (h.zip v).map fun p => (p.1 + p.2) % 2 ^ 64

/-- SHA-512. -/
def sha512 (bs : List Byte) : List Byte :=
  let pad := (239 - bs.length % 128) % 128
  let whole := bs ++ [0x80] ++ zeros pad ++ (leBytes 16 (8 * bs.length)).reverse
  let h := (chunks 128 whole).foldl sha512Block (rootWords 2 (primes80.take 8))
  h.flatMap fun x => (leBytes 8 x).reverse

end Sys2Proof.Machine
end

