-- ==== Sys2Proof/Config.lean ====
section
/-!
DEFINITION. What a part fixes (the grade figures of Table 0.1, the device map of Table 7.2, the credit counts of
Table 1.4, the tag split of Table 7.5) and the values the manual leaves open: opaque constants with no body, so no
proof can see a value of one (log entries 10 to 19).
-/
namespace Sys2Proof

/-- The crossings of Table 1.4. -/
inductive Crossing where
  | hostFabric | fabricHost | hostControl | controlFabric | fabricControl
  | fabricDram (n : Fin 4) | fabricArray (k : Fin 9) | controlArray | arrayControl | arrayContinuity
  | fabricContinuity | continuityFabric | gateFabric (g : Fin 4) | gateContinuity (g : Fin 4)
  | spliceFabric (p : Fin 6) | fabricSplice (p : Fin 6)
  deriving DecidableEq, Repr

/-- Credits of a crossing: requests, the reserved ones among them, responses, the reserved ones among those. -/
structure Credits where
  req : Nat
  reqReserved : Nat
  rsp : Nat
  rspReserved : Nat
  deriving DecidableEq, Repr

/-- Balls that Balim drives by itself, apart from the answers of a transaction (Table 16.7). -/
inductive OutBall where
  | clapOut | safeState | thermTripN | smbAlertN | qspiCsN
  deriving DecidableEq, Repr

end Sys2Proof

namespace Sys2Proof.Config

/-- Part code of a grade (R5, Table 14.4). -/
def part : Grade → Nat
  | .nb3296 => 0x3296
  | .nb2896 => 0x2896
  | .nb2448 => 0x2448

/-- Active arrays of a grade (Table 0.1). -/
def activeArrays : Grade → Nat
  | .nb3296 => 32
  | .nb2896 => 28
  | .nb2448 => 24

/-- DRAM stacks of a grade (Table 0.1). -/
def stackCount : Grade → Nat
  | .nb2448 => 2
  | _ => 4

/-- First device address beyond DRAM (Table 7.2): 24 GiB for each stack. -/
def dramEnd (g : Grade) : Nat := stackCount g * 0x6_0000_0000

/-- First address of the firmware area, the top 1 GiB of DRAM (R229). -/
def firmwareBase (g : Grade) : Nat := dramEnd g - 0x4000_0000

/-- Bench, stage, MOTION scratch, line buffer and CONTROL memory ranges (Table 7.2). -/
def benchBase : Nat := 0xF0_0000_0000
def benchSize : Nat := 0x20_0000
def stageBase : Nat := 0xF0_0800_0000
def stageSize : Nat := 0x60_0000
def motionBase : Nat := 0xF0_1000_0000
def motionEnd : Nat := 0xF0_1008_0000
def lineBase : Nat := 0xF0_1008_0000
def lineSize : Nat := 0x2_0000
def controlBase : Nat := 0xF0_1010_0000
def controlEnd : Nat := 0xF0_1018_0000

/-- A DRAM page (R227). -/
def pageSize : Nat := 0x20_0000

/-- The allocation unit of the pool (R440, R466). -/
def poolUnit : Nat := 0x1_0000

/-- Ticks of the clapper in one beat (R2) and array cycles in one beat (R25). -/
def beatTicks : Nat := 500
def beatCycles : Nat := 1500

/-- The clapper advances 250,000,000 times a second (R2, R24). -/
def ticksPerSecond : Nat := 250_000_000

/-- The credit counts of Table 1.4. They do not change at run time (R28). -/
def credits : Crossing → Credits
  | .hostFabric | .fabricHost | .fabricArray _ => ⟨512, 32, 512, 32⟩
  | .hostControl => ⟨64, 8, 64, 8⟩
  | .controlFabric | .fabricDram _ => ⟨1024, 64, 1024, 64⟩
  | .fabricControl => ⟨256, 32, 256, 32⟩
  | .controlArray => ⟨2, 0, 0, 0⟩
  | .arrayControl | .arrayContinuity => ⟨64, 8, 0, 0⟩
  | .fabricContinuity | .continuityFabric => ⟨64, 8, 64, 8⟩
  | .gateFabric _ => ⟨128, 16, 128, 16⟩
  | .gateContinuity _ => ⟨16, 4, 0, 0⟩
  | .spliceFabric _ | .fabricSplice _ => ⟨256, 16, 256, 16⟩

/-- The crossing exists on the part: DRAM 2 and 3 are absent on NB-2448 (R22). -/
def hasCrossing (g : Grade) : Crossing → Bool
  | .fabricDram n => decide (n.val < stackCount g)
  | _ => true

/-- Flit credits per class and direction of a splice link, and the reserved part (Table 12.4). -/
def flitCredits : Nat := 256
def flitReserved : Nat := 16

/-- Record-store slots of the two classes (R407). -/
def recordSlotsDeadline : Nat := 3072
def recordSlotsBatch : Nat := 1024

/-- Offset of a copy of the clapper from one tick below the master: 0, 1 or 2 (R24: a copy differs by no more than
one tick). The manual does not say which; the island numbers are those of R444's regions (log 10). -/
opaque clapperSkew (island clap : Nat) : Fin 3

/-- Where firmware would like to put an allocation (R231: firmware places each kind of data; which free place it
picks is not stated). Used only where the place is free; otherwise the lowest free place is taken (log 11). -/
opaque placeHint (n : Nat) : Nat

/-- Which free handle firmware would like to assign to a tensor or a reel (R466, R467; log 11). -/
opaque handleHint (n : Nat) : Nat

/-- Where the virtual raster of a print stream begins, in 2^-32 ticks after the open, reduced modulo the frame
period: R41 gives the raster's shape and not its phase (log 12). -/
opaque rasterPhase (n : Nat) : Nat

/-- The PCI-SIG vendor ID of Nerlos Microsystems (Table 14.1 names it and gives no number; log 14). -/
opaque pciVendorId : Word16

/-- The JEDEC manufacturer code of Nerlos Microsystems (R519 names it and gives no number; log 14). -/
opaque jedecCode : BitVec 11

/-- What a configuration read returns beyond what the manual states (the layout of configuration space is PCI
Express 5.0's, R435; log 15). -/
opaque configSpace (n : Nat) : Word32

/-- What orders the capabilities of configuration space: PCI Express's standard (false) and extended (true) ones, by capability ID, go
by this key, and `capabilityGap` dwords stand free before each. The manual names the capabilities, not their places (R435; log 15). -/
opaque capabilityKey (extended : Bool) (id : Nat) : Nat
opaque capabilityGap (extended : Bool) (id : Nat) : Nat

/-- What a permitted JTAG instruction shifts out where the manual gives no value (boundary cells, the state of a
halted core; R519; log 15). -/
opaque jtagValue (n : Nat) : Nat

/-- The level that the boundary register drives on a ball under EXTEST, none where it leaves the ball at high impedance: the manual does
not lay the register out (R519; log 15). -/
opaque boundaryLevel (cells : List Byte) (ball : OutBall) : Option Bool

/-- Ticks from time 0 of Table 15.1 to the lock of the PLLs: at most 0.5 ms, with no figure given (log 48). -/
opaque lockTicks : Fin 125_001

/-- The output of the DSC encoder for one line: VESA DSC 1.2a, whose text is not part of the manual (R344; log 16). -/
opaque dscEncode (params : List Nat) (pixels : List Nat) : List Byte

/-- The VCORE power estimate SMB_PCORE in 1/8 W (Table 16.9: estimated from on-die sensing; log 17). -/
opaque corePower (n : Nat) : Word16

/-- The value a numeric operation leaves open: used where a rule states no result (log 18). -/
opaque freeValue (n : Nat) : Nat

/-- The next-block index of the last block of a chain in a tile-list area (R326 gives no end mark; log 69). -/
opaque chainEnd : BitVec 32


/-- Ticks a first response takes, less one: R36 and R488 bound it by one beat of 500 ticks and give no figure (log 23). -/
opaque responseTicks (n : Nat) : Fin 500

/-- Beats that FW_STAGE without flash write takes, less one: Table 14.16 bounds it by 500 and gives no figure (log 133). -/
opaque stageBeats (n : Nat) : Fin 500

/-- A member of the set refuses check 6 or 8 of STREAM_OPEN for a set reel (R395): its own streams and banks decide, which no rule
shows to the owner (log 97). The last argument is the member's share of the cycles of a tile. -/
opaque memberRefuses (n member check share : Nat) : Bool

/-- Extra cycles of x_beats (R395): full-rate cue, fill and exchange time of a set reel per tile row (log 19). -/
opaque setBeats (reel chips : Nat) : Nat

/-- Spare rows of a bank of MOTION scratch (0), of a line buffer (1) and of CONTROL memory (2): R252 has them repaired in the
same way as benches and stages, without giving a number (log 37). -/
opaque spareRows (kind : Nat) : Nat

/-- Data bytes of a packet, whether it is urgent, whether it is a request that waits for a response, whether a response
answers a request, and the header of an error response: parts of the 32-byte packet header that the manual does not lay
out (Table 12.3 gives the splice fields only; log 39). Arguments are header bytes. -/
opaque packetData (header : List Byte) : Fin 257
opaque packetUrgent (header : List Byte) : Bool
opaque packetWaits (header : List Byte) : Bool
opaque packetAnswers (response request : List Byte) : Bool
opaque errorHeader (request : List Byte) (code : Nat) : List Byte

/-- The rest of what a packet header says and the manual does not lay out: the device address that a write request's data go to, the
address and length that a read request asks for, whether the data are poisoned (R253), and the headers of a write that this chip sends and
of a response (log 39). -/
opaque packetWrite (header : List Byte) : Option Nat
opaque packetRead (header : List Byte) : Option (Nat × Fin 257)
opaque packetPoisoned (header : List Byte) : Bool
opaque writeHeader (address length : Nat) : List Byte
opaque answerHeader (request : List Byte) (poisoned : Bool) : List Byte

/-- Addresses that the writes between chips of a set go to, fixed and apart from timing: the place of an input row in its home's working
store, by (source chip, tile in take, expert, slot) (R397), of an expert's outputs in the owner's, and of the partial states of a
member's parts in the owner's bench (R396). The manual gives no layout (log 129). -/
opaque exchangeRow (source tile expert slot : Nat) : Nat
opaque exchangeReturn (home tile expert : Nat) : Nat
opaque exchangeState (step tile member : Nat) : Nat

/-- The header of a read of `length` bytes that this chip sends, and the dolly that makes the remote reads of a cued take: R394 names
neither (log 101). -/
opaque readHeader (address length : Nat) : List Byte
opaque fetchDolly (takeId : Nat) : Fin 16

/-- Where the owner's memory will hold an input of a tile that a cue names before the owner has it: address and length of each range. The
manual lays no fill list out (R394; log 101). -/
opaque cueFill (stream frame tile : Nat) (src : Src) : List (Nat × Nat)

/-- A request for the control cores tells that a member has met a chip-level error or can no longer be reached (R392): the manual lays
no such message out (log 74). -/
opaque reportsLoss (bytes : List Byte) : Bool

/-- Links between other members that a chip sees in UP state (R391), as (lower index, higher index, port on the lower
chip), and the port number at the far end of one of its own links: the manual does not say how a chip learns them (log 40). -/
opaque peerLinks (n : Nat) : List (Fin 16 × Fin 16 × Fin 6)
opaque farPort (n port : Nat) : Fin 6

/-- Rounding of half a 1/256 tick in R384, which the manual leaves open (log 41). -/
opaque roundHalf (n : Nat) : Fin 2

/-- Depth of a chip that takes its clapper from CLAP_IN: R382 and Table 12.5 give none (log 42). -/
opaque clapInDepth : Fin 16

end Sys2Proof.Config
end

