-- ==== Sys2Proof/Machine/State.lean ====
section
/-!
DEFINITION. The state of Balim as plain data, part by part in the order of the manual's chapters, the state after
reset, and the reasons a step can stop. Values the manual gives no reset value for are zero or empty (log 7).
-/
namespace Sys2Proof.Machine

/-! ## Fuses, flash, the answer of a command -/

/-- One-time fuses: grade (R3), chip ID (R380), VCORE setpoint in mV (R505), blown rollback bits (R484), key digests
(R482), and whether the fuses pass their check (R479). -/
structure Fuses where
  grade : Grade
  chipId : Nat
  vidMv : Nat
  rollback : Nat
  edDigest : List Byte
  mldsaDigest : List Byte
  ok : Bool
  deriving DecidableEq, Repr

/-- Secondary data of a DisplayPort main link (R343, R344): sync polarities and colorimetry in the MSA and the VSC SDP, the 32 bytes
of the HDR static metadata SDP, the configuration from which firmware builds the picture parameter set of the PPS SDP. -/
inductive Sdp where
  | msa (syncPol colorimetry : Nat)
  | vsc (colorimetry : Nat)
  | hdr (bytes : List Byte)
  | pps (params : List Nat)
  deriving DecidableEq, Repr

/-- What the last command answered or sent out of the chip. -/
structure Out where
  /-- Bytes returned to the requester: BAR, SPI, SMBus or JTAG data. -/
  data : List Byte
  /-- CHK_MISO was driven low for the whole SPI transaction, which was ignored or discarded (R424). -/
  misoLow : Bool
  /-- The Poisoned TLP bit (R253). -/
  poisoned : Bool
  /-- Configuration Request Retry Status (R476). -/
  crs : Bool
  /-- An error response (R226, R486), and whether it carries E_LINK in place of E_ADDRESS (R375). -/
  errorResponse : Bool
  linkError : Bool
  /-- MSI-X messages sent: address and data of the table entry (R448). -/
  msix : List (Nat × Nat)
  /-- A flit put on a splice port (R370): port and 256 bytes. -/
  flit : Option (Nat × List Byte)
  /-- Messages sent to peers of the set (R391, R394): destination set index and kind. -/
  peers : List (Nat × LaunchMsg)
  /-- Cues sent to members, and take-done tokens sent to an owner (R394): set index of the receiver. -/
  cues : List (Nat × Cue)
  tokens : List (Nat × RemoteToken)
  /-- A line put on a DisplayPort main link: gate and pixel codes, three per pixel (R342), or DSC bytes (R344). -/
  line : Option (Nat × List Nat)
  /-- Secondary data put on a main link: gate and packet. -/
  sdp : List (Nat × Sdp)
  /-- The message completed in this command: channel (R461). -/
  completed : List Nat
  deriving DecidableEq, Repr

/-! ## Clapper (chapter 12, R24) -/

/-- Clapper states of Table 12.7. -/
inductive ClapState where
  | free | acquiring | aligned | root
  deriving DecidableEq, Repr

/-- Clapper sources of R382. -/
inductive ClapSource where
  | internal | clapIn | splice
  deriving DecidableEq, Repr

/-- The CLAP_IN receiver of R387: time of the last accepted rising edge in eighths of a tick since the clapper began to count, the newest
bits read (newest first, at most 128), and the nominal value of the next rising edge once V has been accepted. -/
structure ClapRx where
  rise : Option Nat
  bits : List Bool
  nominal : Option Nat
  deriving DecidableEq, Repr

/-- The clapper and its alignment. `clap` is the master (R24). -/
structure Clock where
  clap : Nat
  running : Bool
  state : ClapState
  source : ClapSource
  depth : Nat
  /-- Newest e of R384 in 1/256 tick and the beat it was measured in. -/
  offset : Int
  offsetBeat : Option Nat
  /-- Newest e of an earlier beat than that one, and its beat (R385). -/
  before : Option (Int × Nat)
  /-- By how much corrections since the newest e have changed the clapper less the root's, in 1/256 tick (R383). -/
  moved : Int
  /-- Beats in a row with |e| < 1 tick (Table 12.7). -/
  steady : Nat
  delay : Nat
  rx : ClapRx
  /-- When the source last showed itself, in ticks since the clapper began to count (R388). -/
  lastTime : Option Nat
  /-- Beat of the last correction point, and whether the master holds its value for one more tick (R385). -/
  corrected : Option Nat
  holding : Bool
  /-- Ticks by which corrections have moved the master ahead of the time that has passed (R25, R385, R389). -/
  stepped : Int
  deriving DecidableEq, Repr

/-! ## Registers of BAR 0 (chapter 14) -/

/-- The device event ring and its indices (R460). -/
structure EventRing where
  base : Nat
  producer : Nat
  consumer : Nat
  lost : Nat
  lostSince : Nat
  deriving DecidableEq, Repr

/-- The DEVICE, ERROR-latch and CLAPPER-latch registers (Tables 14.4, 14.6, 14.8). `fw_phase` is 0 to 4. -/
structure Device where
  fwVersion : Nat
  fwReady : Bool
  fwPhase : Nat
  heartbeat : Nat
  hostEpoch : Nat
  mboxBusy : BitVec 16
  mboxDone : BitVec 16
  mboxError : BitVec 16
  bar2Base : Nat
  bar2Size : Nat
  scratch : Word32
  configLock : Bool
  clapHi : Word32
  beatHi : Word32
  lastBeatHi : Word32
  ring : EventRing
  deriving DecidableEq, Repr

/-- The PCI Express side of the host island: in reset or not, the beat it entered reset (R450), MSI-X table and
pending bits (R448), and the vector enable of the MSI-X capability. -/
structure HostPort where
  inReset : Bool
  lossBeat : Option Nat
  msixEnable : Bool
  msix : List (Nat × Word32)
  pend : List Nat
  /-- Configuration space (R435, R437): the base addresses of BAR 0 and BAR 2, and the power state D3hot. -/
  bar0 : Nat
  bar2 : Nat
  d3hot : Bool
  deriving DecidableEq, Repr

/-- What a deferred mailbox message waits for (Table 14.16). -/
inductive Waits where
  | streamClose (stream : Nat)
  | gateReset (gate : Nat)
  | launch
  | pageRetire (page : Nat)
  | unitReturn (kind : UnitKind) (index : Nat) (since : Nat)
  | fwStage (slot : Nat)
  | fwSwitch
  deriving DecidableEq, Repr

/-- A pending deferred message, the channel it answers into, and the tensor it reads (R466). -/
structure Deferred where
  chan : Nat
  waits : Waits
  tensor : Option Nat
  deriving DecidableEq, Repr

/-- The mailbox (R461, R463): sixteen channels of 256 bytes, mailbox order, pending deferred messages. -/
structure Mailbox where
  chans : Vector (List Byte) 16
  order : List Nat
  deferred : List Deferred
  deriving DecidableEq, Repr

/-- A doorbell write accepted and not yet handled: stream, ring, index, arrival time (R51, R261). -/
structure DoorbellWrite where
  stream : Nat
  ring : Nat
  index : Nat
  time : Nat
  deriving DecidableEq, Repr

/-! ## Errors (chapter 15) -/

/-- The 93 error slots of R488. -/
inductive Slot where
  | cell (b : Nat)
  | block (b : Nat)
  | region (k : Nat)
  | chip
  deriving DecidableEq, Repr

/-- Until when a slot is held (last column of Table 15.7). -/
inductive HeldUntil where
  | response (tick : Nat)
  | takeEnd (takeId : Nat)
  | frameStart
  | motionDiscard (tick : Nat)
  | latch (stream frame row : Nat)
  | gateFrame (gate frame : Nat)
  | spliceEvent
  | pageScheduled (page : Nat)
  | fundamental
  deriving DecidableEq, Repr

/-- A held slot. -/
structure HeldSlot where
  slot : Slot
  cause : Cause
  unit : Nat
  hold : HeldUntil
  /-- First mismatching cell and number of mismatching cells, up to 1,023 (R154). -/
  cells : Option (Nat × Nat)
  deriving DecidableEq, Repr

/-- A log entry in the fields of the ERROR_QUERY layout (Table 14.18). -/
structure LogEntry where
  seq : Nat
  level : Nat
  unit : Nat
  nested : Bool
  fatal : Bool
  action : Nat
  beat : Nat
  cause : Nat
  stream : Nat
  detail : Nat
  deriving DecidableEq, Repr

/-- The error log and slots: newest 4,096 entries, newest first (R465), ERR_STATUS, ERR_COUNT, and the clapper at the newest
chip-level entry (R484). -/
structure Errors where
  status : Word32
  count : Nat
  nextSeq : Nat
  log : List LogEntry
  slots : List HeldSlot
  halted : Bool
  chipAt : Option Nat
  /-- The entry of the halt and the 15 entries before it, newest first (R491). -/
  fatal : List LogEntry
  deriving DecidableEq, Repr

/-! ## Memory management (chapter 7) -/

/-- What a pool range holds (Table 7.3, Table 7.7). -/
inductive Owner where
  | tensor (handle : Nat)
  | reel (handle : Nat)
  | ringTable (stream : Nat)
  | ring (stream index : Nat)
  | store (stream part : Nat)
  | overlayArea (stream : Nat)
  | deviceRing
  /-- Activations of a stream that do not fit in the benches (R231). -/
  | spill (stream frame tile step : Nat)
  /-- A page of the firmware area that was copied (Table 7.7). -/
  | firmware
  deriving DecidableEq, Repr

/-- An allocated range of the pool. -/
structure Alloc where
  base : Nat
  len : Nat
  owner : Owner
  deriving DecidableEq, Repr

/-- A host window of Table 14.2. -/
structure Window2 where
  base : Nat
  len : Nat
  write : Bool
  owner : Owner
  deriving DecidableEq, Repr

/-- A page that is a retirement candidate or kept until its stream closes (R255); `chan` is the message waiting. -/
structure PageCandidate where
  page : Nat
  untilClose : Bool
  /-- Streams that have had a frame start since. -/
  started : List Nat
  deriving DecidableEq, Repr

/-- The pool: allocations, ranges that return at the end of a beat (R466), host windows, retired pages and
candidates. -/
structure Pool where
  allocs : List Alloc
  freeing : List (Nat × Nat × Nat)
  windows : List Window2
  retired : List Nat
  candidates : List PageCandidate
  pageErrors : List (Nat × Nat)
  deriving DecidableEq, Repr

/-- A tensor of TENSOR_ALLOC (R466). -/
structure TensorBuf where
  handle : Nat
  base : Nat
  bytes : Nat
  len : Nat
  deriving DecidableEq, Repr

/-- A firewall window (Table 15.4): first and last 64 KiB unit, requester classes that may read and write. -/
structure FwWindow where
  first : Nat
  last : Nat
  read : Nat
  write : Nat
  deriving DecidableEq, Repr

/-- The firewall block of Table 15.4. -/
structure Firewall where
  lock : Bool
  jtagPolicy : Nat
  fusePolicy : Nat
  windows : List FwWindow
  deriving DecidableEq, Repr

/-- A loaded reel (R233, R236, R239, R467, R492). `load` counts are those of the last reload. -/
structure LoadedReel where
  handle : Nat
  content : Reel
  setScope : Bool
  digest : List Byte
  weightDigest : List Byte
  base : Nat
  /-- The reload of R492 has taken place. -/
  ready : Bool
  /-- The next frame start is a reload (R492). -/
  reload : Bool
  arrays : Nat
  engines : Nat
  chips : Nat
  positions : List Nat
  engineMap : List Nat
  cTween : Nat
  cKey : Nat
  portions : List (List Nat)
  /-- Which steps of the tween and of the key sequence run on the frequency-domain path (R202). -/
  freqTween : List Bool
  freqKey : List Bool
  /-- 64 KiB units of the weight store that hold the image when hot (R236, R239), and those whose multicast fill is
  acknowledged. -/
  hot : Option (List Nat)
  filled : List Nat
  lastUse : Nat
  condemned : Bool
  /-- Portions still to pass in succession before the condemnation clears (R432). -/
  clearing : Option Nat
  deriving DecidableEq, Repr

/-! ## Streams (chapters 2, 8, 14) -/

/-- Stream states of Table 8.1. -/
inductive StreamState where
  | free | open_ | running | held | closing
  deriving DecidableEq, Repr

/-- Stream modes of Table 2.1. -/
inductive Mode where
  | upscale | tween | both | passthrough
  deriving DecidableEq, Repr

/-- Causes of HELD (R493), each with the beat at which it clears once that is known. -/
inductive HeldCause where
  | failedTake | loadFailed | pageCopy (page : Nat) | epochEnded | condemned
  deriving DecidableEq, Repr

/-- A cause of HELD in force. -/
structure HeldBy where
  cause : HeldCause
  clears : Option Nat
  deriving DecidableEq, Repr

/-- The STREAM_OPEN parameters (Table 14.20). -/
structure StreamParams where
  reel : Nat
  mode : Mode
  batch : Bool
  gate : Option Nat
  slates : Bool
  fingerprints : Bool
  cueEvents : Bool
  closeOnLoss : Bool
  outW : Nat
  outH : Nat
  renW : Nat
  renH : Nat
  n : Nat
  colour : Nat
  outRate : Nat
  planes : Nat
  leadRows : Nat
  overlayBeats : Nat
  tensorDepth : Nat
  depths : List Nat
  overlayArea : Nat
  seed : List Byte
  tolerance : Option (List Byte)
  deriving DecidableEq, Repr

/-- A PROXY entry that Balim has read and found valid (R112): its counter, its 64 bytes and its tensor. -/
structure Proxy where
  counter : Nat
  entry : List Byte
  tensor : Nat
  deriving DecidableEq, Repr

/-- A keyframe: its counter, time stamp, cut bit, arrival time, the ring index of its slice 0, the digests of its
slices and the proxy entry it took. -/
structure Key where
  counter : Nat
  ts : Nat
  cut : Bool
  arrival : Nat
  slot : Nat
  digests : List (List Byte)
  proxy : Option Proxy
  /-- Arrival times of its slices so far (R51). -/
  times : List Nat
  deriving DecidableEq, Repr

/-- How an output frame gets its pixels (R64). -/
inductive FrameKind where
  | tween | computed | copy | repeat_ | black
  deriving DecidableEq, Repr

/-- Progress of one tile through the units of the reel's sequence: its steps, a step split over chips being two (R294). -/
structure TileWork where
  /-- Units placed on sheets so far. -/
  placed : Nat
  /-- Units whose take ended ENDED, as the sequencer knows. -/
  ended : Nat
  /-- Take of each placed unit that may still be unfinished: unit, take_id. -/
  takes : List (Nat × Nat)
  /-- No further unit of the tile is placed (late, poison). -/
  withdrawn : Bool
  late : Bool
  deriving DecidableEq, Repr

/-- An output frame in progress. Times are in 2^-32 tick; a line lasts `lineNum / lineDen`. -/
structure Frame where
  index : Nat
  kind : FrameKind
  phase : Nat
  keyA : Option Nat
  keyB : Nat
  /-- The keyframes that its completion entry names, with their time stamps. -/
  nameA : Nat
  nameB : Nat
  tsA : Nat
  tsB : Nat
  hold : Bool
  /-- A frame of a cut RETIME entry: it uses no motion (R527). -/
  cut : Bool
  /-- Line `y` starts `base + (lines + y) · lineNum / lineDen`. -/
  base : Nat
  lines : Nat
  lineNum : Nat
  lineDen : Nat
  gateBeats : Nat
  /-- Half of the double-buffered stores (Table 7.4). -/
  half : Nat
  /-- Print-ring index (R79) and whether the print slot could not be taken (R454). -/
  output : Nat
  printSkipped : Bool
  /-- RETIME entry: its sequence, phase as written, slate and fingerprint flags (Table 2.9). -/
  entry : Nat
  entryPhase : Nat
  wantSlate : Bool
  wantFinger : Bool
  keySeq : Bool
  /-- Frame start placed (R238), with the position map, P and hot state then current (R234). -/
  begun : Bool
  positions : List Nat
  /-- P of the frame's first load, whose split of reductions its bits follow (Table 9.4); 0 before it. -/
  arrays : Nat
  /-- P of the map that it runs on. -/
  active : Nat
  /-- E, n and the paths of R202 of the load that the frame runs under. -/
  engines : Nat
  chips : Nat
  freq : List Bool
  /-- Whether the frame runs cold; none until its frame start has been processed (R238). -/
  cold : Option Bool
  /-- Frame before a resume point: nothing is computed (R493). -/
  skipped : Bool
  downgraded : Bool
  tiles : List TileWork
  doneRows : List Nat
  written : List Nat
  latched : List Nat
  closed : Bool
  poisoned : Bool
  motionLate : Nat
  overlayLate : Nat
  passesMax : Nat
  /-- The tensor digest (R307) of the host-tensor slots that the frame read, once they have been freed (R453). -/
  tensorSum : Option (List Byte)
  deriving DecidableEq, Repr

/-- A RETIME entry that was executed (R79). -/
structure Retime where
  seq : Nat
  keyA : Nat
  keyB : Nat
  phases : List Nat
  flags : Nat
  first : Nat
  next : Nat
  deriving DecidableEq, Repr

/-- A keyframe interval on a DEADLINE stream (R52). -/
structure Interval where
  key : Nat
  prev : Option Nat
  first : Nat
  len : Nat
  single : Bool
  deriving DecidableEq, Repr

/-- An accepted overlay list (R316 to R321): its place in ring 6, the frame from which it may apply, the clapper value of
its acceptance, and the address of its atlas where it has one. -/
structure OverlayList where
  seq : Nat
  minFrame : Nat
  accepted : Nat
  firstSlot : Nat
  regions : Nat
  prims : Nat
  atlas : Option Nat
  atlasW : Nat
  atlasH : Nat
  deriving DecidableEq, Repr

/-- Counters of STREAM_QUERY (Table 14.18). -/
structure Counters where
  frames : Nat
  keysAccepted : Nat
  keysRejected : Nat
  tilesLate : Nat
  tilesRejected : Nat
  tilesFallback : Nat
  convNan : Nat
  convOver : Nat
  convUnder : Nat
  charged : Nat
  printSkipped : Nat
  deriving DecidableEq, Repr

/-- Device addresses of a stream's structures (Table 7.4, R451, R326). -/
structure Homes where
  ringTable : Nat
  tileMap : List Nat
  fallback : List Nat
  generated : List Nat
  composite : List Nat
  records : List Nat
  pyramids : List Nat
  overlay : Nat
  bytes : Nat
  deriving DecidableEq, Repr

/-- Rush checking in progress (R48, R49): next ring index to check, the keyframe being assembled, expected slice,
whether slices are being discarded, last accepted counter and time stamp. -/
structure Rushes where
  read : Nat
  announced : List (Nat × Nat)
  partial_ : Option Key
  expected : Nat
  discarding : Bool
  last : Option (Nat × Nat)
  deriving DecidableEq, Repr

/-- The latched source of a tile (R347): shown code, the half of the composited store where the composite is fetched (R332), and the
frame half and store that the base comes from. -/
structure Latched where
  tile : Nat
  shown : Nat
  composite : Option Nat
  /-- Where the pixels are: 0 fallback, 1 generated, 2 composite store, 3 keyframe, 4 black. -/
  from_ : Nat
  half : Nat
  key : Nat
  deriving DecidableEq, Repr

/-- A frame's latched tiles and its index. -/
structure LatchedFrame where
  index : Nat
  tiles : List Latched
  deriving DecidableEq, Repr

/-- One entry of the active-stream table with all that firmware keeps of the stream. -/
structure Stream where
  state : StreamState
  p : StreamParams
  opened : Nat
  downgraded : Bool
  held : List HeldBy
  clearBeat : Option Nat
  resumeFrame : Option Nat
  /-- A cause 0, 2 or 3 was among those held: the resume point is a reload (R492). -/
  reload : Bool
  /-- The stream has resumed, and its next frame start is that reload. -/
  reloadDue : Bool
  budget : Nat
  account : Int
  demand : Nat
  cost : Nat
  rowWork : Nat
  tp : Nat
  motionBeats : Nat
  gateBeats : Nat
  xBeats : Nat
  pRow : Nat
  count : Counters
  homes : Homes
  rushes : Rushes
  keys : List Key
  proxies : List Proxy
  cmdRead : Nat
  ovlRead : Nat
  ovlLast : Option Nat
  lists : List OverlayList
  /-- Next output frame to be set up, its start (print or before commitment), the gate frame of frame 0. -/
  nextFrame : Nat
  rasterStart : Nat
  gateBase : Nat
  interval : Option Interval
  holdRun : Nat
  holdFirst : Nat
  /-- Where a late keyframe's interval has begun: the clapper value of that frame's cutoff, at which the run is posted (R54). -/
  runEnds : Option Nat
  cued : Option Nat
  /-- Candidate frames that were set up before their windows opened, oldest first (R58). -/
  cuesDue : List Nat
  /-- Pipeline times in force: each from an output frame on, newest first (R70). -/
  tpFrom : List (Nat × Nat)
  frames : List Frame
  /-- RETIME entries executed whose frames are not all set up, oldest first (R79). -/
  retime : List Retime
  retimes : Nat
  lastKeyA : Option Nat
  nextOutput : Nat
  lastSlate : List Byte
  /-- Latched tiles of the newest frame and the one before. -/
  shown : List LatchedFrame
  lostEvent : Nat
  lostFinger : Nat
  rangBeat : Option Nat
  deriving DecidableEq, Repr

/-! ## Sequencer and array island (chapters 1, 8) -/

/-- A tile of a stream's frame (the tile list of R275). -/
structure TileRef where
  stream : Nat
  frame : Nat
  tile : Nat
  deriving DecidableEq, Repr

/-- A call-sheet entry (Table 8.5), with what R269 charged for it. -/
structure Entry where
  takeId : Nat
  dailies : Bool
  tiles : List TileRef
  reel : Nat
  step : Nat
  /-- Unit of the tiles' sequence, and what the take runs of the step. -/
  unit : Nat
  part : Part
  keySeq : Bool
  freq : Bool
  cycles : Nat
  planned : Nat
  deps : List Nat
  charges : List (Nat × Nat)
  beat : Nat
  /-- Phase codes of its tiles, and the seed and step counter of the rounding bits of each (R302). -/
  phases : List Nat
  draws : List (List Byte × Nat)
  /-- Inputs that cued work reads from its owner (R394). -/
  fills : List CueFill
  /-- Admission waits for a fill acknowledgement beside the operand slots (cold weights, dailies inputs). -/
  needAck : Bool
  /-- Set index and take_id of the owner whose cue placed it (R394). -/
  owner : Option (Nat × Nat)
  deriving DecidableEq, Repr

/-- A sealed call sheet. -/
structure Sheet where
  beat : Nat
  dailies : Bool
  entries : List Entry
  first : Nat
  crc : Nat
  deriving DecidableEq, Repr

/-- A take-done token (Table 8.6): status, start and end cycle counted from power-up, conversion counts per tile. -/
structure Token where
  takeId : Nat
  status : Nat
  start : Nat
  finish : Nat
  counts : List (TileRef × Nat × Nat × Nat)
  /-- Tiles whose output was discarded (R279 to R281). -/
  lost : List TileRef
  /-- Blocks whose sticky flag the token carries (R154). -/
  flags : List Nat
  deriving DecidableEq, Repr

/-- A tensor held for a tile in the benches of the listed blocks, and which input slot or step output it is. A tensor of accumulator
states has their 16-byte values (Table 4.4) as its codes. `at_` are the ranges of the benches that hold its bytes: in the layout of R155
with the channel padding `pad`, or as states of `width` bytes each. -/
structure HeldTensor where
  tile : TileRef
  src : Src
  data : Tensor
  blocks : List Nat
  /-- It has left the array island for this place in the pool (R231), and whether its bytes stand there zero-run compressed (R223). -/
  spilled : Option Nat
  packed : Bool
  at_ : List (Nat × Nat)
  pad : Nat
  width : Option Nat
  deriving DecidableEq, Repr

/-- The take that holds the array island: which run, what the first run showed, whether it waits for a refill, and what the benches
held for its tiles when it began (its banks are its own, R18). -/
structure Running where
  entry : Entry
  run : Nat
  first : Nat
  start : Nat
  firstBad : List Nat
  secondBad : List Nat
  /-- Blocks that spares replaced for this take, with the spares. -/
  substituted : List (Nat × Nat)
  waitRefill : Bool
  operands : List HeldTensor
  deriving DecidableEq, Repr

/-- A dolly move that waits: its destination lies in a bank that the running take owns (R18), or an earlier move of its engine
waits (R244). -/
structure HeldMove where
  engine : Fin 16
  move : Move
  purpose : MovePurpose
  failed : Bool
  deriving DecidableEq, Repr

/-- The array island (R19, R32, R35, R430): current and next sheet, entries left of the current sheet, the take
holding the island, the dailies hold, fill acknowledgements, final statuses of takes, the bench and stage banks that the
running take owns, and the dolly moves held at the ingress. -/
structure ArrayIsland where
  current : Option Sheet
  next : Option Sheet
  left : List Entry
  hold : List Entry
  running : Option Running
  /-- Image bytes that dollies have brought for takes: take_id, block, bytes; and the takes whose fills are acknowledged. -/
  fills : List (Nat × Nat × Nat)
  acks : List Nat
  /-- Takes a fill of which ended with an error status: they read poison (R244, R253). -/
  tainted : List Nat
  finals : List (Nat × Nat)
  repaired : Option Nat
  lastEnd : Nat
  owned : List BankId
  held : List HeldMove
  deriving DecidableEq, Repr

/-- A unit of a substitution that becomes current at the next frame start (R494). -/
structure Subst where
  old : Nat
  new : Option Nat
  retire : Bool
  deriving DecidableEq, Repr

/-- A take of the owner that waits for members of the set (R394, R397): tokens still to come, whether one was not ENDED,
the cycles at which the local take started and ended. -/
structure Remote where
  takeId : Nat
  left : Nat
  bad : Bool
  token : Option Token
  deriving DecidableEq, Repr

/-- The sequencer and its accounts (R257 to R276). Accounts are in 1/16 cycle, cycles counted from power-up. `known` holds
the entries without a final token in sheet order, `interim` the newest interim token of each (take_id, status, end),
`tokens` the tokens on the array → control crossing, `received` those that wait for the next build. -/
structure Sequencer where
  floor : Int
  turn : Nat
  takeId : Nat
  h : Nat
  sealed : Nat
  /-- Sheets on the control → array crossing, oldest first. -/
  inflight : List Sheet
  known : List Entry
  interim : List (Nat × Nat × Nat)
  lastEnd : Nat
  tokens : List Token
  received : List Token
  badSheets : List Nat
  /-- Cued work of other owners that waits for a build, take by take (R394). -/
  cues : List (Cue × Part)
  remote : List Remote
  /-- The sheet built at the beat boundary, until it is sealed, with the cues that go out with it (R273, R394). -/
  draft : Option (Sheet × List (Nat × Cue))
  deriving DecidableEq, Repr

/-- Dailies in progress (R427 to R432). -/
structure Dailies where
  reel : Nat
  portion : Nat
  active : Bool
  again : Bool
  expected : List (Nat × Nat × Nat)
  /-- The dailies beat for which the portion was chosen (R429). -/
  chosenFor : Nat
  takesLeft : List Nat
  mismatch : Bool
  incomplete : Bool
  /-- The portion mismatched when it last ran to its end (R432). -/
  failed : Bool
  /-- The search of R498: reel, next position, block under test. -/
  search : Option (Nat × Nat × Option Nat)
  deriving DecidableEq, Repr

/-! ## Units (chapters 7, 15) -/

/-- The registers of a cell (R122, R152): accumulator and drain register in the layout of Table 4.4, and the running residue. -/
structure Cell where
  acc : Nat
  residue : Nat
  drain : Nat
  deriving DecidableEq, Repr

/-- A block: retired, under a returning test (R256, R496, R499), its sticky residue flag (R154), and its 1,024 cells in
row-major order (none listed: all registers zero). -/
structure BlockUnit where
  retired : Bool
  testing : Bool
  sticky : Bool
  cells : List Cell
  deriving DecidableEq, Repr

/-- A transform engine (R200, R201): retired, or under test. -/
structure EngineUnit where
  retired : Bool
  testing : Bool
  deriving DecidableEq, Repr

/-- A row with errors (R252): scrub passes that corrected it, uncorrectable, marked for repair. -/
structure RowMark where
  bank : BankId
  row : Nat
  passes : Nat
  uncorrectable : Bool
  marked : Bool
  deriving DecidableEq, Repr

/-- A repair: bank, spare row, redirected row. -/
structure Repair where
  bank : BankId
  spare : Nat
  row : Nat
  deriving DecidableEq, Repr

/-- All units that leave and return. -/
structure Units where
  blocks : Vector BlockUnit 36
  engines : Vector EngineUnit 9
  stageOut : List (Nat × Nat)
  stagePending : List (Nat × Nat)
  marks : List RowMark
  repairs : List Repair
  scrubNext : Nat
  substs : List Subst
  engineSubsts : List (Nat × Option Nat)
  /-- The working engine that is kept out of the engine maps (R200). -/
  standby : Option Nat
  pageTests : List Nat
  /-- Blocks that passed the returning test and become free spares at the next frame start (R496). -/
  returns : List Nat
  deriving DecidableEq, Repr

/-! ## MOTION (chapter 3) -/

/-- Block vectors of one pyramid level: vector and whether it is the hint. -/
structure BlockVec where
  vx : Int
  vy : Int
  hint : Bool
  deriving DecidableEq, Repr

/-- Census result of a pixel (R97 to R99): vector in 1/16 px, c0, and c2 of R104. -/
structure CensusPx where
  vx : Int
  vy : Int
  c0 : Nat
  c2 : Nat
  deriving DecidableEq, Repr

/-- A pair under analysis on a stream (R83): the rush-ring indices of slice 0 of its two keyframes, the finished row
groups of each engine, the results that stay inside MOTION, and whether the stream's record planes are this pair's. -/
structure Pair where
  stream : Nat
  a : Nat
  b : Nat
  pyrDone : List Nat
  blockDone : List Nat
  censusDone : List Nat
  occDone : List Nat
  rayDone : List Nat
  blocks : List (Nat × BlockVec)
  census : List (Nat × CensusPx)
  owns : Bool
  failed : Bool
  /-- MOTION works on the pair again from here (R87). -/
  resumeAt : Nat
  deriving DecidableEq, Repr

/-- MOTION: pyramids (stream, rush-ring index of the keyframe's slice 0, row groups of level 0 done), the pairs, and
done tokens on their way to the sequencer (stream, frame, row). -/
structure Motion where
  pyramids : List (Nat × Nat × List Nat)
  pairs : List Pair
  tokens : List (Nat × Nat × Nat)
  stopped : Bool
  /-- The last BATCH stream served (R84). -/
  lastBatch : Nat
  deriving DecidableEq, Repr

/-! ## Continuity checker (chapter 13) -/

/-- Phases of R403. -/
inductive Phase where
  | rom | run | fault
  deriving DecidableEq, Repr

/-- A checker log entry (R415). -/
structure CheckerLog where
  beat : Nat
  stream : Nat
  code : Nat
  detail : Nat
  frame : Nat
  deriving DecidableEq, Repr

/-- Decision state of one stream (R412, R416, R419, R420): histories newest first, and the frame being read back. -/
structure Decisions where
  stream : Nat
  tolerance : Option (List Byte)
  safety : Bool
  downgraded : Bool
  frames : List Bool
  regions : List Bool
  readback : List Bool
  rejects : List (Nat × Nat × Nat)
  judgedFrames : List Nat
  regionFrames : List (Nat × Bool)
  rbFrame : Option Nat
  rbTiles : List Nat
  rbCount : Nat
  /-- Tile row read back last, and the lowest and the highest first_line_ts of its tiles so far (R419). -/
  rbRowTs : Option (Nat × Nat × Nat)
  rbWorst : Nat
  matched : List (Nat × Nat)
  deriving DecidableEq, Repr

/-- A store CRC (R418, Table 13.1): stream, frame parity, tile, kind, crc. -/
structure StoreCrc where
  stream : Nat
  frame : Nat
  tile : Nat
  kind : Nat
  crc : Nat
  deriving DecidableEq, Repr

/-- An accepted verdict whose source = 1 is still to be written (R410). -/
structure PendingSource where
  stream : Nat
  frame : Nat
  tile : Nat
  beat : Nat
  deriving DecidableEq, Repr

/-- The checker: CHK_STATE and CHK_CAUSE (Tables 13.7, 13.8), SPI registers (Table 13.6), SAFE_STATE times, record
store, decision state, log, and the records on their way on the three crossings. -/
structure Checker where
  phase : Phase
  safe : Bool
  ackSeen : Bool
  blanking : Bool
  ackStuck : Bool
  faults : BitVec 4
  cause : Word32
  assertedAt : Nat
  releasedAt : Nat
  ackWaitStuck : Bool
  challenge : Word32
  response : Word32
  tolSelect : Word32
  rejects : Nat
  downgrades : Nat
  regionFaults : Nat
  readbackFaults : Nat
  dailiesFails : Nat
  log : List CheckerLog
  records : List (List Byte)
  streams : List Decisions
  stores : List StoreCrc
  pendingSource : List PendingSource
  notices : List (Nat × Nat)
  scrubAt : Nat
  fromArray : List (List Byte × Bool)
  /-- fabric → continuity: packet, kind, and whether it holds a reserved credit; then the packets that wait for one at their producers. -/
  fromFabric : List (List Byte × Nat × Bool)
  fabricWait : List (List Byte × Nat)
  /-- The source port that the fabric served last in round robin (Table 1.1). -/
  fabricTurn : Nat
  fromGate : Vector (List (List Byte)) 4
  deriving DecidableEq, Repr

/-! ## Overlay (chapter 10) -/

/-- Binning and drawing of one tile row (R328 to R333): next primitive to test and how many of its bins have their entry,
the entries held (bin number and list indices) and the blocks of their chains (R326), the sealed pass that waits for the cores and its
blocks, passes drawn, tiles drawn so far, whether binning and the row have ended. -/
structure RowBins where
  stream : Nat
  frame : Nat
  row : Nat
  nextPrim : Nat
  nextBin : Nat
  open_ : List (Nat × List Nat)
  chains : List (Nat × List Nat)
  sealed : Option (List (Nat × List Nat))
  sealedBlocks : List Nat
  drawn : Nat
  tiles : List Nat
  binned : Bool
  finished : Bool
  /-- An error in the OVERLAY region has ended the row's work. -/
  failed : Bool
  deriving DecidableEq, Repr

/-- A row whose binning has not begun. -/
def RowBins.begin (stream frame row : Nat) : RowBins :=
  { stream := stream, frame := frame, row := row, nextPrim := 0, nextBin := 0, open_ := [], chains := [], sealed := none, sealedBlocks := [],
    drawn := 0, tiles := [], binned := false, finished := false, failed := false }

/-- OVERLAY: rows in progress and region records already sent. -/
structure Overlay where
  rows : List RowBins
  regionsSent : List (Nat × Nat × Nat)
  stopped : Bool
  deriving DecidableEq, Repr

/-! ## Gates (chapter 11) -/

/-- The OUTPUT_CONFIGURE parameters (Tables 11.3, 14.22). -/
structure GateConfig where
  enable : Bool
  clone : Bool
  bpc : Nat
  hActive : Nat
  hFront : Nat
  hSync : Nat
  hBack : Nat
  vActive : Nat
  vFront : Nat
  vSync : Nat
  vBack : Nat
  clock : Nat
  syncPol : Nat
  linkRate : Nat
  lanes : Nat
  dsc : Bool
  dscBpp : Nat
  dscSlices : Nat
  dscHeight : Nat
  colorimetry : Nat
  matchLine : Nat
  fill : List Nat
  watermark : Nat
  genlock : Bool
  card : Nat
  ratio : Nat
  hdr : List Byte
  genOffset : Nat
  ppm : Nat
  deriving DecidableEq, Repr

/-- Genlock states of Table 11.5. -/
inductive GenlockState where
  | locked | unlocked | lost | rateFault
  deriving DecidableEq, Repr

/-- A gate and its island (R358 to R362). Times in 2^-32 tick; clocks in 1/256 Hz. The line buffer holds line, colour
format and pixels; lines from `v_active` on are those of the frame after. -/
structure Gate where
  cfg : Option GateConfig
  live : Option GateConfig
  /-- The island is in reset and its PLL not yet locked. -/
  locking : Bool
  runningGen : Bool
  events : BitVec 7
  hpdLevel : Bool
  linked : Bool
  genState : GenlockState
  underrunLine : Nat
  frame : Nat
  /-- start of the frame in `frame`: `lines` line times of its clock after `origin`. -/
  origin : Nat
  lines : Nat
  clocks : List Nat
  startHi : Word32
  fpxHi : Word32
  holder : Option Nat
  underruns : Nat
  pictureOff : Bool
  blanked : Bool
  filled : Nat
  sobDone : Bool
  doneSent : Bool
  lineMatched : Bool
  fetchLine : Nat
  buffer : List (Nat × Nat × List Nat)
  readLine : Nat
  readbacks : Nat
  /-- The falling edge of HPD that is being classified, timed as the accepted edges of the inputs are (R360). -/
  fallAt : Option Nat
  unplugged : Bool
  mustTrain : Bool
  trainAt : Nat
  videoNext : Bool
  capMismatch : Bool
  sink : Option SinkSeen
  genEdges : List Nat
  /-- The latest accepted rising edge of GENLOCK_IN, deferred ones included (R357, R525), in 2^-32 tick. -/
  genLast : Option Nat
  genGood : Nat
  /-- A change of the genlock state at SOB whose event the end of the tick posts (R352). -/
  genPost : Option GenlockState
  /-- start(f) of the frame in `frame` has been reached. -/
  begun : Bool
  /-- The training that `mustTrain` asks for answers an IRQ_HPD. -/
  irq : Bool
  /-- The CRC of each tile of the tile row being read out, before its final inversion (R350). -/
  crcs : List Nat
  /-- Converted pixels of the DSC slice row being encoded (R344). -/
  slice : List Nat
  /-- FEC is enabled on the trained main link (R337). -/
  fec : Bool
  /-- The PPS SDP has been sent since the last training (R344). -/
  ppsSent : Bool
  /-- When a failed training is tried again, while an IRQ_HPD is answered first (R362). -/
  retryAt : Option Nat
  deriving DecidableEq, Repr

/-! ## Splice and sets (chapter 12) -/

/-- Port states of Table 12.1. -/
inductive PortState where
  | disabled | down | up | retraining
  deriving DecidableEq, Repr

/-- A packet queued towards a port: class (true RSP), urgent, the bytes still to send, and whether some were sent. -/
structure Packet where
  rsp : Bool
  urgent : Bool
  bytes : List Byte
  begun : Bool
  deriving DecidableEq, Repr

/-- A splice port (R363 to R376). -/
structure Port where
  state : PortState
  retired : Bool
  width : Nat
  /-- Lanes that the link uses: 0 to 3, 0 and 1, or 2 and 3 (R364). -/
  lanes : List Nat
  roundTrip : Nat
  degraded : Bool
  /-- Transmit side: next seq, kept flits oldest first, flits to send again, credits, queued packets, RSP flits in a row
  before a waiting REQ flit, beat of the last TIME flit, clapper at which acks last advanced, replays since. -/
  txSeq : Nat
  kept : List (Nat × List Byte)
  replay : List (List Byte)
  reqCredits : Nat
  rspCredits : Nat
  queue : List Packet
  rspRun : Nat
  timeBeat : Option Nat
  lastAck : Nat
  replays : Nat
  /-- Receive side: expected seq, ack valid, retry to send and when it was last sent, credits to return, packet
  bytes assembled per class. -/
  rxSeq : Nat
  ackValid : Bool
  retryDue : Bool
  retrySent : Bool
  retryAt : Nat
  reqReturn : Nat
  rspReturn : Nat
  asmReq : List Byte
  asmRsp : List Byte
  /-- Payload bytes of the flits whose bytes still stand among these, oldest first, per class: they hold their credits (R376). -/
  reqFlits : List Nat
  rspFlits : List Nat
  /-- Arrival times of rejected flits of the last second. -/
  rejected : List Nat
  since : Nat
  trainingAt : Option Nat
  attemptAt : Option Nat
  /-- The peer's last TIME flit: payload, arrival ticks and fraction. -/
  peer : Option (List Byte × Nat × Nat)
  /-- Headers of the requests that wait for a response through the port, each with its operation tag (R31). -/
  waiting : List (List Byte × Nat)
  /-- Requests that came through the port and wait for an operation tag or a credit, and responses that wait for a credit, oldest
  first. -/
  stalled : List (List Byte)
  stalledRsp : List (List Byte)
  /-- Flits of whole packets that have not passed into the crossing, so that their credits wait (R376): REQ, RSP. -/
  unreturned : Nat
  unreturnedRsp : Nat
  deriving DecidableEq, Repr

/-- A launch in progress (R390, R391). -/
structure Launch where
  c : Nat
  epoch : Nat
  digests : List Byte
  /-- The topology that the chip saw when it accepted LAUNCH_AT, and its digest (R391). -/
  links : List (Nat × Nat × Nat)
  topology : List Byte
  reels : List Nat
  voted : Bool
  sentGo : Bool
  gos : List Nat
  committed : Bool
  deriving DecidableEq, Repr

/-- The launched epoch: number, the beat from which it places set takes, and route table (destination, next hops of
phase 0 and 1). -/
structure Epoch where
  number : Nat
  start : Nat
  routes : List (Nat × Option Nat × Option Nat)
  /-- Levels of the members in the agreed topology (R377). -/
  levels : List Nat
  reels : List Nat
  deriving DecidableEq, Repr

/-- An exchange between the chips of a set: the owner's take, its tiles and step, the current phase, whether it returns (R397);
`split` for the partial states of a split step (R294). -/
structure Exchange where
  takeId : Nat
  tiles : List TileRef
  phase : Nat
  back : Bool
  step : Nat
  split : Bool
  deriving DecidableEq, Repr

/-- What a remote read of cued work brings (R394): packet `part` of an input of a tile, for the take that waits for it. -/
structure Fetch where
  takeId : Nat
  tile : TileRef
  src : Src
  part : Nat
  deriving DecidableEq, Repr

/-- A request of this chip to another member: an array region's egress port writes (R396, R397), a dolly reads (R394). The exchange
whose phase it belongs to, what it fetches, and the packet. -/
structure SetRequest where
  who : Requester
  exchange : Option Nat
  fetch : Option Fetch
  bytes : List Byte
  deriving DecidableEq, Repr

/-- A request of this chip that waits for its response, under its operation tag. -/
structure SetInFlight where
  tag : Nat
  exchange : Option Nat
  fetch : Option Fetch
  deriving DecidableEq, Repr

/-- What a remote read has brought; `bad` where it met an error or poison (R253). -/
structure Fetched where
  fetch : Fetch
  data : List Byte
  bad : Bool
  deriving DecidableEq, Repr

/-- The set (R380). -/
structure SetState where
  members : List Nat
  index : Nat
  configured : Bool
  ports : Nat
  digest : List Byte
  launch : Option Launch
  epoch : Option Epoch
  /-- Beat boundary at which the epoch ends, and why (R380, R392). -/
  ending : Option (Nat × Nat)
  exchanges : List Exchange
  /-- Newest READY of each peer (R391). -/
  heard : List (Nat × LaunchMsg)
  /-- Packets that ports delivered to this chip (R284). -/
  inbox : List (List Byte)
  /-- Requests to other members that wait for a tag or a credit, oldest first, and those that wait for their responses (R394, R397). -/
  unsent : List SetRequest
  inFlight : List SetInFlight
  /-- This chip's responses to other members that wait for a credit, oldest first (R26). -/
  answers : List (List Byte)
  /-- What remote reads have brought for cued takes (R394), and the addresses of the packets that members have written here (R396,
  R397). -/
  fetched : List Fetched
  landed : List Nat
  hopErrors : Nat
  /-- The source that the fabric arbiter took last (Table 1.1): a port, or 6 for this chip's own packets. -/
  lastPort : Nat
  deriving DecidableEq, Repr

/-! ## Firmware and boot, pins, board management -/

/-- A staged or running image's header figures (Table 15.3). -/
structure Image where
  version : Nat
  rollback : Nat
  handover : Nat
  hmin : Nat
  hmax : Nat
  deriving DecidableEq, Repr

/-- A live switch in progress (Table 15.10). -/
structure Switch where
  since : Nat
  deriving DecidableEq, Repr

/-- Firmware life cycle (R474 to R502). `bootStep` is the last finished step of Table 15.1. -/
structure Firmware where
  bootStep : Nat
  image : Option Image
  fromSlot : Option Nat
  staged : Option Image
  stagedSlot : Option Nat
  writing : Option (Nat × List Byte)
  /-- Beat at which a FW_STAGE without flash write completes (R473, log 133). -/
  stageDue : Option Nat
  /-- No flash slot holds a valid image, or the fuses failed their check (R479). -/
  noImage : Bool
  switch : Option Switch
  runSince : Nat
  /-- Service of the watchdogs: beat each core last served it (R488). -/
  served : Vector Nat 8
  halted : List Nat
  deriving DecidableEq, Repr

/-- A filtered input (R514, R515, R525): filtered level, last accepted level, and the last accepted edge in eighths of a tick since the
clapper began to count, corrections of its value apart. -/
structure Input where
  pin : InputPin
  filtered : Bool
  level : Bool
  lastEdge : Option Nat
  deriving DecidableEq, Repr

/-- Why power or a trip holds the chip in reset (R509, R523). -/
inductive PowerHold where
  | none | brownOut | thermal
  deriving DecidableEq, Repr

/-- SMBus registers (Table 16.9) and straps (R504). -/
structure Board where
  straps : Nat
  tj : Int
  tjPeak : Int
  tdram : List Int
  limit : Int
  alert : BitVec 16
  rateGen : Nat
  rateClap : Nat
  rateAck : Nat
  rateHpd : Nat
  hot : List Nat
  hold : PowerHold
  thermTrip : Bool
  deriving DecidableEq, Repr

/-- Operation tags held across commands (R31, R245): tag, requester, tick of issue. -/
structure TagHold where
  tag : Nat
  who : Requester
  since : Nat
  deriving DecidableEq, Repr

/-- JTAG (R519): the instruction in force, and the boundary register as its last scan left it. -/
structure Jtag where
  last : Nat
  bypass : Bool
  cells : List Byte
  deriving DecidableEq, Repr

/-! ## The state -/

/-- Balim. `pending` is the queue of commands, `free` the counter the free values are taken at (the model's own). -/
structure State where
  pending : List Instr
  free : Nat
  out : Out
  fuses : Fuses
  flash : List Host.Cell
  clock : Clock
  dev : Device
  host : HostPort
  mbox : Mailbox
  doorbells : List DoorbellWrite
  err : Errors
  mem : List Host.Cell
  poison : List Nat
  wall : Firewall
  pool : Pool
  tensors : List TensorBuf
  reels : List LoadedReel
  streams : Vector Stream 1024
  opens : Nat
  arr : ArrayIsland
  seq : Sequencer
  dailies : Dailies
  bench : List HeldTensor
  units : Units
  motion : Motion
  chk : Checker
  ovl : Overlay
  gates : Vector Gate 4
  ports : Vector Port 6
  set : SetState
  fw : Firmware
  inputs : List Input
  board : Board
  tags : List TagHold
  jtag : Jtag
  deriving DecidableEq, Repr

/-- Why a command of the block faults: no rule of the manual stops the block, so no meaning raises this (R226 and
R486 give error responses). It stands for the manual's one dead end, a chip that is not powered: a later model may
raise it; stopping there is safe. -/
inductive Fault where
  | unpowered
  deriving DecidableEq, Repr

/-- Why a command is refused. -/
inductive Refusal where
  /-- Raised by an arm of `exec` whose command has no meaning yet: safe, nothing is claimed of it. -/
  | notModelled (mnemonic : String)
  deriving DecidableEq, Repr

/-! ## Reset values -/

def Out.none : Out := ⟨[], false, false, false, false, false, [], .none, [], [], [], .none, [], []⟩

def StreamParams.reset : StreamParams :=
  { reel := 0, mode := .upscale, batch := false, gate := none, slates := false, fingerprints := false,
    cueEvents := false, closeOnLoss := false, outW := 0, outH := 0, renW := 0, renH := 0, n := 0, colour := 0,
    outRate := 0, planes := 0, leadRows := 0, overlayBeats := 0, tensorDepth := 0, depths := [], overlayArea := 0,
    seed := [], tolerance := none }

def Counters.reset : Counters := ⟨0, 0, 0, 0, 0, 0, 0, 0, 0, 0, 0⟩

def Homes.reset : Homes := ⟨0, [], [], [], [], [], [], 0, 0⟩

def Rushes.reset : Rushes := ⟨0, [], none, 0, false, none⟩

/-- A stream after power-up: FREE (Table 8.1). -/
def Stream.reset : Stream :=
  { state := .free, p := StreamParams.reset, opened := 0, downgraded := false, held := [], clearBeat := none,
    resumeFrame := none, reload := false, reloadDue := false, budget := 0, account := 0, demand := 0, cost := 0, rowWork := 0, tp := 0, motionBeats := 0, gateBeats := 0, xBeats := 0, pRow := 0, count := Counters.reset,
    homes := Homes.reset, rushes := Rushes.reset, keys := [], proxies := [], cmdRead := 0, ovlRead := 0,
    ovlLast := none, lists := [], nextFrame := 0, rasterStart := 0, gateBase := 0, interval := none, holdRun := 0,
    holdFirst := 0, runEnds := none, cued := none, cuesDue := [], tpFrom := [], frames := [], retime := [], retimes := 0, lastKeyA := none,
    nextOutput := 0, lastSlate := [], shown := [], lostEvent := 0, lostFinger := 0, rangBeat := none }

/-- A dark gate with GATE_EVENTS = 0 (R358, Table 11.6). -/
def Gate.reset : Gate :=
  { cfg := none, live := none, locking := false, runningGen := false, events := 0, hpdLevel := false,
    linked := false, genState := .unlocked, underrunLine := 0, frame := 0, origin := 0, lines := 0, clocks := [], startHi := 0,
    fpxHi := 0, holder := none, underruns := 0, pictureOff := false, blanked := false, filled := 0,
    sobDone := false, doneSent := false, lineMatched := false, fetchLine := 0, buffer := [], readLine := 0,
    readbacks := 0, fallAt := none,
    unplugged := true, mustTrain := false, trainAt := 0, videoNext := false, capMismatch := false, sink := none,
    genEdges := [], genLast := none, genGood := 0, genPost := none, begun := false, irq := false, crcs := [], slice := [], fec := false,
    ppsSent := false, retryAt := none }

/-- A port after reset: DISABLED (Table 12.1), credits of Table 12.4. -/
def Port.reset : Port :=
  { state := .disabled, retired := false, width := 0, lanes := [], roundTrip := 0, degraded := false, txSeq := 0, kept := [],
    replay := [], reqCredits := Config.flitCredits, rspCredits := Config.flitCredits, queue := [], rspRun := 0,
    timeBeat := none, lastAck := 0, replays := 0, rxSeq := 0, ackValid := false, retryDue := false,
    retrySent := false, retryAt := 0, reqReturn := 0, rspReturn := 0, asmReq := [], asmRsp := [], reqFlits := [], rspFlits := [], rejected := [],
    since := 0, trainingAt := none, attemptAt := none, peer := none, waiting := [], stalled := [], stalledRsp := [],
    unreturned := 0, unreturnedRsp := 0 }

/-- Table 12.7 at power-up: ROOT, own count, not yet counting (Table 15.1 step 1). -/
def Clock.reset : Clock :=
  { clap := 0, running := false, state := .root, source := .internal, depth := 0, offset := 0, offsetBeat := none, before := none, moved := 0,
    steady := 0, delay := 0, rx := ⟨none, [], none⟩, lastTime := none, corrected := none,
    holding := false, stepped := 0 }

/-- Tables 14.4 to 14.8. BAR2_SIZE is 28 (256 MiB, R437). -/
def Device.reset : Device :=
  { fwVersion := 0, fwReady := false, fwPhase := 0, heartbeat := 0, hostEpoch := 0, mboxBusy := 0, mboxDone := 0,
    mboxError := 0, bar2Base := 0, bar2Size := 28, scratch := 0, configLock := false, clapHi := 0, beatHi := 0,
    lastBeatHi := 0, ring := ⟨0, 0, 0, 0, 0⟩ }

/-- The firewall with every window off: a last unit below the first would be needed, so the reset value 0 of both
is read with no class allowed (R486: with every window off, nothing passes; log 9). -/
def Firewall.reset : Firewall :=
  { lock := false, jtagPolicy := 0, fusePolicy := 0, windows := List.replicate 32 ⟨0, 0, 0, 0⟩ }

/-- Tables 13.6 to 13.8: phase ROM, SAFE_STATE asserted, cause rom_phase. -/
def Checker.reset : Checker :=
  { phase := .rom, safe := true, ackSeen := false, blanking := false, ackStuck := false, faults := 0,
    cause := 0x40, assertedAt := 0, releasedAt := 0, ackWaitStuck := false, challenge := 0, response := 0,
    tolSelect := 0, rejects := 0, downgrades := 0, regionFaults := 0, readbackFaults := 0, dailiesFails := 0,
    log := [], records := [], streams := [], stores := [], pendingSource := [], notices := [], scrubAt := 0,
    fromArray := [], fromFabric := [], fabricWait := [], fabricTurn := 2, fromGate := Vector.replicate 4 [] }

def ArrayIsland.reset : ArrayIsland :=
  { current := none, next := none, left := [], hold := [], running := none, fills := [], acks := [], tainted := [], finals := [],
    repaired := none, lastEnd := 0, owned := [], held := [] }

def Sequencer.reset : Sequencer :=
  { floor := 0, turn := 1023, takeId := 0, h := 0, sealed := 0, inflight := [], known := [], interim := [], lastEnd := 0,
    tokens := [], received := [], badSheets := [], cues := [], remote := [], draft := none }

def Dailies.reset : Dailies := ⟨0, 0, false, false, [], 0, [], false, false, false, none⟩

def Units.reset : Units :=
  { blocks := Vector.replicate 36 ⟨false, false, false, []⟩, engines := Vector.replicate 9 ⟨false, false⟩, stageOut := [],
    stagePending := [], marks := [], repairs := [], scrubNext := 0, substs := [], engineSubsts := [], standby := none,
    pageTests := [], returns := [] }

def SetState.reset : SetState :=
  { members := [], index := 0, configured := false, ports := 0, digest := zeros 32, launch := none, epoch := none, ending := none,
    exchanges := [], heard := [], inbox := [], unsent := [], inFlight := [], answers := [], fetched := [], landed := [], hopErrors := 0,
    lastPort := 6 }

def Firmware.reset : Firmware :=
  { bootStep := 1, image := none, fromSlot := none, staged := none, stagedSlot := none, writing := none,
    stageDue := none, noImage := false, switch := none, runSince := 0, served := Vector.replicate 8 0, halted := [] }

/-- The nine filtered inputs of Table 16.6 with no accepted edge yet: RESET_N and PERST_N released, the others low (log 7). -/
def inputsReset : List Input :=
  ([.genlock, .clapIn, .safeAck, .hpd 0, .hpd 1, .hpd 2, .hpd 3].map fun p => ⟨p, false, false, none⟩) ++
    [⟨.resetN, true, true, none⟩, ⟨.perstN, true, true, none⟩]

/-- Table 16.9: SMB_ALERT_LIMIT 0x0640. -/
def Board.reset : Board :=
  { straps := 0, tj := 0, tjPeak := 0, tdram := [0, 0, 0, 0], limit := 0x640, alert := 0, rateGen := 0,
    rateClap := 0, rateAck := 0, rateHpd := 0, hot := [], hold := .none, thermTrip := false }

/-- The fuses of the part the reset state stands for: NB-3296 with no rollback bit blown (log 6). -/
def Fuses.reset : Fuses :=
  { grade := .nb3296, chipId := 0, vidMv := 700, rollback := 0, edDigest := zeros 32, mldsaDigest := zeros 32,
    ok := true }

/-- The machine right after a fundamental reset (R474, Table 15.1 step 1), with the given fuses, flash and straps,
which keep their contents. -/
def State.afterReset (fuses : Fuses) (flash : List Host.Cell) (straps : Nat) : State :=
  { pending := [], free := 0, out := Out.none, fuses := fuses, flash := flash, clock := Clock.reset,
    dev := Device.reset, host := ⟨false, none, false, [], [], 0, 0, false⟩,
    mbox := ⟨Vector.replicate 16 (zeros 256), [], []⟩, doorbells := [], err := ⟨0, 0, 0, [], [], false, none, []⟩, mem := [],
    poison := [], wall := Firewall.reset, pool := ⟨[], [], [], [], [], []⟩, tensors := [], reels := [],
    streams := Vector.replicate 1024 Stream.reset, opens := 0, arr := ArrayIsland.reset, seq := Sequencer.reset,
    dailies := Dailies.reset, bench := [], units := Units.reset, motion := ⟨[], [], [], false, 1023⟩,
    chk := Checker.reset, ovl := ⟨[], [], false⟩, gates := Vector.replicate 4 Gate.reset,
    ports := Vector.replicate 6 Port.reset, set := SetState.reset, fw := Firmware.reset, inputs := inputsReset,
    board := { Board.reset with straps := straps }, tags := [], jtag := ⟨0, true, []⟩ }

/-- The machine after power-up with blank flash: every byte of the flash reads 0xFF (log 8). -/
def State.reset : State := State.afterReset Fuses.reset [] 0

end Sys2Proof.Machine
end

