-- ==== Sys2Proof/Machine/Ops.lean ====
section
/-!
DEFINITION. The named operations over the state: device memory and flash, poison, time and its island copies,
free values, MSI-X, the log, the event and cue rings, and the part-by-part updates every meaning uses. A block
takes no exception, so there is no exception entry here: an error is the effect of Machine/Errors.lean.
-/
namespace Sys2Proof.Machine

/-! ## Memory in canonical form -/

/-- A byte of a sparse memory whose unlisted addresses read as `d`. -/
def cellRead (d : Byte) : List Host.Cell → Nat → Byte
  | [], _ => d
  | (a, v) :: m, x => if x = a then v else cellRead d m x

/-- The cells that list a run of bytes from address `x`, the default byte left out. -/
def freshCells (d : Byte) : Nat → List Byte → List Host.Cell
  | _, [] => []
  | x, v :: vs => if v = d then freshCells d (x + 1) vs else (x, v) :: freshCells d (x + 1) vs

/-- Store a run of bytes from address `x`: the cells below it, the run, the cells beyond it. -/
def cellWriteMany (d : Byte) (m : List Host.Cell) (x : Nat) (vs : List Byte) : List Host.Cell :=
  m.filter (fun c => decide (c.1 < x)) ++ freshCells d x vs ++ m.filter (fun c => decide (x + vs.length ≤ c.1))

/-- The cells of an address range. -/
def cellWindow (m : List Host.Cell) (x n : Nat) : List Host.Cell :=
  m.filter fun c => decide (x ≤ c.1) && decide (c.1 < x + n)

/-- Every address of the list is above `lo` and rising, and no byte is the default. -/
def cellsAbove (d : Byte) : Option Nat → List Host.Cell → Bool
  | _, [] => true
  | lo, (a, v) :: m =>
    (match lo with | none => true | some l => decide (l < a)) && !(v == d) && cellsAbove d (some a) m

/-- The canonical form of a memory with default byte `d`. -/
def Memory.wfAt (d : Byte) (m : List Host.Cell) : Bool := cellsAbove d none m

/-- What a byte of DRAM or SRAM that nothing has written reads as: 0x00 (log 8). -/
def memDefault : Byte := 0

/-- What a byte of flash that nothing has written reads as: the erased value 0xFF (log 8). -/
def flashDefault : Byte := 0xFF

/-- The canonical form of device memory. -/
def Memory.wf (m : List Host.Cell) : Bool := Memory.wfAt memDefault m

/-- One byte of device memory. -/
def State.readByte (s : State) (a : Nat) : Byte := cellRead memDefault s.mem a

/-- `n` bytes of device memory from `a`. -/
def State.readBytes (s : State) (a n : Nat) : List Byte :=
  let w := cellWindow s.mem a n
  (List.range n).map fun i => cellRead memDefault w (a + i)

/-- A little-endian field of device memory. -/
def State.readNat (s : State) (a n : Nat) : Nat := leNat (s.readBytes a n) 0 n

/-- Bytes in one protected unit at `a`: a 64-bit SRAM word or a 32-byte DRAM sector (R253). -/
def unitSize (a : Nat) : Nat := if a < Config.benchBase then 32 else 8

/-- The address of the unit that holds `a`. -/
def unitBase (a : Nat) : Nat := a / unitSize a * unitSize a

/-- Insert into a rising list without repeats. -/
def insertUnit (x : Nat) : List Nat → List Nat
  | [] => [x]
  | y :: ys => if x < y then x :: y :: ys else if x = y then y :: ys else y :: insertUnit x ys

/-- The units that `n` bytes from `a` touch. -/
def unitsOf (a n : Nat) : List Nat :=
  if n = 0 then [] else
    let sz := unitSize a
    (List.range ((a + n - 1) / sz - a / sz + 1)).map fun i => (a / sz + i) * sz

/-- A read of the range meets poison (R253). -/
def State.poisonedAt (s : State) (a n : Nat) : Bool := (unitsOf a n).any fun u => s.poison.contains u

/-- Write bytes in one write: poison clears only in units the write covers whole (R253). -/
def State.writeBytes (s : State) (a : Nat) (bs : List Byte) : State :=
  { s with mem := cellWriteMany memDefault s.mem a bs,
           poison := s.poison.filter fun u => !(decide (a ≤ u) && decide (u + unitSize u ≤ a + bs.length)) }

/-- Write a little-endian field. -/
def State.writeNat (s : State) (a n v : Nat) : State := s.writeBytes a (leBytes n v)

/-- Poison the units of a range. -/
def State.poisonRange (s : State) (a n : Nat) : State :=
  { s with poison := (unitsOf a n).foldl (fun p u => insertUnit u p) s.poison }

/-- Bytes of the flash. -/
def State.flashBytes (s : State) (a n : Nat) : List Byte :=
  let w := cellWindow s.flash a n
  (List.range n).map fun i => cellRead flashDefault w (a + i)

/-- Write bytes of the flash. -/
def State.flashWrite (s : State) (a : Nat) (bs : List Byte) : State :=
  { s with flash := cellWriteMany flashDefault s.flash a bs }

/-- The address is one Table 7.2 lists for the grade (R226). -/
def mapped (g : Grade) (a : Nat) : Bool :=
  decide (a < Config.dramEnd g) ||
  (decide (Config.benchBase ≤ a) && decide (a < Config.benchBase + 36 * Config.benchSize)) ||
  (decide (Config.stageBase ≤ a) && decide (a < Config.stageBase + 9 * Config.stageSize)) ||
  (decide (Config.motionBase ≤ a) && decide (a < Config.controlEnd))

/-- The class bit of a requester (Table 15.5). -/
def classBit : Requester → Nat
  | .host => 0
  | .splice _ => 1
  | .dolly _ => 2
  | .control => 3
  | .gate _ => 4
  | .motion => 5
  | .overlay => 6
  | .continuity => 7
  | .egress _ => 8
  | .warp => 9
  | .jtag => 10

/-- The region whose slot takes the requester's violations (R486, numbers of R444). -/
def requesterRegion : Requester → Nat
  | .host => 12
  | .splice _ => 13
  | .dolly _ => 18
  | .control => 18
  | .gate _ => 11
  | .motion => 9
  | .overlay => 10
  | .continuity => 19
  | .egress k => k.val
  | .warp => 9
  | .jtag => 18

/-- One window that is on contains every byte and allows the class (R486). -/
def Firewall.passes (w : Firewall) (who : Requester) (write : Bool) (a n : Nat) : Bool :=
  w.windows.any fun x =>
    decide (x.first ≤ x.last) && decide (x.first * Config.poolUnit ≤ a) &&
    decide (a + n ≤ (x.last + 1) * Config.poolUnit) && bitOf (if write then x.write else x.read) (classBit who)

/-! ## Parts of the state -/

def State.updStream (s : State) (i : Nat) (f : Stream → Stream) : State :=
  if h : i < 1024 then { s with streams := s.streams.set i (f (s.streams[i])) } else s

def State.stream (s : State) (i : Nat) : Stream := if h : i < 1024 then s.streams[i] else Stream.reset

def State.updGate (s : State) (i : Nat) (f : Gate → Gate) : State :=
  if h : i < 4 then { s with gates := s.gates.set i (f (s.gates[i])) } else s

def State.gate (s : State) (i : Nat) : Gate := if h : i < 4 then s.gates[i] else Gate.reset

def State.updPort (s : State) (i : Nat) (f : Port → Port) : State :=
  if h : i < 6 then { s with ports := s.ports.set i (f (s.ports[i])) } else s

def State.port (s : State) (i : Nat) : Port := if h : i < 6 then s.ports[i] else Port.reset

def State.updBlock (s : State) (i : Nat) (f : BlockUnit → BlockUnit) : State :=
  if h : i < 36 then { s with units := { s.units with blocks := s.units.blocks.set i (f (s.units.blocks[i])) } }
  else s

def State.block (s : State) (i : Nat) : BlockUnit := if h : i < 36 then s.units.blocks[i] else ⟨true, false, false, []⟩

def State.updEngine (s : State) (i : Nat) (f : EngineUnit → EngineUnit) : State :=
  if h : i < 9 then { s with units := { s.units with engines := s.units.engines.set i (f (s.units.engines[i])) } }
  else s

def State.engine (s : State) (i : Nat) : EngineUnit := if h : i < 9 then s.units.engines[i] else ⟨true, false⟩

def State.setChan (s : State) (c : Nat) (bs : List Byte) : State :=
  if h : c < 16 then { s with mbox := { s.mbox with chans := s.mbox.chans.set c bs } } else s

def State.chanBytes (s : State) (c : Nat) : List Byte := if h : c < 16 then s.mbox.chans[c] else zeros 256

def State.updReel (s : State) (h : Nat) (f : LoadedReel → LoadedReel) : State :=
  { s with reels := s.reels.map fun r => if r.handle = h then f r else r }

def State.reel? (s : State) (h : Nat) : Option LoadedReel := s.reels.find? fun r => r.handle == h

def State.tensor? (s : State) (h : Nat) : Option TensorBuf := s.tensors.find? fun t => t.handle == h

def State.decisions? (s : State) (i : Nat) : Option Decisions := s.chk.streams.find? fun d => d.stream == i

def State.updDecisions (s : State) (i : Nat) (f : Decisions → Decisions) : State :=
  { s with chk := { s.chk with streams := s.chk.streams.map fun d => if d.stream = i then f d else d } }

def State.updFrame (s : State) (i frame : Nat) (f : Frame → Frame) : State :=
  s.updStream i fun st => { st with frames := st.frames.map fun x => if x.index = frame then f x else x }

def State.frame? (s : State) (i frame : Nat) : Option Frame :=
  (s.stream i).frames.find? fun x => x.index == frame

/-- The streams that are not FREE, in ascending number. -/
def State.openStreams (s : State) : List Nat :=
  (List.range 1024).filter fun i => !((s.stream i).state == .free)

/-- Clear the answers of the command before (`out` holds those of the last command only). -/
def State.fresh (s : State) : State := { s with out := Out.none }

/-- The next number for a free value; reading one advances the counter. -/
def State.spend (s : State) : State := { s with free := s.free + 1 }

def State.answer (s : State) (bs : List Byte) : State := { s with out := { s.out with data := bs } }

/-! ## Time -/

/-- The beat number (R2). -/
def State.beat (s : State) : Nat := s.clock.clap / Config.beatTicks

/-- The tick within the beat. -/
def State.tickInBeat (s : State) : Nat := s.clock.clap % Config.beatTicks

/-- An island's copy of the clapper: within one tick of the master (R24). -/
def islandCopy (island clap : Nat) : Nat := clap + (Config.clapperSkew island clap).val - 1

def State.copy (s : State) (island : Nat) : Nat := islandCopy island s.clock.clap

/-! ## Crossings (R26 to R31) -/

/-- Entries of a class that hold a credit of a crossing. A queue of the state may be longer: its entries beyond the crossing's credits
wait at the producer (R26). Crossings that are not named here carry their entries within one command and are empty between
commands; the doorbells that wait for firmware have left theirs (log 95). -/
def State.onCrossing (s : State) (c : Crossing) (rsp : Bool) : Nat :=
  let cr := Config.credits c
  let top := if rsp then cr.rsp else cr.req
  min top (match c, rsp with
    | .controlArray, false => s.seq.inflight.length + bitN s.arr.next.isSome + bitN s.arr.current.isSome
    | .arrayControl, false => s.seq.tokens.length
    | .arrayContinuity, false => s.chk.fromArray.length
    | .fabricContinuity, false => s.chk.fromFabric.length
    | .gateContinuity g, false => (s.chk.fromGate[g.val]).length
    | .fabricSplice p, r => ((s.port p.val).queue.filter fun q => q.rsp == r).length
    | _, _ => 0)

/-- A crossing whose consumer is in reset: its producers hold no credit (R30). -/
def State.crossingClosed (s : State) (c : Crossing) (rsp : Bool) : Bool :=
  match c, rsp with
  | .fabricHost, _ => s.host.inReset
  | .hostFabric, true => s.host.inReset
  | .hostControl, true => s.host.inReset
  | .gateFabric g, true => !(s.gate g.val).runningGen
  | _, _ => false

/-- Credits of a class that a producer holds for its next entries: the reserved ones only for urgent entries (R27, R28, R30). -/
def State.creditsLeft (s : State) (c : Crossing) (rsp urgent : Bool) : Nat :=
  let cr := Config.credits c
  let kept := if urgent then 0 else if rsp then cr.rspReserved else cr.reqReserved
  if s.crossingClosed c rsp then 0 else (if rsp then cr.rsp else cr.req) - kept - s.onCrossing c rsp

/-- A packet of the fabric → continuity crossing is urgent (R27): a continuity record (kind 0), not a region or store record. -/
def fabricUrgent (kind : Nat) : Bool := kind == 0

/-- Put one packet on the fabric → continuity crossing where a credit is free for it: an unreserved one, or a reserved one for an urgent
packet. -/
def State.ontoFabric (s : State) (q : List Byte × Nat) : Option State :=
  let cr := Config.credits .fabricContinuity
  let plain := (s.chk.fromFabric.filter fun e => !e.2.2).length
  let reserved := s.chk.fromFabric.length - plain
  let put (r : Bool) : State := { s with chk := { s.chk with fromFabric := s.chk.fromFabric ++ [(q.1, q.2, r)] } }
  if plain < cr.req - cr.reqReserved then some (put false)
  else if fabricUrgent q.2 && decide (reserved < cr.reqReserved) then some (put true)
  else none

/-- The source port of a packet of that crossing: 0 the egress of the arrays, 1 the warp unit, 2 OVERLAY (the kinds of store record are
those of Table 13.1, byte 2 of the record). -/
def fabricSource (q : List Byte × Nat) : Nat :=
  if q.2 = 0 then 1
  else if q.2 = 1 then 2
  else if (byteAt q.1 2).toNat = 0 then 0 else if (byteAt q.1 2).toNat = 2 then 2 else 1

/-- The waiting packet that the fabric serves next: the oldest urgent one, else round robin over the source ports after the one served
last (Table 1.1). -/
def pickFabric (turn : Nat) (ws : List (List Byte × Nat)) : Option (List Byte × Nat) :=
  match ws.find? fun q => fabricUrgent q.2 with
  | some q => some q
  | none => ([1, 2, 3].map fun i => (turn + i) % 3).findSome? fun k => ws.find? fun q => fabricSource q == k

/-- Waiting packets go onto the crossing as far as there are credits. -/
def State.fillFabricBy (s : State) : Nat → State
  | 0 => s
  | n + 1 => match pickFabric s.chk.fabricTurn s.chk.fabricWait with
    | none => s
    | some q => match s.ontoFabric q with
      | none => s
      | some t => State.fillFabricBy
          { t with chk := { t.chk with fabricWait := t.chk.fabricWait.erase q, fabricTurn := fabricSource q } } n

def State.fillFabric (s : State) : State := s.fillFabricBy s.chk.fabricWait.length

/-- Send a packet on the fabric → continuity crossing: 0 continuity record, 1 region record, 2 store record. -/
def State.sendFabric (s : State) (bs : List Byte) (kind : Nat) : State :=
  match s.ontoFabric (bs, kind) with
  | some t => t
  | none => { s with chk := { s.chk with fabricWait := s.chk.fabricWait ++ [(bs, kind)] } }

/-- Region numbers of R444 used for the islands of R24. -/
def hostIsland : Nat := 12
def gateIsland (g : Nat) : Nat := 32 + g
def spliceIsland : Nat := 13
def checkerIsland : Nat := 19

/-- The time stamp of an event: that of its island's copy, or of the master where the island has none (R24). -/
def State.stampIn (s : State) (island : Option Nat) : Nat :=
  match island with
  | some i => if s.clock.running then s.copy i else s.clock.clap
  | none => s.clock.clap

/-- The island of an event with a copy of its own: a gate's, the splice, host and continuity islands'; any other event occurs where the
master is, or in an island without a copy. -/
def eventIsland (code detail : Nat) : Option Nat :=
  if 0x10 ≤ code ∧ code ≤ 0x1F then some (gateIsland detail)
  else if code = 0x20 ∨ code = 0x21 then some spliceIsland
  else if code = 0x26 then some hostIsland
  else if 0x40 ≤ code then some checkerIsland
  else none

/-- The island of an error's unit: SCAN (that of gate 0 where the error names no gate), HOST, SPLICE or CONTINUITY. -/
def unitIsland (level unit : Nat) : Option Nat :=
  if level ≠ 2 then none
  else if unit = 11 then some (gateIsland 0)
  else if unit = 12 then some hostIsland
  else if unit = 13 then some spliceIsland
  else if unit = 19 then some checkerIsland
  else none

/-- Timed events bring the clapper forward to their time when it is not there yet (log 3). The clapper counts only
while it runs (Table 15.1). -/
def State.advanceTo (s : State) (t : Nat) : State :=
  if s.clock.running && decide (s.clock.clap < t) then { s with clock := { s.clock with clap := t, holding := false } } else s

/-- One tick: what the block does when no command waits (log 4). A held value lasts one tick more (R385). -/
def State.tick (s : State) : State :=
  if !s.clock.running then s
  else if s.clock.holding then { s with clock := { s.clock with holding := false } }
  else { s with clock := { s.clock with clap := (s.clock.clap + 1) % 2 ^ 64 } }

/-- A clapper time in eighths of a tick as the time, in the same unit, since the clapper began to count: the corrections of its value are
taken out, so that differences are intervals (R515). -/
def State.rawTime (s : State) (t : Nat) : Nat := (Int.ofNat t - 8 * (s.clock.stepped + Int.ofNat (bitN s.clock.holding))).toNat

/-- The clapper time at which such a time comes, with no further correction before it. -/
def State.clapTime (s : State) (t : Nat) : Nat := (Int.ofNat t + 8 * s.clock.stepped).toNat

/-- Ticks since the clapper began to count. -/
def State.rawTick (s : State) : Nat := s.rawTime (8 * s.clock.clap) / 8

/-- The clapper value at a tick since the clapper began to count. -/
def State.clapTick (s : State) (t : Nat) : Nat := s.clapTime (8 * t) / 8

/-- Array cycles in one tick of the clapper (R25); they are counted from power-up (log 35). -/
def cyclesPerTick : Nat := 3

/-- The array cycle at which the clapper reaches a value: a correction of one tick makes its beat three cycles longer or
shorter (R25). -/
def State.cycleAt (s : State) (clap : Nat) : Nat := cyclesPerTick * (Int.ofNat clap - s.clock.stepped).toNat

/-- The present cycle, counted from power-up. -/
def State.cycle (s : State) : Nat := s.cycleAt s.clock.clap

/-- The cycle of the boundary of a beat, with no further correction before it. -/
def State.beatCycle (s : State) (n : Nat) : Nat := s.cycleAt (Config.beatTicks * n)

/-- Bring the clapper forward to an array cycle. -/
def State.advanceCycle (s : State) (c : Nat) : State :=
  s.advanceTo (Int.ofNat (ceilDiv c cyclesPerTick) + s.clock.stepped).toNat

/-- 2^-32 ticks in one tick, the resolution of gate times (log 20). -/
def subTicks : Nat := 2 ^ 32

/-- Firmware is running and takes work: no halt, not in phase 4 (R479, R491). -/
def State.firmwareUp (s : State) : Bool := s.dev.fwReady && !(s.dev.fwPhase == 4) && !s.err.halted

/-! ## MSI-X (R448) -/

/-- A dword of the MSI-X table: entries are masked until written (log 21). -/
def HostPort.msixDword (h : HostPort) (i : Nat) : Word32 :=
  match h.msix.find? fun e => e.1 == i with
  | some e => e.2
  | none => if i % 4 = 3 then 1 else 0

/-- The vector is unmasked and messages can leave. -/
def HostPort.canSend (h : HostPort) (v : Nat) : Bool :=
  h.msixEnable && !h.inReset && !(h.msixDword (4 * v + 3)).getLsbD 0

/-- The message of a vector: address and data. -/
def HostPort.message (h : HostPort) (v : Nat) : Nat × Nat :=
  ((h.msixDword (4 * v)).toNat + 2 ^ 32 * (h.msixDword (4 * v + 1)).toNat, (h.msixDword (4 * v + 2)).toNat)

/-- Raise a vector: send its message, or set its pending bit while it cannot be sent (R448, R449). -/
def State.raise (s : State) (v : Nat) : State :=
  if s.host.canSend v then { s with out := { s.out with msix := s.out.msix ++ [s.host.message v] } }
  else { s with host := { s.host with pend := insertUnit v s.host.pend } }

/-- Send the pending messages of vectors that can be sent now. -/
def State.flushPending (s : State) : State :=
  let go := s.host.pend.filter s.host.canSend
  { s with out := { s.out with msix := s.out.msix ++ go.map s.host.message },
           host := { s.host with pend := s.host.pend.filter fun v => !go.contains v } }

/-! ## The error log (R445, R465, R488) -/

/-- Set bits of ERR_STATUS; vector 0 is raised when a bit becomes set (R448). -/
def State.setErrStatus (s : State) (bits : Word32) : State :=
  let s' := { s with err := { s.err with status := s.err.status ||| bits } }
  if (bits &&& ~~~ s.err.status) = 0 then s' else s'.raise 0

/-- The code of a cause (Table 15.7). -/
def causeCode : Cause → Nat
  | .residue => 0x1001
  | .joinResidue => 0x1002
  | .benchUncorrectable => 0x2001
  | .benchRowsExhausted => 0x2002
  | .blockTestFail => 0x2003
  | .stageUncorrectable => 0x3001
  | .stageRowsExhausted => 0x3002
  | .transformSumcheck => 0x3003
  | .motionFault => 0x3004
  | .fallbackRecordCrc => 0x3005
  | .overlayFault => 0x3006
  | .lineBufferUncorrectable => 0x3007
  | .accessViolation => 0x3008
  | .spliceDown => 0x3009
  | .spliceHopLimit => 0x300A
  | .dramUncorrectable => 0x300B
  | .sheetLate => 0x300C
  | .sramUncorrectable => 0x300D
  | .dailiesMismatch => 0x300E
  | .checkerFault => 0x300F
  | .bootFallback => 0x3010
  | .doorbellIgnored => 0x3011
  | .fabricIntegrity => 0x4001
  | .tagTimeout => 0x4002
  | .controlWatchdog => 0x4003
  | .firmwareUncorrectable => 0x4004
  | .clapperFault => 0x4005
  | .bootImageInvalid => 0x4006

/-- The level of a slot as the log codes it (Table 14.18). -/
def slotLevel : Slot → Nat
  | .cell _ => 0
  | .block _ => 1
  | .region _ => 2
  | .chip => 3

/-- The unit number of a slot: block, region or 0. -/
def slotUnit : Slot → Nat
  | .cell b => b
  | .block b => b
  | .region k => k
  | .chip => 0

/-- Write a log entry; the log keeps the newest 4,096 (R465). Only DOORBELL_IGNORED has a stated detail (R261); the
detail of any other entry is a free value (log 34). -/
def State.logAt (s : State) (island : Option Nat) (level unit : Nat) (nested fatal : Bool) (action : Nat) (cause : Cause)
    (stream : Option Nat) (detail : Option Nat) : State :=
  let e : LogEntry :=
    { seq := s.err.nextSeq, level := level, unit := unit, nested := nested, fatal := fatal, action := action,
      beat := s.stampIn island / 500, cause := causeCode cause, stream := stream.getD 0xFFFF,
      detail := detail.getD (Config.freeValue s.free % 2 ^ 64) }
  { s.spend with err := { s.err with count := satAdd s.err.count 1 (2 ^ 32 - 1), nextSeq := (s.err.nextSeq + 1) % 2 ^ 32,
                                     log := (e :: s.err.log).take 4096,
                                     chipAt := if level = 3 then some s.clock.clap else s.err.chipAt } }

/-- The entry of an error whose unit alone gives its island. -/
def State.log (s : State) (level unit : Nat) (nested fatal : Bool) (action : Nat) (cause : Cause)
    (stream : Option Nat) (detail : Option Nat) : State :=
  s.logAt (unitIsland level unit) level unit nested fatal action cause stream detail

/-- The island in which an error occurs: that of the gate whose line buffer failed, else that of its slot's unit (R24). -/
def errorIsland (cause : Cause) (unit level slotUnit : Nat) : Option Nat :=
  match cause with
  | .lineBufferUncorrectable => some (gateIsland (unit % 4))
  | _ => unitIsland level slotUnit

/-- The 32 bytes of a log entry (Table 14.18). -/
def LogEntry.bytes (e : LogEntry) : List Byte :=
  leBytes 4 e.seq ++ leBytes 1 e.level ++ leBytes 1 e.unit ++ leBytes 1 (bitN e.nested + 2 * bitN e.fatal) ++
  leBytes 1 e.action ++ leBytes 8 e.beat ++ leBytes 2 e.cause ++ leBytes 2 e.stream ++ leBytes 8 e.detail ++ zeros 4

/-! ## Rings (R451 to R454) -/

/-- A ring descriptor as it stands in memory (Table 14.10). -/
structure Ring where
  at_ : Nat
  base : Nat
  entryBytes : Nat
  depth : Nat
  byBalim : Bool
  producer : Nat
  consumer : Nat
  lost : Nat
  deriving DecidableEq, Repr

/-- The descriptor of ring `i` of stream `st`. -/
def State.ring (s : State) (st i : Nat) : Ring :=
  let a := (s.stream st).homes.ringTable + 32 * i
  { at_ := a, base := s.readNat a 8, entryBytes := s.readNat (a + 8) 4, depth := (s.readByte (a + 12)).toNat,
    byBalim := (s.readByte (a + 13)).toNat == 1, producer := s.readNat (a + 16) 4,
    consumer := s.readNat (a + 20) 4, lost := s.readNat (a + 24) 4 }

/-- Entries in the ring, modulo 2^32 (R452). -/
def Ring.used (r : Ring) : Nat := (r.producer + 2 ^ 32 - r.consumer % 2 ^ 32) % 2 ^ 32

/-- Address of the slot of index `i` (R452). -/
def Ring.slotAt (r : Ring) (i : Nat) : Nat := r.base + i % 2 ^ r.depth * r.entryBytes

def Ring.full (r : Ring) : Bool := decide (2 ^ r.depth ≤ r.used)

def State.setProducer (s : State) (r : Ring) (v : Nat) : State := s.writeNat (r.at_ + 16) 4 v
def State.setConsumer (s : State) (r : Ring) (v : Nat) : State := s.writeNat (r.at_ + 20) 4 v

/-- Raise the vector of a stream, at most once per beat (R448). -/
def State.raiseStream (s : State) (st : Nat) : State :=
  if (s.stream st).rangBeat = some s.beat then s
  else (s.raise (22 + st)).updStream st fun x => { x with rangBeat := some s.beat }

/-- Write one entry into a ring that Balim writes and advance producer, or drop it and count it lost (R453, R454).
The flag says whether the entry was written. -/
def State.ringPush (s : State) (st i : Nat) (bytes : List Byte) : State × Bool :=
  let r := s.ring st i
  if r.entryBytes = 0 then (s, false)
  else if r.full then (s.writeNat (r.at_ + 24) 4 (satAdd r.lost 1 (2 ^ 32 - 1)), false)
  else
    let s1 := s.writeBytes (r.slotAt r.producer) bytes
    ((s1.setProducer r ((r.producer + 1) % 2 ^ 32)).raiseStream st, true)

/-- A 64-byte event entry (R459). -/
def eventEntry (stream code detail clap frame lost : Nat) (payload : List Int) : List Byte :=
  leBytes 2 0x0051 ++ leBytes 2 stream ++ leBytes 2 code ++ leBytes 2 detail ++ leBytes 8 clap ++
  leBytes 4 frame ++ leBytes 4 lost ++
  slice ((payload.take 5).flatMap fun x => leBytes 8 (ofSigned 64 x)) 0 40

/-- Post an event on the device event ring; a full ring drops it (R460). -/
def State.postDevice (s : State) (code detail frame : Nat) (payload : List Int) : State :=
  let r := s.dev.ring
  if !s.dev.fwReady then s
  else if 4096 ≤ (r.producer + 2 ^ 32 - r.consumer % 2 ^ 32) % 2 ^ 32 then
    { s with dev := { s.dev with ring := { r with lost := satAdd r.lost 1 (2 ^ 32 - 1),
                                                   lostSince := satAdd r.lostSince 1 (2 ^ 32 - 1) } } }
  else
    let s1 := s.writeBytes (r.base + r.producer % 4096 * 64)
      (eventEntry 0xFFFF code detail (s.stampIn (eventIsland code detail)) frame r.lostSince payload)
    { s1 with dev := { s1.dev with ring := { r with producer := (r.producer + 1) % 2 ^ 32, lostSince := 0 } } }.raise 21

/-- Post an event on a stream's event ring (ring 3). -/
def State.postStream (s : State) (st code detail frame : Nat) (payload : List Int) : State :=
  let x := s.stream st
  if x.state == .free then s
  else
    let r := s.ringPush st 3 (eventEntry st code detail (s.stampIn (eventIsland code detail)) frame x.lostEvent payload)
    r.1.updStream st fun y =>
      { y with lostEvent := if r.2 then 0 else satAdd y.lostEvent 1 (2 ^ 32 - 1) }

/-- Post an event where it belongs: to the stream it names, or to the device event ring (R459). -/
def State.post (s : State) (stream : Option Nat) (code detail frame : Nat) (payload : List Int) : State :=
  match stream with
  | some st => s.postStream st code detail frame payload
  | none => s.postDevice code detail frame payload

/-! ## The pool (R229, R440, R466) -/

/-- Ranges of the pool that are taken: allocations, space on its way back, retired pages. -/
def Pool.taken (p : Pool) : List (Nat × Nat) :=
  (p.allocs.map fun a => (a.base, a.len)) ++ (p.freeing.map fun f => (f.2.1, f.2.2)) ++
  (p.retired.map fun a => (a, Config.pageSize))

/-- The range meets nothing that is taken and lies below the firmware area. -/
def Pool.fits (p : Pool) (g : Grade) (base len : Nat) : Bool :=
  decide (base + len ≤ Config.firmwareBase g) && base % Config.poolUnit == 0 &&
  p.taken.all fun t => decide (t.1 + t.2 ≤ base) || decide (base + len ≤ t.1)

/-- The least element of a list that satisfies a test. -/
def leastWith (ok : Nat → Bool) (xs : List Nat) : Option Nat :=
  xs.foldl (fun best x => if ok x then (match best with
    | none => some x
    | some b => some (min b x)) else best) none

/-- A free place for `len` bytes: the hint where it is free, else the lowest free place (log 11). -/
def Pool.place (p : Pool) (g : Grade) (hint len : Nat) : Option Nat :=
  let h := hint / Config.poolUnit * Config.poolUnit
  if p.fits g h len then some h
  else leastWith (fun b => p.fits g b len) (0 :: p.taken.map fun t => roundUp (t.1 + t.2) Config.poolUnit)

/-- Allocate for an owner; none when the pool lacks the space. -/
def State.alloc (s : State) (len : Nat) (owner : Owner) : Option (State × Nat) :=
  let n := roundUp (max len 1) Config.poolUnit
  match s.pool.place s.fuses.grade (Config.placeHint s.free) n with
  | none => none
  | some b => some ({ s.spend with pool := { s.pool with allocs := ⟨b, n, owner⟩ :: s.pool.allocs } }, b)

/-- Free every allocation of an owner at once, and close its windows. -/
def State.release (s : State) (mine : Owner → Bool) : State :=
  { s with pool := { s.pool with allocs := s.pool.allocs.filter (fun a => !mine a.owner),
                                 windows := s.pool.windows.filter (fun w => !mine w.owner) } }

/-- Forget what the benches hold for the tiles that a test names, and free the space of outputs that left the array island (R231). -/
def State.dropHeld (s : State) (mine : TileRef → Bool) : State :=
  let s1 := s.release fun o => match o with
    | .spill st f t _ => mine ⟨st, f, t⟩
    | _ => false
  { s1 with bench := s1.bench.filter fun b => !mine b.tile }

/-- Open a host window (R440). -/
def State.openWindow (s : State) (base len : Nat) (write : Bool) (owner : Owner) : State :=
  { s with pool := { s.pool with windows := ⟨base, len, write, owner⟩ :: s.pool.windows } }

/-- Pool bytes: DRAM below the firmware area less the retired pages there (R229). -/
def State.poolBytes (s : State) : Nat :=
  let base := Config.firmwareBase s.fuses.grade
  base - (s.pool.retired.filter fun p => decide (p < base)).length * Config.pageSize

/-- The lowest number from 1 that is not in use, or the hint where that is free and in range (log 11). -/
def pickHandle (hint top : Nat) (used : List Nat) : Option Nat :=
  let h := 1 + hint % top
  if !used.contains h then some h
  else leastWith (fun x => decide (1 ≤ x) && decide (x ≤ top) && !used.contains x) (1 :: used.map (· + 1))

/-! ## Operation tags (R31, R245) -/

/-- First reserved tag of a requester and how many it has (Table 7.5), numbered in the order of the table; the warp unit counts as
MOTION, and JTAG as the control cores (log 87). -/
def reservedTags : Requester → Nat × Nat
  | .gate n => (512 * n.val, 512)
  | .egress k => (2048 + 256 * k.val, 256)
  | .dolly n => (4352 + 128 * n.val, 128)
  | .splice p => (6400 + 256 * p.val, 256)
  | .motion | .warp => (7936, 1024)
  | .overlay => (8960, 512)
  | .host => (9472, 512)
  | .continuity => (9984, 256)
  | .control | .jtag => (10240, 256)

/-- The shared pool: its first tag and its size. -/
def sharedTags : Nat × Nat := (10496, 5888)

/-- The lowest tag of a range that is free. -/
def State.freeTagIn (s : State) (r : Nat × Nat) : Option Nat :=
  ((List.range r.2).map (r.1 + ·)).find? fun t => !s.tags.any fun h => h.tag == t

/-- Shared tags that a requester holds, and those that are free. -/
def State.sharedHeld (s : State) (who : Requester) : Nat :=
  (s.tags.filter fun h => reservedTags h.who == reservedTags who && decide (sharedTags.1 ≤ h.tag)).length
def State.sharedFree (s : State) : Nat := sharedTags.2 - (s.tags.filter fun h => decide (sharedTags.1 ≤ h.tag)).length

/-- The tag that a request gets: a reserved one, else a shared one within the limit of 2,048; the last 1,024 shared tags go only to
urgent requests. -/
def State.nextTag (s : State) (who : Requester) (urgent : Bool) : Option Nat :=
  match s.freeTagIn (reservedTags who) with
  | some t => some t
  | none =>
    if s.sharedHeld who < 2048 ∧ (urgent = true ∨ 1024 < s.sharedFree) then s.freeTagIn sharedTags else none

/-- Issue a request: it holds a tag until its last response. None where it must wait for one. -/
def State.takeTag (s : State) (who : Requester) (urgent : Bool) : Option State :=
  (s.nextTag who urgent).map fun t => { s with tags := s.tags ++ [⟨t, who, s.clock.clap⟩] }

/-- Issue as many of `n` requests as there are tags for. -/
def State.takeTags (s : State) (who : Requester) : Nat → State
  | 0 => s
  | n + 1 => match s.takeTag who false with
    | some t => State.takeTags t who n
    | none => s

/-- A requester can issue a request that is answered within its command: a tag and a credit are free for it (R26, R27, R31). -/
def State.mayRequest (s : State) (who : Requester) (c : Crossing) (urgent : Bool) : Bool :=
  (s.nextTag who urgent).isSome && decide (0 < s.creditsLeft c false urgent)

/-- The last responses to all requests of a requester have arrived, but for its remote reads that are under way (R394). -/
def State.dropTags (s : State) (who : Requester) : State :=
  { s with tags := s.tags.filter fun h => !(h.who == who) || s.set.inFlight.any fun f => f.tag == h.tag }

end Sys2Proof.Machine
end

