-- ==== Sys2Proof/Machine/Flags.lean ====
section
/-!
DEFINITION. The status words: what each register of BAR 0, of the checker's SPI map and of SMBus reads as (Tables
14.4 to 14.9, 11.6, 13.6 to 13.8, 16.9 to 16.11), the access rules of Table 0.4, and the unit counts that status
words and DEVICE_INFO report.
-/
namespace Sys2Proof.Machine

/-- RW1C (Table 0.4): a 1 clears the bit, a 0 has no effect. -/
def rw1c {n : Nat} (old written : BitVec n) : BitVec n := old &&& ~~~ written

/-! ## Units (R200, R233, R235, R492) -/

/-- Blocks fit for a position: healthy and not retired (R233); a block under test is out of service (R498). -/
def State.fitBlocks (s : State) : List Nat :=
  (List.range 36).filter fun b => !(s.block b).retired && !(s.block b).testing

/-- A block held by the position map of some loaded reel (R233). -/
def State.mappedBlock (s : State) (b : Nat) : Bool := s.reels.any fun r => r.ready && r.positions.contains b

/-- Free spares in ascending number (R233), without blocks already promised to a pending substitution. -/
def State.spares (s : State) : List Nat :=
  s.fitBlocks.filter fun b => !s.mappedBlock b && !(s.units.substs.any fun x => x.new == some b)

/-- P of the next reload (R492). -/
def State.nextArrays (s : State) : Nat := min (Config.activeArrays s.fuses.grade) s.fitBlocks.length

/-- Working transform engines (R200). -/
def State.workingEngines (s : State) : List Nat :=
  (List.range 9).filter fun k => !(s.engine k).retired && !(s.engine k).testing

/-- The standby that a load fixes: the working engine with the highest number, of two or more (R200). -/
def State.standbyNow (s : State) : Option Nat := if s.workingEngines.length ≤ 1 then none else s.workingEngines.getLast?

/-- E of the next reload (R200): the working engines less the standby when two or more work. -/
def State.nextEngines (s : State) : Nat :=
  let n := s.workingEngines.length
  if n ≤ 1 then n else n - 1

/-- Weight store of a region in bytes: 16 banks, the working store shrinking first down to 4 banks (R235). -/
def weightBanks (out : Nat) : Nat := min 16 (24 - out - max 4 (8 - out))

/-- Stage banks of region `k` in service, and those of its weight store and of its working store (R235). -/
def State.healthyBanks (s : State) (k : Nat) : List Nat := (List.range 24).filter fun b => !s.units.stageOut.contains (k, b)
def State.weightStoreBanks (s : State) (k : Nat) : List Nat := (s.healthyBanks k).take (weightBanks (24 - (s.healthyBanks k).length))
def State.workingStoreBanks (s : State) (k : Nat) : List Nat := (s.healthyBanks k).drop (weightBanks (24 - (s.healthyBanks k).length))

/-- Weight-store capacity of the chip: the smallest of the nine regions (R235). -/
def State.weightStore (s : State) : Nat :=
  ((List.range 9).map fun k => (s.weightStoreBanks k).length).foldl min 16 * 0x4_0000

/-! ## DEVICE block (Table 14.4) -/

/-- DEVICE_ID. -/
def State.deviceId (s : State) : Nat := 0x4EB0_0000 + Config.part s.fuses.grade

/-- DEVICE_STATE (Table 14.5). -/
def State.deviceState (s : State) : Nat :=
  bitN s.dev.fwReady + 2 * (s.dev.fwPhase % 8) + 16 * bitN s.chk.safe + 32 * bitN (s.chk.phase == .run) +
  256 * (s.dev.hostEpoch % 256) + 0x1_0000 * (s.set.index % 16) + 0x10_0000 * bitN s.set.epoch.isSome

/-- FW_VERSION: 0 until fw_ready. -/
def State.fwVersionReg (s : State) : Nat := if s.dev.fwReady then s.dev.fwVersion else 0

/-! ## ERROR block (Table 14.6) -/

/-- ERR_LAST. -/
def State.errLast (s : State) : Nat :=
  match s.err.log with
  | [] => 0
  | e :: _ => e.cause + 0x1_0000 * (e.level % 4) + 0x100_0000 * (e.unit % 256)

/-- Beat of the newest entry. -/
def State.errLastBeat (s : State) : Nat :=
  match s.err.log with
  | [] => 0
  | e :: _ => e.beat

/-- ERR_NEWEST. -/
def State.errNewest (s : State) : Nat :=
  match s.err.log with
  | [] => 0
  | e :: _ => e.seq

/-- The slot still holds its error (last column of Table 15.7). -/
def HeldSlot.live (h : HeldSlot) (clap : Nat) : Bool :=
  match h.hold with
  | .response t | .motionDiscard t => decide (clap < t)
  | _ => true

def State.slotHeld (s : State) (x : Slot) : Bool :=
  s.err.slots.any fun h => h.slot == x && h.live s.clock.clap

/-- Sum of 2^i over the numbers that satisfy a test. -/
def bitSet (n : Nat) (p : Nat → Bool) : Nat := ((List.range n).map fun i => if p i then 2 ^ i else 0).sum

/-- ERR_REGION_SLOTS. -/
def State.regionSlots (s : State) : Nat :=
  bitSet 20 (fun k => s.slotHeld (.region k)) + 2 ^ 31 * bitN (s.slotHeld .chip)

/-- Block slots, all 36. -/
def State.blockSlots (s : State) : Nat := bitSet 36 fun b => s.slotHeld (.block b)

/-! ## CLAPPER block (Table 14.8) -/

def clapCode : ClapState → Nat
  | .free => 0
  | .acquiring => 1
  | .aligned => 2
  | .root => 3

def sourceCode : ClapSource → Nat
  | .internal => 0
  | .clapIn => 1
  | .splice => 2

/-- CLAP_STATUS. Before the clapper runs the register holds its reset value 0 (R13). -/
def State.clapStatus (s : State) : Nat :=
  if s.clock.running then
    clapCode s.clock.state + 4 * sourceCode s.clock.source + 16 * (s.clock.depth % 16) + 256 * (s.set.index % 16)
  else 0

/-- CLAP_EPOCH. -/
def State.clapEpoch (s : State) : Nat :=
  match s.set.epoch with
  | none => 0
  | some e => e.number

/-- The clapper as the host reads it (R446). -/
def State.hostClap (s : State) : Nat := if s.clock.running then s.copy hostIsland else 0

/-! ## OUTPUT mirrors (Table 14.9, Table 11.6) -/

/-- GATE_EVENTS. -/
def Gate.eventsReg (g : Gate) : Nat :=
  g.events.toNat + 256 * bitN g.hpdLevel + 512 * bitN g.linked + 1024 * bitN (g.genState == .locked) +
  2048 * bitN g.runningGen + 0x1_0000 * (g.underrunLine % 0x1_0000)

/-- The clone bit of gate 0 makes every enabled gate a clone (R355). -/
def State.cloneMode (s : State) : Bool :=
  match (s.gate 0).cfg with
  | some c => c.enable && c.clone
  | none => false

/-- GATE_HOLDER. -/
def State.gateHolder (s : State) (i : Nat) : Nat :=
  let g := s.gate i
  g.holder.getD 0 % 1024 + 0x8000 * bitN g.holder.isSome +
  0x1_0000 * bitN (s.cloneMode && g.cfg.isSome) + 0x2_0000 * bitN g.cfg.isSome

/-- GATE_LINK. -/
def Gate.linkReg (g : Gate) : Nat :=
  match g.cfg with
  | none => 0
  | some c => c.linkRate % 8 + 16 * (c.lanes % 8) + 128 * bitN c.dsc + 256 * bitN (c.bpc == 10)

def GateConfig.hTotal (c : GateConfig) : Nat := c.hActive + c.hFront + c.hSync + c.hBack
def GateConfig.vTotal (c : GateConfig) : Nat := c.vActive + c.vFront + c.vSync + c.vBack

/-- Nominal pixel clock in 1/256 Hz. -/
def GateConfig.nominal (c : GateConfig) : Nat := c.clock * 1000 * 256

/-- Time of `lines` lines at a pixel clock, in 2^-32 tick (R340; rounded down, log 20). -/
def lineTime (hTotal lines fpx : Nat) : Nat :=
  if fpx = 0 then 0 else lines * hTotal * Config.ticksPerSecond * 256 * subTicks / fpx

/-- Pixel clock of the frame `k` after the one in `frame`. -/
def Gate.clockOf (x : Gate) (c : GateConfig) (k : Nat) : Nat := x.clocks.getD k c.nominal

/-- Origin and lines since it of the start of the frame `k` after the one in `frame`, over the clocks committed: a clock
that stays keeps its origin, so that its times are rounded once. -/
def Gate.near (x : Gate) (c : GateConfig) : Nat → Nat × Nat
  | 0 => (x.origin, x.lines)
  | k + 1 =>
    let p := x.near c k
    if x.clockOf c (k + 1) = x.clockOf c k then (p.1, p.2 + c.vTotal)
    else (p.1 + lineTime c.hTotal (p.2 + c.vTotal) (x.clockOf c k), 0)

/-- The same for any frame: beyond the committed clocks the nominal one runs (R340). -/
def Gate.position (x : Gate) (c : GateConfig) (k : Nat) : Nat × Nat :=
  let p := x.near c (min k 3)
  (p.1, p.2 + (k - 3) * c.vTotal)

/-- start_line of line `y` of the frame `k` after the one in `frame`, in 2^-32 tick (R340). -/
def Gate.lineStart (x : Gate) (c : GateConfig) (k y : Nat) : Nat :=
  let p := x.position c k
  p.1 + lineTime c.hTotal (p.2 + y) (x.clockOf c k)

/-- start of that frame. -/
def Gate.startOf (x : Gate) (c : GateConfig) (k : Nat) : Nat := x.lineStart c k 0

/-- start(f) as a clapper value: the tick that holds it. -/
def Gate.startTick (g : Gate) : Nat :=
  match g.cfg with
  | none => 0
  | some c => g.startOf c 0 / subTicks

/-- The committed pixel clock of the frame being sent, in 1/256 Hz. -/
def Gate.fpx (g : Gate) : Nat := g.clocks.headD 0

/-! ## Reads of BAR 0 without side effect -/

/-- A register of BAR 0 as a 4-byte read returns it, for offsets that no read row latches; WO registers, doorbells
and unlisted offsets read as 0 (R11, R438, R455). -/
def State.bar0Read (s : State) (o : Nat) : Nat :=
  if o < 0x1000 then
    match o with
    | 0x000 => s.deviceId
    | 0x004 => s.deviceState
    | 0x008 => s.fwVersionReg
    | 0x00C => s.dev.heartbeat % 2 ^ 32
    | 0x014 => s.dev.mboxBusy.toNat
    | 0x018 => s.dev.mboxDone.toNat
    | 0x01C => s.dev.mboxError.toNat
    | 0x020 => s.dev.bar2Base % 2 ^ 32
    | 0x024 => s.dev.bar2Base / 2 ^ 32
    | 0x028 => s.dev.bar2Size
    | 0x02C => s.dev.ring.consumer
    | 0x030 => s.dev.ring.producer
    | 0x034 => s.dev.scratch.toNat
    | 0x038 => bitN s.dev.configLock
    | _ => 0
  else if o < 0x2000 then 0
  else if o < 0x3000 then leNat (s.chanBytes ((o - 0x2000) / 256)) (o % 256) 4
  else if o < 0x4000 then
    match o - 0x3000 with
    | 0x000 => s.err.status.toNat
    | 0x004 => s.err.count
    | 0x008 => s.errNewest
    | 0x00C => s.errLast
    | 0x010 => s.errLastBeat % 2 ^ 32
    | 0x014 => s.dev.lastBeatHi.toNat
    | 0x018 => s.regionSlots
    | 0x01C => s.blockSlots % 2 ^ 32
    | 0x020 => s.blockSlots / 2 ^ 32
    | _ => 0
  else if o < 0x5000 then
    match o - 0x4000 with
    | 0x000 => s.hostClap % 2 ^ 32
    | 0x004 => s.dev.clapHi.toNat
    | 0x008 => s.hostClap / 500 % 2 ^ 32
    | 0x00C => s.dev.beatHi.toNat
    | 0x010 => s.clapStatus
    | 0x014 => s.clapEpoch
    | 0x018 => ofSigned 32 s.clock.offset
    | _ => 0
  else if o < 0x5100 then
    let g := s.gate ((o - 0x5000) / 0x40)
    match o % 0x40 with
    | 0x00 => g.eventsReg
    | 0x04 => g.frame % 2 ^ 32
    | 0x08 => g.startTick % 2 ^ 32
    | 0x0C => g.startHi.toNat
    | 0x10 => g.fpx % 2 ^ 32
    | 0x14 => g.fpxHi.toNat
    | 0x18 => s.gateHolder ((o - 0x5000) / 0x40)
    | 0x1C => g.linkReg
    | 0x20 => g.underruns
    | _ => 0
  else if 0x6000 ≤ o ∧ o < 0x6100 then bitSet 32 fun i => s.host.pend.contains (8 * (o - 0x6000) + i)
  else if 0x8000 ≤ o ∧ o < 0x1_0000 then (s.host.msixDword ((o - 0x8000) / 4)).toNat
  else 0

/-! ## Checker registers (Tables 13.6 to 13.8) -/

def phaseCode : Phase → Nat
  | .rom => 0
  | .run => 1
  | .fault => 2

/-- The accepted level of a filtered input. -/
def State.level (s : State) (p : InputPin) : Bool :=
  match s.inputs.find? fun i => i.pin == p with
  | some i => i.level
  | none => false

/-- The filtered level of an input: what the glitch filter last passed (R514). -/
def State.filtered (s : State) (p : InputPin) : Bool :=
  match s.inputs.find? fun i => i.pin == p with
  | some i => i.filtered
  | none => false

/-- The chip is held in reset: by a brown-out or a thermal trip (R509, R523), or by a low RESET_N (R515). No requester reaches it, nothing
is detected and only the filtered inputs are followed. -/
def State.chipInReset (s : State) : Bool := !(s.board.hold == .none) || !s.level .resetN

/-- CHK_STATE. -/
def State.chkState (s : State) : Nat :=
  phaseCode s.chk.phase + 4 * bitN s.chk.safe + 8 * bitN (s.filtered .safeAck) + 16 * bitN s.chk.ackSeen +
  32 * bitN s.chk.blanking + 64 * bitN s.chk.ackStuck + 128 * s.chk.faults.toNat

/-- The 16 bytes of a checker log entry (R415). -/
def CheckerLog.bytes (e : CheckerLog) : List Byte :=
  leBytes 8 e.beat ++ leBytes 2 e.stream ++ leBytes 1 e.code ++ leBytes 1 e.detail ++ leBytes 4 e.frame

/-- The tolerance digest of a stream, absent without a table (R307, R406). -/
def State.toleranceDigest (s : State) (st : Nat) : List Byte :=
  match s.decisions? st with
  | none => zeros 32
  | some d =>
    match d.tolerance with
    | none => zeros 32
    | some t => sha3_256 t

/-- A register of the checker's SPI map; in phase FAULT only the four that hardware holds (R402, R425). -/
def State.chkRead (s : State) (o : Nat) : Nat :=
  let live := !(s.chk.phase == .fault)
  if o = 0x000 then 0x0000_B001
  else if o = 0x004 then s.chkState
  else if o = 0x008 then (if s.clock.running then s.copy checkerIsland / 500 % 2 ^ 32 else 0)
  else if o = 0x00C then s.chk.cause.toNat
  else if !live then 0
  else if o = 0x014 then s.chk.challenge.toNat
  else if o = 0x018 then s.chk.response.toNat
  else if o = 0x01C then s.chk.tolSelect.toNat
  else if 0x020 ≤ o ∧ o < 0x040 then leNat (s.toleranceDigest (s.chk.tolSelect.toNat % 1024)) (o - 0x020) 4
  else if o = 0x040 then s.chk.rejects
  else if o = 0x044 then s.chk.downgrades
  else if o = 0x048 then s.chk.regionFaults
  else if o = 0x04C then s.chk.readbackFaults
  else if o = 0x050 then s.chk.dailiesFails
  else if o = 0x054 then (s.chk.streams.filter fun d => d.safety).length % 4
  else if 0x100 ≤ o ∧ o < 0x200 then leNat ((s.chk.log.take 16).flatMap CheckerLog.bytes) (o - 0x100) 4
  else 0

/-! ## SMBus registers (Tables 16.9 to 16.11) -/

/-- SMB_STATE (Table 16.10). -/
def State.smbState (s : State) : Nat :=
  s.dev.fwPhase % 8 + 8 * bitN s.dev.fwReady + 16 * bitN s.chk.safe + 32 * bitN (!s.board.hot.isEmpty)

/-- Hottest DRAM stack. -/
def Board.hottest (b : Board) : Int :=
  match b.tdram with
  | [] => 0
  | x :: xs => xs.foldl max x

/-- The word of an SMBus command code; unlisted codes read as 0 (R520). -/
def State.smbRead (s : State) (code : Nat) : Nat :=
  match code with
  | 0x00 => Config.part s.fuses.grade
  | 0x01 => s.smbState
  | 0x02 => ofSigned 16 s.board.tj
  | 0x03 => ofSigned 16 s.board.tjPeak
  | 0x04 => ofSigned 16 s.board.hottest
  | 0x05 => ofSigned 16 s.board.limit
  | 0x06 => s.board.alert.toNat
  | 0x07 => s.fuses.vidMv
  | 0x08 => if s.clock.running then (Config.corePower s.free).toNat else 0
  | 0x09 => s.board.rateGen + 256 * s.board.rateClap
  | 0x0A => s.board.rateAck + 256 * s.board.rateHpd
  | 0x0B => s.dev.heartbeat % 0x1_0000
  | _ => 0

/-- SMB_ALERT_N is driven low while any bit of SMB_ALERT is set (R520). -/
def Board.alertLow (b : Board) : Bool := !(b.alert == 0)

end Sys2Proof.Machine
end

