-- ==== Sys2Proof/Machine/Operands.lean ====
section
/-!
DEFINITION. The operands: fields of mailbox messages (Tables 14.15 to 14.25), of doorbells (Table 14.12), of rush
slice headers (Table 2.3), of command entries (Tables 2.9, 3.5) and of overlay entries (Tables 10.1 to 10.3), and the
error codes of Table 14.17.
-/
namespace Sys2Proof.Machine

/-! ## Error codes (R14, Table 14.17) -/

def eOpcode : Nat := 0x0100
def eBusy : Nat := 0x0101
def eState : Nat := 0x0102
def eParam : Nat := 0x0103
def eFormat : Nat := 0x0104
def eNoReel : Nat := 0x0105
def eNoMemory : Nat := 0x0106
def eCapacity : Nat := 0x0107
def eLatency : Nat := 0x0108
def eGateBusy : Nat := 0x0109
def eLink : Nat := 0x010A
def eNoRing : Nat := 0x010B
def eAddress : Nat := 0x010C
def eClapper : Nat := 0x010D
def eSet : Nat := 0x010E
def eLaunch : Nat := 0x010F
def eInUse : Nat := 0x0110
def eNoUnit : Nat := 0x0111
def eTest : Nat := 0x0112
def eSignature : Nat := 0x0113
def eRollback : Nat := 0x0114
def eNoTensor : Nat := 0x0115

/-! ## Mailbox header (Table 14.15) and catalogue (Table 14.16) -/

/-- Opcode, request units and response units of the sixteen messages. -/
def messageTable : List (Nat × Nat × Nat) :=
  [(0x01, 1, 2), (0x02, 1, 4), (0x03, 1, 2), (0x10, 1, 1), (0x11, 1, 1), (0x12, 1, 2), (0x13, 1, 1), (0x20, 4, 1),
   (0x21, 1, 1), (0x30, 2, 1), (0x40, 3, 1), (0x41, 1, 1), (0x50, 1, 1), (0x51, 1, 1), (0x60, 1, 1), (0x61, 1, 1)]

def msgOpcode (m : List Byte) : Nat := leNat m 0 1
def msgUnits (m : List Byte) : Nat := leNat m 1 1
def msgSeq (m : List Byte) : Nat := leNat m 2 2
def msgStream (m : List Byte) : Nat := leNat m 4 2

/-- The message's opcode and units are those of a row of Table 14.16. -/
def msgKnown (m : List Byte) : Bool :=
  messageTable.any fun r => r.1 == msgOpcode m && r.2.1 == msgUnits m

/-- Response units of an opcode; 1 for an unknown one (log 22). -/
def responseUnits (op : Nat) : Nat :=
  match messageTable.find? fun r => r.1 == op with
  | some r => r.2.2
  | none => 1

/-- The stream field is what R463 asks for the message. -/
def msgStreamOk (m : List Byte) : Bool :=
  if msgOpcode m = 0x03 ∨ msgOpcode m = 0x20 ∨ msgOpcode m = 0x21 then decide (msgStream m < 1024)
  else msgStream m == 0xFFFF

/-- The sixteen bytes of a response header: opcode, sequence and stream echoed. -/
def responseHeader (m : List Byte) (status detail : Nat) : List Byte :=
  leBytes 1 (msgOpcode m) ++ leBytes 1 (responseUnits (msgOpcode m)) ++ leBytes 2 (msgSeq m) ++
  leBytes 2 (msgStream m) ++ leBytes 2 status ++ leBytes 4 detail ++ zeros 4

/-! ## Streams (Table 14.20) -/

def modeOf : Nat → Option Mode
  | 0 => some .upscale
  | 1 => some .tween
  | 2 => some .both
  | 3 => some .passthrough
  | _ => none

def modeCode : Mode → Nat
  | .upscale => 0
  | .tween => 1
  | .both => 2
  | .passthrough => 3

def streamStateCode : StreamState → Nat
  | .free => 0
  | .open_ => 1
  | .running => 2
  | .held => 3
  | .closing => 4

/-- Bytes per pixel of a colour format (R47). -/
def bppOf (colour : Nat) : Nat := if colour = 2 then 8 else 4

/-- The STREAM_OPEN parameters as the message carries them, with the defaults of R42 put in; none where a code names
no mode, class or destination. -/
def parseOpen (m : List Byte) : Option StreamParams :=
  match modeOf (leNat m 0x12 1), decide (leNat m 0x13 1 ≤ 1) && decide (leNat m 0x14 1 ≤ 4) with
  | some mode, true =>
    let fl := leNat m 0x15 1
    let lead := leNat m 0x25 1
    let ovl := leNat m 0x26 1
    some { reel := leNat m 0x10 2, mode := mode, batch := leNat m 0x13 1 == 1,
           gate := if leNat m 0x14 1 < 4 then some (leNat m 0x14 1) else none,
           slates := bitOf fl 0, fingerprints := bitOf fl 1, cueEvents := bitOf fl 2, closeOnLoss := bitOf fl 4,
           outW := leNat m 0x16 2, outH := leNat m 0x18 2, renW := leNat m 0x1A 2, renH := leNat m 0x1C 2,
           n := leNat m 0x1E 1, colour := leNat m 0x1F 1, outRate := leNat m 0x20 4, planes := leNat m 0x24 1,
           leadRows := if lead = 0 then 4 else lead, overlayBeats := if ovl = 0 then 8 else ovl,
           tensorDepth := leNat m 0x27 1, depths := (List.range 7).map fun i => leNat m (0x28 + i) 1,
           overlayArea := leNat m 0x30 4, seed := slice m 0x38 16,
           tolerance := if bitOf fl 3 then some (slice m 0x50 64) else none }
  | _, _ => none

/-- Tile columns and rows (R59). -/
def StreamParams.columns (p : StreamParams) : Nat := ceilDiv p.outW 128
def StreamParams.rows (p : StreamParams) : Nat := ceilDiv p.outH 64
def StreamParams.tileCount (p : StreamParams) : Nat := p.columns * p.rows
def StreamParams.bpp (p : StreamParams) : Nat := bppOf p.colour
def StreamParams.hasDepth (p : StreamParams) : Bool := bitOf p.planes 0
def StreamParams.hasMotion (p : StreamParams) : Bool := bitOf p.planes 1

/-- Slices of a keyframe and rows of slice `i` (Table 2.3). -/
def StreamParams.sliceCount (p : StreamParams) : Nat := ceilDiv p.renH 64
def StreamParams.sliceRows (p : StreamParams) (i : Nat) : Nat := min 64 (p.renH - 64 * i)

/-- Bytes of the planes of one slice (R47). -/
def StreamParams.payload (p : StreamParams) (i : Nat) : Nat :=
  p.sliceRows i * p.renW * (p.bpp + 4 * bitN p.hasDepth + 4 * bitN p.hasMotion)

/-- Slot size of each ring the stream can have (Table 14.11). -/
def StreamParams.ringBytes (p : StreamParams) : Nat → Nat
  | 0 => 64
  | 1 => roundUp (64 + p.payload 0) 64
  | 2 => 128
  | 3 => 64
  | 4 => 32
  | 5 => roundUp (p.outW * p.outH * p.bpp) 0x1_0000
  | 6 => 64
  | _ => 0

/-- Smallest n with 2^n at least `m`. -/
def log2Up (m : Nat) : Nat := if m ≤ 1 then 0 else Nat.log2 (m - 1) + 1

/-- The depth range of rings 0 to 6, or none for a ring that is not set up (Table 14.11). -/
def StreamParams.depthRange (p : StreamParams) : Nat → Option (Nat × Nat)
  | 0 => some (4, 16)
  | 1 => some (log2Up (2 * p.sliceCount), 12)
  | 2 => some (4, 16)
  | 3 => some (4, 16)
  | 4 => if p.fingerprints then some (4, 20) else none
  | 5 => if p.gate.isNone then some (1, 5) else none
  | 6 => if p.overlayArea ≠ 0 then some (4, 20) else none
  | _ => none

/-! ## Doorbells (Table 14.12) -/

/-- The one 32-bit value with the low 24 bits `ix` in `[lo, lo + span]`, modulo 2^32 (R455). -/
def extendIndex (lo span ix : Nat) : Option Nat :=
  let d := (ix % 2 ^ 24 + 2 ^ 24 - lo % 2 ^ 24) % 2 ^ 24
  if d ≤ span then some ((lo + d) % 2 ^ 32) else none

/-- Who writes a ring (Table 8.3): Balim writes rings 2 to 5. -/
def balimRing (i : Nat) : Bool := decide (2 ≤ i) && decide (i ≤ 5)

/-- The range a doorbell's value must lie in: lower end and length (R455). -/
def Ring.doorbellRange (r : Ring) : Nat × Nat :=
  if r.byBalim then (r.consumer, r.used) else (r.producer, 2 ^ r.depth - r.used)

/-! ## OUTPUT_CONFIGURE (Table 14.22) -/

/-- The message with the defaults of R339 put in, but for the watermark, whose default needs `ahead`. -/
def parseGate (m : List Byte) : GateConfig :=
  let orElse (v d : Nat) := if v = 0 then d else v
  { enable := leNat m 0x11 1 == 1, clone := leNat m 0x12 1 == 1, bpc := orElse (leNat m 0x13 1) 8,
    hActive := leNat m 0x14 2, hFront := leNat m 0x16 2, hSync := leNat m 0x18 2, hBack := leNat m 0x1A 2,
    vActive := leNat m 0x1C 2, vFront := leNat m 0x1E 2, vSync := leNat m 0x20 2, vBack := leNat m 0x22 2,
    clock := leNat m 0x24 4, syncPol := leNat m 0x28 1 % 4, linkRate := leNat m 0x29 1, lanes := leNat m 0x2A 1,
    dsc := leNat m 0x2B 1 == 1, dscBpp := leNat m 0x2C 2, dscSlices := leNat m 0x2E 1, dscHeight := leNat m 0x30 2,
    colorimetry := leNat m 0x2F 1 % 8, matchLine := leNat m 0x32 2,
    fill := [leNat m 0x34 2, leNat m 0x36 2, leNat m 0x38 2], watermark := leNat m 0x3A 1,
    genlock := leNat m 0x3B 1 == 1, card := leNat m 0x3C 4, ratio := orElse (leNat m 0x40 1) 1,
    hdr := if leNat m 0x41 1 = 32 then slice m 0x50 32 else [], genOffset := leNat m 0x42 2,
    ppm := orElse (leNat m 0x44 2) 100 }

/-- Lines of the line buffer (R346). -/
def GateConfig.lines (c : GateConfig) : Nat := if c.hActive = 0 then 0 else min 32 (131072 / (4 * c.hActive))

/-- Lines that fit into 12 µs, held to 2 … L − 2 (R346). -/
def GateConfig.ahead (c : GateConfig) : Nat :=
  let perLine := c.hTotal
  let f := if perLine = 0 then 0 else 12 * c.clock / (1000 * perLine)
  max 2 (min f (c.lines - 2))

/-- t_pipe in pixel clocks: 256 gate cycles of 4 pixels, and one line more with DSC (R346). -/
def GateConfig.pipePixels (c : GateConfig) : Nat := 1024 + (if c.dsc then c.hTotal else 0)

/-- gate_beats (R346): lead and pipe in pixel clocks over 2 µs of pixel clocks. -/
def GateConfig.gateBeats (c : GateConfig) : Nat := ceilDiv ((c.ahead * c.hTotal + c.pipePixels) * 1000) (2 * c.clock)

/-! ## Shared fields -/

/-- The entry header of a ring entry: type and stream (R457). -/
def entryType (e : List Byte) : Nat := leNat e 0 2
def entryStream (e : List Byte) : Nat := leNat e 2 2

end Sys2Proof.Machine
end

