-- ==== Sys2Proof/Machine/Errors.lean ====
section
/-!
DEFINITION. The error hierarchy of chapter 15 (R488 to R491, R494, R497) with what it rests on: SAFE_STATE and the
checker's events (R415, R421, R422), streams going to HELD (R493), blocks leaving service, and the service area
(R499).
-/
namespace Sys2Proof.Machine

/-! ## Work of the sequencer that is given up -/

/-- The work of a tile, where its frame is still kept. -/
def State.work? (s : State) (t : TileRef) : Option TileWork := (s.frame? t.stream t.frame).bind fun f => f.tiles[t.tile]?

def State.updWork (s : State) (t : TileRef) (f : TileWork → TileWork) : State :=
  s.updFrame t.stream t.frame fun g => { g with tiles := g.tiles.modify t.tile f }

/-- The take of a unit is one that the tile waits for. -/
def TileWork.holds (w : TileWork) (unit takeId : Nat) : Bool := w.takes.contains (unit, takeId)

def TileWork.drop (w : TileWork) (takeId : Nat) : TileWork := { w with takes := w.takes.filter fun x => !(x.2 == takeId) }

/-- The unit can be placed again (R277). -/
def TileWork.again (w : TileWork) (unit takeId : Nat) : TileWork :=
  if w.holds unit takeId then { w.drop takeId with placed := min w.placed unit } else w

/-- The stream number under which a tile of another owner's cued work is kept (R394), beyond the chip's own numbers and that of
dailies. -/
def cuedStream (owner stream : Nat) : Nat := 2048 + 1024 * owner + stream

/-- Add to a stream's account, or to the floor for a BATCH stream and for the cued BATCH work of another owner, and to the total
charge of a stream of this chip. -/
def State.credit (s : State) (st : Nat) (v : Int) : State :=
  let x := s.stream st
  if 1024 ≤ st then { s with seq := { s.seq with floor := s.seq.floor + v } } else
  let s1 := if x.p.batch then { s with seq := { s.seq with floor := s.seq.floor + v } }
    else s.updStream st fun y => { y with account := y.account + v }
  s1.updStream st fun y => { y with count := { y.count with charged := (Int.ofNat y.count.charged - v).toNat } }

def State.refund (s : State) (e : Entry) : State := e.charges.foldl (fun s c => s.credit c.1 (Int.ofNat c.2)) s

/-- The work of the tile in takes that have not ended is given up: a BATCH tile is placed again from the first of these units, a
DEADLINE tile gets no further unit. -/
def TileWork.letGo (w : TileWork) (batch : Bool) : TileWork :=
  if w.takes.isEmpty then w
  else if batch then { w with placed := w.takes.foldl (fun n k => min n k.1) w.placed, takes := [] }
  else { w with withdrawn := true, takes := [] }

/-! ## Checker events and SAFE_STATE -/

/-- Log a checker event and post it to the ring R415 names. -/
def State.checkerEvent (s : State) (stream : Option Nat) (code detail frame : Nat) : State :=
  let e : CheckerLog := ⟨s.stampIn (some checkerIsland) / 500, stream.getD 0xFFFF, code, detail % 256, frame⟩
  ({ s with chk := { s.chk with log := (e :: s.chk.log).take 1024 } }).post stream (0x40 + code) (detail % 256) frame
    [Int.ofNat frame]

/-- Assert SAFE_STATE with a cause bit (R421, R422): a cause already standing with SAFE_STATE asserted still posts
its own SAFE_ASSERT; SAFE_ACK already high is stuck. -/
def State.assertSafe (s : State) (bit : Nat) : State :=
  let s1 := { s with chk := { s.chk with cause := s.chk.cause ||| BitVec.ofNat 32 (2 ^ bit) } }
  let s2 := s1.checkerEvent none 0x07 bit 0
  if s.chk.safe then s2
  else
    let s3 := { s2 with chk := { s2.chk with safe := true, assertedAt := s.clock.clap, ackSeen := false } }
    if s.level .safeAck then
      ({ s3 with chk := { s3.chk with ackStuck := true } }).checkerEvent none 0x0A 0 0
    else s3

/-! ## The service area (Table 15.9) -/

/-- The address of a service-area copy (Table 15.2). -/
def serviceBase (copy : Nat) : Nat := 0x81_0000 + copy * 0x2_0000

/-- A copy is valid when its magic and CRC match (R499). -/
def State.serviceValid (s : State) (copy : Nat) : Bool :=
  let bs := s.flashBytes (serviceBase copy) 0x4000
  leNat bs 0 4 == 0x4E525356 && leNat bs 0x3FFC 4 == crc32c (bs.take 0x3FFC)

/-- The sequence of a copy, 0 where it is not valid. -/
def State.serviceSeqOf (s : State) (copy : Nat) : Nat :=
  if s.serviceValid copy then leNat (s.flashBytes (serviceBase copy) 8) 4 4 else 0

/-- The redirected row of a spare, 0xFFFF for none. -/
def State.repairRow (s : State) (bank : BankId) (spare : Nat) : Nat :=
  match s.units.repairs.find? fun r => r.bank == bank && r.spare == spare with
  | some r => r.row
  | none => 0xFFFF

/-- The fatal entry and the 15 entries before it, newest first (R491). -/
def State.fatalRecord (s : State) : List Byte := slice (s.err.fatal.flatMap LogEntry.bytes) 0 512

/-- One copy of the service area. -/
def State.serviceBytes (s : State) (seq : Nat) : List Byte :=
  let head := leBytes 4 0x4E525356 ++ leBytes 4 seq ++ leBytes 2 s.pool.retired.length ++
    leBytes 2 (bitSet 9 fun k => (s.engine k).retired) ++ leBytes 1 (bitSet 6 fun p => (s.port p).retired) ++
    zeros 3 ++ ((List.range 36).flatMap fun b => leBytes 1 (bitN (s.block b).retired)) ++ zeros 12
  let pages := slice (s.pool.retired.flatMap fun a => leBytes 8 a) 0 4096
  let bench := (List.finRange 36).flatMap fun b => (List.finRange 16).flatMap fun k =>
    (List.range 2).flatMap fun sp => leBytes 2 (s.repairRow (.bench b k) sp)
  let stage := (List.finRange 9).flatMap fun r => (List.finRange 24).flatMap fun k =>
    (List.range 4).flatMap fun sp => leBytes 2 (s.repairRow (.stage r k) sp)
  let outs := (List.range 9).flatMap fun r =>
    leBytes 3 (bitSet 24 fun b => s.units.stageOut.contains (r, b))
  let body := slice (head ++ pages ++ bench ++ stage) 0 0x2000 ++ s.fatalRecord ++ outs
  let whole := slice body 0 0x3FFC
  whole ++ leBytes 4 (crc32c whole)

/-- The QSPI outputs are at high impedance: no slot holds a valid image (R479), or the chip is in reset (R516). Otherwise they are idle
between the accesses of the flash (Table 15.1). -/
def State.qspiHighZ (s : State) : Bool := s.fw.noImage || s.chipInReset

/-- Write the service area to the copy with the lower sequence (R499), where the flash can be reached (R479). -/
def State.writeService (s : State) : State :=
  if s.qspiHighZ then s else
  let a := s.serviceSeqOf 0
  let b := s.serviceSeqOf 1
  let copy := if a ≤ b then 0 else 1
  let seq := max a b + 1
  s.flashWrite (serviceBase copy) (s.serviceBytes seq)

/-! ## Streams going to HELD (R493) -/

def heldCode : HeldCause → Nat
  | .failedTake => 0
  | .loadFailed => 0
  | .pageCopy _ => 1
  | .epochEnded => 2
  | .condemned => 3

/-- Post KEYFRAME_LATE for a run of hold frames and end the run (R54), at the cutoff that ends it or where it is cut short. -/
def State.endHoldRun (s : State) (st : Nat) : State :=
  let x := s.stream st
  if x.holdRun = 0 then s
  else (s.postStream st 0x0003 x.holdRun x.holdFirst [Int.ofNat x.holdFirst]).updStream st
    fun y => { y with holdRun := 0, runEnds := none }

/-- The cause calls for a reload at the resume point, and discards what is in flight (R279, R493): every cause but a page copy. -/
def HeldCause.hard : HeldCause → Bool
  | .pageCopy _ => false
  | _ => true

/-- A cause of HELD arises: STREAM_HELD is posted also while the stream is HELD already. The takes that hold the stream's tiles run
on; their outputs for it are discarded (R279). -/
def State.holdStream (s : State) (st : Nat) (cause : HeldCause) (clears : Option Nat) : State :=
  let x := s.stream st
  if x.state == .running || x.state == .held then
    let s1 := (s.endHoldRun st).updStream st fun y =>
      { y with state := .held, held := ⟨cause, clears⟩ :: y.held.filter (fun h => !(h.cause == cause)),
               clearBeat := none, resumeFrame := none, reload := y.reload || cause.hard,
               frames := if cause.hard then y.frames.map fun f => { f with tiles := f.tiles.map (·.letGo y.p.batch) } else y.frames }
    s1.postStream st 0x000C (heldCode cause) 0 []
  else s

/-- Streams of a reel, in ascending number, that run its takes: neither PASSTHROUGH nor downgraded. -/
def State.reelStreams (s : State) (reel : Nat) : List Nat :=
  s.openStreams.filter fun i =>
    let x := s.stream i
    x.p.reel == reel && !(x.p.mode == .passthrough) && !x.downgraded

/-- The streams of every reel whose position map holds block `b` go to HELD with cause 0 (R494), but for those that a FAILED take holds
with its final token (R279). -/
def State.holdMapped (s : State) (b : Nat) (but : List Nat) : State :=
  let hit := s.reels.filter fun r => r.ready && r.positions.contains b
  hit.foldl (fun s r =>
    ((s.reelStreams r.handle).filter fun i => !but.contains i).foldl (fun s i => s.holdStream i .failedTake (some (s.beat + 1))) s) s

/-! ## Log entries of further actions -/

/-- A further log entry of an error already in its slot: same cause, unit and stream, a new action (R488). That of a halt is
fatal (R491). -/
def State.logMore (s : State) (slot : Slot) (cause : Cause) (action : Nat) (stream : Option Nat) : State :=
  s.log (slotLevel slot) (slotUnit slot) false (action == 9) action cause stream none

/-! ## Halt (R491) -/

/-- The chip halts: SAFE_STATE with chip_fatal, nothing new is sealed or started, fw_phase 4, fatal record written. The entry of the
halt is the newest one of the log. -/
def State.halt (s : State) : State :=
  let s1 := s.assertSafe 5
  ({ s1 with err := { s1.err with halted := true, fatal := s1.err.log.take 16 }, dev := { s1.dev with fwPhase := 4 },
             motion := { s1.motion with stopped := true },
             ovl := { s1.ovl with stopped := true } }).writeService

/-! ## Blocks leaving service -/

/-- The block is the last one fit for a position: it is never retired (R497). -/
def State.lastBlock (s : State) (b : Nat) : Bool := s.fitBlocks.all (· == b)

/-- Take a block out of service and record it (R499); where it is the last healthy one, the chip halts (R497). The entry of the action
has been logged. -/
def State.retireBlock (s : State) (b : Nat) : State :=
  if s.lastBlock b then (if s.err.halted then s else s.halt)
  else (s.updBlock b fun u => { u with retired := true }).writeService

/-- Put `new` at every position that holds `old`, in the maps of the reels and of the frames in progress. -/
def replaceIn (old new : Nat) (m : List Nat) : List Nat := m.map fun b => if b = old then new else b

/-- The action by which a block leaves without a spare: 3, or 9 for the last healthy one (R497). -/
def State.retireAction (s : State) (b : Nat) : Nat := if s.lastBlock b then 9 else 3

/-- The actions that take a block out of service (R494): 2 where a spare takes its place, else those of a block without one, with the
streams held where a map holds it; 3 alone for a block in no map. -/
def State.outActions (s : State) (b : Nat) : List Nat :=
  if !s.mappedBlock b then [s.retireAction b]
  else if !s.spares.isEmpty then [2]
  else s.retireAction b :: (if s.lastBlock b then [] else [8])

/-- Retire a block with no spare in its place: the streams of its maps are held (R279, R494). -/
def State.retireAlone (s : State) (b : Nat) (but : List Nat) : State :=
  if s.lastBlock b then s.retireBlock b else (s.retireBlock b).holdMapped b but

/-- Take a block out at the next frame start, or at once where no spare is free (R494). -/
def State.takeOut (s : State) (b : Nat) (but : List Nat) : State :=
  if !s.mappedBlock b then s.retireBlock b
  else
    match s.spares with
    | sp :: _ => { s with units := { s.units with substs := s.units.substs ++ [(⟨b, some sp, true⟩ : Subst)] } }
    | [] => s.retireAlone b but

/-- The same after a log entry for each action. -/
def State.substituteLater (s : State) (b : Nat) (slot : Slot) (cause : Cause) (stream : Option Nat) (but : List Nat) : State :=
  ((s.outActions b).foldl (fun s a => s.logMore slot cause a stream) s).takeOut b but

/-! ## Slots -/

/-- The slot of a cause detected at a unit (Table 15.7); none for DOORBELL_IGNORED. Block causes take the block,
region causes of the arrays and ACCESS_VIOLATION and SRAM_UNCORRECTABLE the region, DRAM_UNCORRECTABLE the stack. -/
def causeSlot (cause : Cause) (unit : Nat) : Option Slot :=
  match cause with
  | .residue | .joinResidue => some (.cell unit)
  | .benchUncorrectable | .benchRowsExhausted | .blockTestFail => some (.block unit)
  | .stageUncorrectable | .stageRowsExhausted | .transformSumcheck => some (.region unit)
  | .motionFault | .fallbackRecordCrc => some (.region 9)
  | .overlayFault => some (.region 10)
  | .lineBufferUncorrectable => some (.region 11)
  | .accessViolation | .sramUncorrectable => some (.region unit)
  | .spliceDown | .spliceHopLimit => some (.region 13)
  | .dramUncorrectable => some (.region (14 + unit))
  | .sheetLate | .bootFallback => some (.region 18)
  | .dailiesMismatch | .checkerFault => some (.region 19)
  | .doorbellIgnored => none
  | .fabricIntegrity | .tagTimeout | .controlWatchdog | .firmwareUncorrectable | .clapperFault
  | .bootImageInvalid => some .chip

/-- The action of a cause's own first response (Table 15.7); the alternatives of BENCH_ROWS_EXHAUSTED and the later
actions are logged as they are taken. -/
def causeAction : Cause → Nat
  | .residue | .joinResidue | .transformSumcheck => 1
  | .benchRowsExhausted => 2
  | .blockTestFail => 3
  | .benchUncorrectable | .stageUncorrectable | .motionFault | .overlayFault | .lineBufferUncorrectable
  | .dramUncorrectable | .sheetLate | .sramUncorrectable | .fabricIntegrity => 4
  | .stageRowsExhausted => 5
  | .spliceDown => 6
  | .checkerFault => 10
  | .controlWatchdog | .firmwareUncorrectable | .clapperFault | .bootImageInvalid => 9
  | .fallbackRecordCrc | .accessViolation | .spliceHopLimit | .dailiesMismatch | .bootFallback | .doorbellIgnored
  | .tagTimeout => 0

/-- The slot one level up (R489). -/
def slotUp : Slot → Option Slot
  | .cell b => some (.block b)
  | .block b => some (.region (b / 4))
  | .region _ => some .chip
  | .chip => none

/-- The ERR_STATUS bit of a slot's level. -/
def levelBit (s : Slot) : Word32 := BitVec.ofNat 32 (2 ^ slotLevel s)

/-- When a first response that begins now has ended (log 23). -/
def State.responseEnd (s : State) : Nat := s.clock.clap + 1 + (Config.responseTicks s.free).val

/-- Hold a slot. -/
def State.holdSlot (s : State) (slot : Slot) (cause : Cause) (unit : Nat) (hold : HeldUntil) : State :=
  { s with err := { s.err with slots :=
      ⟨slot, cause, unit, hold, none⟩ :: s.err.slots.filter (fun h => !(h.slot == slot)) } }

/-- Release the slots a test names. -/
def State.releaseSlots (s : State) (p : HeldSlot → Bool) : State :=
  { s with err := { s.err with slots := s.err.slots.filter (fun h => !p h) } }

/-- Rays are cast for the pair (R114): depth planes, a share, a proxy with each keyframe, and no cut. -/
def State.pairCasts (s : State) (p : Pair) : Bool :=
  let x := s.stream p.stream
  let key (slot : Nat) : Option Key := x.keys.find? fun k => k.slot == slot
  bitOf x.p.planes 0 && (s.reel? x.p.reel).any (fun r => decide (0 < r.content.motion.rayShare)) &&
  (key p.a).any (fun k => k.proxy.isSome) && (key p.b).any fun k => k.proxy.isSome && !k.cut

/-- MOTION works on the pair: the pyramid builder has begun one of its keyframes and has row groups of it left, engines 2 to 5 have
begun the pair and have row groups left, or the warp unit has tile rows of its frames left (Table 3.1, R76). -/
def State.pairInWork (s : State) (p : Pair) : Bool :=
  let x := s.stream p.stream
  let groups := ceilDiv x.p.renH 4
  let begun := !(p.blockDone.isEmpty && p.occDone.isEmpty)
  let building := s.motion.pyramids.any fun k => k.1 == p.stream && (k.2.1 == p.a || k.2.1 == p.b) && !k.2.2.isEmpty &&
    decide (k.2.2.length < groups)
  let named (i : Nat) (k : Option Nat) : Bool := k.any fun c => (x.keys.find? fun y => y.slot == i).any fun y => y.counter == c
  let warping := x.frames.any fun f => !f.closed && named p.a f.keyA && named p.b f.keyB &&
    f.written.length < ceilDiv x.p.outH 64
  !p.failed && (building || (begun && (decide ((if s.pairCasts p then p.rayDone else p.occDone).length < groups) || warping)))

/-- The first response of MOTION's slot ends, and MOTION has discarded the pair by then (log 92). -/
def State.motionResponse (s : State) : Nat :=
  match ((s.err.slots.find? fun h => h.slot == .region 9).map fun h => h.hold : Option HeldUntil) with
  | some (HeldUntil.response t) | some (HeldUntil.motionDiscard t) => t
  | _ => s.responseEnd

/-- MOTION's response to an error (R87). A pair of a DEADLINE stream that it works on issues no further token; one of a BATCH
stream starts again from its first row group once the first response has ended. Where the error names a stream, it is met on that
stream's pair; otherwise on every pair in work (DEDUCED, log 92). -/
def State.motionFails (s : State) (stream : Option Nat) : State :=
  let fails (p : Pair) : Pair :=
    if !(s.pairInWork p && stream.all (· == p.stream)) then p
    else if (s.stream p.stream).p.batch then
      { p with blockDone := [], censusDone := [], occDone := [], rayDone := [], blocks := [], census := [],
               resumeAt := s.motionResponse }
    else { p with failed := true }
  { s with motion := { s.motion with pairs := s.motion.pairs.map fails } }

/-- OVERLAY gives up the rows it has begun and not completed (R333). -/
def State.overlayFails (s : State) : State :=
  { s with ovl := { s.ovl with rows := s.ovl.rows.map fun r =>
      if r.finished then r else { r with failed := true, sealed := none, open_ := [] } } }

/-- The host island enters reset (R449): what it clears, and HOST_LINK down. -/
def State.hostReset (s : State) : State :=
  if s.host.inReset then s
  else
    ({ s with host := { s.host with inReset := true, lossBeat := some s.beat, msixEnable := false, msix := [], bar0 := 0, bar2 := 0, d3hot := false },
              dev := { s.dev with bar2Size := 28, bar2Base := 0, scratch := 0, mboxError := 0 } }).postDevice 0x0026 0 0
      [Int.ofNat s.dev.hostEpoch]

/-! ## Ports leaving UP (R365, R382, R388) -/

def portCode : PortState → Nat
  | .disabled => 0
  | .down => 1
  | .up => 2
  | .retraining => 3

/-- Post SPLICE_LINK for a port. A slot held until the port's event is released (Table 15.7). -/
def State.postLink (s : State) (p : Nat) : State :=
  let x := s.port p
  (s.postDevice 0x0020 p 0 [Int.ofNat (portCode x.state), Int.ofNat x.width, Int.ofNat x.roundTrip, bitN x.degraded]).releaseSlots
    fun h => h.hold == .spliceEvent && h.unit == p

/-- The set digest (R380). -/
def setDigest (members : List Nat) : List Byte :=
  sha3_256 (leBytes 1 members.length ++ members.flatMap (leBytes 8))

/-- The digest of the chip's set: a chip that is not configured is a set of one (R380). -/
def State.setDigestNow (s : State) : List Byte := if s.set.configured then s.set.digest else setDigest [s.fuses.chipId]

/-- The member whose TIME flits the port received: they show a chip ID of the member list and this chip's set digest (R381). -/
def State.memberSeen (s : State) (p : Nat) : Option Nat :=
  match (s.port p).peer with
  | none => none
  | some (bs, _, _) =>
    if s.set.configured && slice bs 0x2C 32 == s.set.digest then
      let i := s.set.members.findIdx (· == leNat bs 0x24 8)
      if i < s.set.members.length then some i else none
    else none

/-- The member that a port joins: the port is UP. -/
def State.memberAt (s : State) (p : Nat) : Option Nat := if (s.port p).state == .up then s.memberSeen p else none

/-- The port that a SPLICE chip takes its clapper from (R382): the lowest depth, then the lowest port. A peer whose depth is
unknown (0xFF) is none. -/
def State.upstream (s : State) : Option Nat :=
  let depth (p : Nat) : Nat := match (s.port p).peer with
    | some (bs, _, _) => leNat bs 0x23 1
    | none => 0xFF
  ((List.range 6).filter fun p => (s.memberAt p).isSome && decide (depth p < 0xFF)).foldl
    (fun (best : Option Nat) p => match best with
      | none => some p
      | some q => if depth p < depth q then some p else some q) none

/-- The clapper enters a state; a change posts CLAPPER (R386). -/
def State.setClap (s : State) (c : ClapState) : State :=
  if s.clock.state = c then s
  else ({ s with clock := { s.clock with state := c } }).postDevice 0x0022 0 0 [Int.ofNat (clapCode c)]

/-- The clapper source is lost (R388): FREE. -/
def State.loseSource (s : State) : State :=
  if s.clock.source = .internal then s
  else ({ s with clock := { s.clock with steady := 0, offsetBeat := none, before := none, lastTime := none,
                                         rx := ⟨none, [], none⟩ } }).setClap .free

/-- A port enters a state: SPLICE_LINK; a clapper taken from the port loses its source. -/
def State.portEnters (s : State) (p : Nat) (st : PortState) : State :=
  if (s.port p).state = st then s
  else
    let lost := s.clock.source == .splice && s.upstream == some p
    let s1 := (s.updPort p fun x => { x with state := st, since := s.clock.clap, trainingAt := none }).postLink p
    if lost then s1.loseSource else s1

/-- Ports that are UP go to RETRAINING (R490). -/
def State.retrainAll (s : State) : State :=
  (List.range 6).foldl (fun s p => if (s.port p).state == .up then s.portEnters p .retraining else s) s

/-! ## Gate events and underruns (R349, R351, R459, R460) -/

/-- The frame being read out: the next one once FRAME_DONE of the frame in `frame` has been posted. -/
def Gate.workFrame (x : Gate) : Nat := x.frame + bitN x.doneSent

/-- Bits of GATE_EVENTS in the order of Table 11.6. -/
def evLineMatch : Nat := 0
def evSob : Nat := 1
def evFrameDone : Nat := 2
def evUnderrun : Nat := 3
def evHpd : Nat := 4
def evLink : Nat := 5
def evGenlock : Nat := 6

/-- Post a gate event: its bit, its vector, and an entry to the holder's ring, or to the device ring for HPD, LINK and
GENLOCK of a gate that no stream holds. -/
def State.gateEvent (s : State) (g bit : Nat) (payload : List Int) : State :=
  let s1 := (s.updGate g fun x => { x with events := x.events ||| BitVec.ofNat 7 (2 ^ bit) }).raise (17 + g)
  let x := s.gate g
  match x.holder with
  | some st =>
    let f := if bit = evUnderrun then x.workFrame - (s.stream st).gateBase
      else if bit < evUnderrun then x.frame - (s.stream st).gateBase else 0
    s1.postStream st (0x10 + bit) g f payload
  | none => if evHpd ≤ bit then s1.postDevice (0x10 + bit) g 0 payload else s1

/-- The rest of the frame is fill: fetches for it stop, lines already fetched for it are discarded. -/
def Gate.dropPicture (x : Gate) (vActive : Nat) : Gate :=
  { x with pictureOff := true, fetchLine := max x.fetchLine vActive,
           buffer := x.buffer.filter fun e => decide (vActive ≤ e.1) }

/-- UNDERRUN of line `y`; on gate 0 in clone mode the other gates fill as well (R355). -/
def State.underrun (s : State) (g : Nat) (c : GateConfig) (y : Nat) : State :=
  let s1 := s.updGate g fun x =>
    { x.dropPicture c.vActive with underrunLine := y, underruns := satAdd x.underruns 1 (2 ^ 32 - 1) }
  let s2 := if s.cloneMode && g == 0 then
      [1, 2, 3].foldl (fun s i => s.updGate i fun x => if x.runningGen then x.dropPicture c.vActive else x) s1
    else s1
  s2.gateEvent g evUnderrun [Int.ofNat ((s2.gate g).workFrame % 2 ^ 32), Int.ofNat y]

/-- Running gates fill the rest of the frames they read out, as after an underrun of the next line (R349, R490). -/
def State.fillGates (s : State) : State :=
  (List.range 4).foldl (fun s g => match (s.gate g).cfg with
    | some c => if (s.gate g).runningGen && !(s.gate g).pictureOff && decide ((s.gate g).readLine < c.vActive) then
        s.underrun g c (s.gate g).readLine else s
    | none => s) s

/-- CONTROL gives up the call sheet that it has built and not sealed; the sequencer builds it again before the seal (DESIGN CHOICE, log
134). -/
def State.abandonDraft (s : State) : State :=
  match s.seq.draft with
  | none => s
  | some (sh, _) =>
    let mine (k : Nat) : Bool := sh.entries.any fun e => e.takeId == k
    let s1 := sh.entries.foldl (fun s e => (e.tiles.foldl (fun s t => s.updWork t fun w => w.again e.unit e.takeId) s).refund e) s
    { s1 with seq := { s1.seq with draft := none, known := s1.seq.known.filter fun e => !mine e.takeId,
                                   remote := s1.seq.remote.filter fun r => !mine r.takeId },
              set := { s1.set with exchanges := s1.set.exchanges.filter fun x => !mine x.takeId },
              dailies := if sh.dailies then { s1.dailies with takesLeft := [] } else s1.dailies }

/-- CONTINUITY gives up the readbacks of frames that it has begun; each record is judged within its command (DESIGN CHOICE, log 134). -/
def State.abandonReadbacks (s : State) : State :=
  { s with chk := { s.chk with streams := s.chk.streams.map fun d =>
      { d with rbFrame := none, rbTiles := [], rbCount := 0, rbRowTs := none, rbWorst := 0 } } }

/-- The response of a region slot other than an array region's, reached by escalation: action 7 (R490). A DRAM controller ends its
accesses within their commands and has no work between them (log 134). -/
def State.regionAbandon (s : State) (k : Nat) (stream : Option Nat) : State :=
  match k with
  | 9 => s.motionFails stream
  | 10 => s.overlayFails
  | 11 => s.fillGates
  | 12 => s.hostReset
  | 13 => s.retrainAll
  | 18 => s.abandonDraft
  | 19 => s.abandonReadbacks
  | _ => s

/-- The response of the level, for an error that reached the slot by escalation (R490). -/
def State.levelResponse (s : State) (slot : Slot) (cause : Cause) (stream : Option Nat) : State :=
  match slot with
  | .cell _ => s
  | .block b => s.substituteLater b slot cause stream []
  | .region k =>
    if k < 9 then
      (((List.range 4).map fun i => 4 * k + i).filter s.mappedBlock).foldl
        (fun s b => s.substituteLater b slot cause stream []) s
    else (s.log 2 k false false 7 cause stream none).regionAbandon k stream
  | .chip => (s.log 3 0 false true 9 cause stream none).halt

/-- Until when a slot reached by escalation is held: its level's response is complete (R490). A substitution is with the next frame
start. -/
def State.levelHold (s : State) (slot : Slot) : HeldUntil :=
  let swaps (b : Nat) : Bool := s.mappedBlock b && !s.spares.isEmpty
  match slot with
  | .chip => .fundamental
  | .block b => if swaps b then .frameStart else .response s.responseEnd
  | .region k => if k < 9 ∧ (List.range 4).any (fun i => swaps (4 * k + i)) then .frameStart
      else if k = 9 then .motionDiscard s.responseEnd else .response s.responseEnd
  | .cell _ => .response s.responseEnd

/-- An error enters a slot, or is nested and moves up (R489); `fuel` is the number of levels above, `act` the action of its
own response. -/
def State.enterSlot (s : State) (cause : Cause) (unit : Nat) (stream : Option Nat) (hold : HeldUntil) (act : Nat) :
    Nat → Slot → Bool → State
  | fuel, slot, up =>
    if s.slotHeld slot then
      let s1 := (s.logAt (errorIsland cause unit (slotLevel slot) (slotUnit slot)) (slotLevel slot) (slotUnit slot) true (slot == .chip) (if slot == .chip then 9 else 0) cause
        stream none).setErrStatus (BitVec.ofNat 32 16)
      match fuel, slotUp slot with
      | n + 1, some next => State.enterSlot s1 cause unit stream hold act n next true
      | _, _ => if s1.err.halted then s1 else s1.halt
    else if up then
      ((s.holdSlot slot cause unit (s.levelHold slot)).setErrStatus
        (levelBit slot)).levelResponse slot cause stream |>.spend
    else
      ((s.holdSlot slot cause unit hold).logAt (errorIsland cause unit (slotLevel slot) (slotUnit slot)) (slotLevel slot) (slotUnit slot) false (act == 9) act cause stream
        none).setErrStatus (levelBit slot) |>.spend
termination_by structural fuel => fuel

/-- An error is detected (R488): it enters its slot and is logged, or escalates. The rest of the cause's own
response is the caller's. `hold` says until when the slot is held. -/
def State.detectAs (s : State) (cause : Cause) (unit act : Nat) (stream : Option Nat) (hold : HeldUntil) : State :=
  match causeSlot cause unit with
  | none => s
  | some slot => State.enterSlot s cause unit stream hold act 3 slot false

def State.detect (s : State) (cause : Cause) (unit : Nat) (stream : Option Nat) (hold : HeldUntil) : State :=
  s.detectAs cause unit (causeAction cause) stream hold

/-- An error whose slot is held until the end of its first response. -/
def State.detectBrief (s : State) (cause : Cause) (unit : Nat) (stream : Option Nat) : State :=
  s.detect cause unit stream (.response s.responseEnd)

/-- The error is one that entered its own slot, so that the cause's own response applies. -/
def State.ownSlotFree (s : State) (cause : Cause) (unit : Nat) : Bool :=
  match causeSlot cause unit with
  | none => false
  | some slot => !s.slotHeld slot

/-- ACCESS_VIOLATION in the requester's region, with extra ERR_STATUS bits (Table 14.7). -/
def State.accessViolation (s : State) (region : Nat) (bits : Word32) : State :=
  (s.detectBrief .accessViolation region none).setErrStatus bits

/-- The firewall passes every access of a requester to the ranges (R486). -/
def State.passes (s : State) (who : Requester) (reads writes : List (Nat × Nat)) : Bool :=
  reads.all (fun r => s.wall.passes who false r.1 r.2) && writes.all fun r => s.wall.passes who true r.1 r.2

/-- The work of one of Balim's own engines on memory: where an access of it fails the firewall, the violation is logged in the engine's
region slot and nothing of the work is done (R486; DESIGN CHOICE, log 106). -/
def State.screen (s : State) (who : Requester) (reads writes : List (Nat × Nat)) (work : State → State) : State :=
  if s.passes who reads writes then work s else s.accessViolation (requesterRegion who) 0

/-- ERR_STATUS bits 5, 6 and 7 (Table 14.7). -/
def statusAccess : Word32 := 0x20
def statusWindow : Word32 := 0x40
def statusDoorbell : Word32 := 0x80

/-- DOORBELL_IGNORED (R261): logged with the HOST unit, no slot, ERR_STATUS bit 7. Log bytes 0x14–0x15 hold
E_NO_RING, 0x16 the ring index, 0x17–0x19 the index field. -/
def State.doorbellIgnored (s : State) (stream ring index : Nat) : State :=
  (s.log 2 12 false false 0 .doorbellIgnored (some stream)
    (some (eNoRing + 0x1_0000 * (ring % 256) + 0x100_0000 * (index % 2 ^ 24)))).setErrStatus statusDoorbell

end Sys2Proof.Machine
end

