-- ==== Sys2Proof/Machine/Routes.lean ====
section
/-!
DEFINITION. Topology and routes of a set (R377, R378, R391), packets on their way (R371), error responses, and the requests that this
chip sends to other members (R394, R396, R397) with their operation tags and credits (R26, R31, R245).
-/
namespace Sys2Proof.Machine

/-! ## Topology and routes -/

/-- Member links that the chip sees (R391): (lower index, higher index, port on the lower chip), in ascending order: its own
UP member ports, and those between other members (log 40). -/
def State.links (s : State) : List (Nat × Nat × Nat) :=
  let me := s.set.index
  let n := s.set.members.length
  let own := (List.range 6).filterMap fun p => (s.memberAt p).map fun j =>
    if me < j then (me, j, p) else (j, me, (Config.farPort s.free p).val)
  let others := (Config.peerLinks s.free).filterMap fun l =>
    if l.1.val < l.2.1.val ∧ l.2.1.val < n ∧ l.1.val ≠ me ∧ l.2.1.val ≠ me then some (l.1.val, l.2.1.val, l.2.2.val) else none
  let codes := (own ++ others).foldl (fun acc l => insertUnit ((l.1 * 16 + l.2.1) * 8 + l.2.2) acc) []
  codes.map fun c => (c / 128, c / 8 % 16, c % 8)

/-- Two members are joined. -/
def joined (links : List (Nat × Nat × Nat)) (a b : Nat) : Bool :=
  links.any fun l => (l.1 == a && l.2.1 == b) || (l.1 == b && l.2.1 == a)

/-- Distances from index 0, grown one link at a time; 16 stands for not reached. -/
def levels (links : List (Nat × Nat × Nat)) (n : Nat) : Nat → List Nat
  | 0 => (List.range n).map fun i => if i = 0 then 0 else 16
  | k + 1 =>
    let prev := levels links n k
    (List.range n).map fun i =>
      if prev.getD i 16 < 16 then prev.getD i 16
      else if (List.range n).any fun j => joined links i j && decide (prev.getD j 16 < 16) then k + 1 else 16

/-- The hop from `a` to `b` is up (R377). -/
def upHop (level : List Nat) (a b : Nat) : Bool :=
  let la := level.getD a 16
  let lb := level.getD b 16
  decide (lb < la) || (lb == la && decide (b < a))

/-- Lexicographic order on lists of indices. -/
def lexLess : List Nat → List Nat → Bool
  | _, [] => false
  | [], _ :: _ => true
  | x :: xs, y :: ys => decide (x < y) || (x == y && lexLess xs ys)

/-- The better of two routes (R378): the shorter, then the lower in lexicographic order. -/
def betterRoute (a b : Option (List Nat)) : Option (List Nat) :=
  match a, b with
  | none, r => r
  | r, none => r
  | some x, some y => if y.length < x.length ∨ (y.length = x.length ∧ lexLess y x = true) then some y else some x

/-- Best routes to `d` of at most `k` hops, for every start: made of down hops only when `down`, else of up hops followed by
down hops. A route lists the indices after the start. -/
def routesTo (links : List (Nat × Nat × Nat)) (level : List Nat) (n d : Nat) : Nat → Bool → List (Option (List Nat))
  | 0, _ => (List.range n).map fun a => if a = d then some [] else none
  | k + 1, down =>
    let downs := routesTo links level n d k true
    let ups := if down then [] else routesTo links level n d k false
    (List.range n).map fun a =>
      if a = d then some []
      else (List.range n).foldl (fun best b =>
        if !joined links a b then best
        else
          let tail : Option (List Nat) := if upHop level a b then (if down then none else ups.getD b none) else downs.getD b none
          betterRoute best (tail.map fun r => b :: r)) none

/-- The two next hops of every destination (R378): for route_phase 0 and for route_phase 1. -/
def routeTable (links : List (Nat × Nat × Nat)) (n me : Nat) : List (Nat × Option Nat × Option Nat) :=
  let level := levels links n n
  let hop (d : Nat) (down : Bool) : Option Nat := match (routesTo links level n d n down).getD me none with
    | some (b :: _) => some b
    | _ => none
  ((List.range n).filter (· ≠ me)).map fun d => (d, hop d false, hop d true)

/-- The routes in force: those of the epoch, else of the chip's own view (R391, R392). -/
def State.routes (s : State) : List (Nat × Option Nat × Option Nat) :=
  match s.set.epoch with
  | some e => e.routes
  | none => routeTable s.links s.set.members.length s.set.index

/-- The levels in force: those of the epoch's topology, else of the chip's own view (R377). -/
def State.levelsNow (s : State) : List Nat :=
  match s.set.epoch with
  | some e => e.levels
  | none => levels s.links s.set.members.length s.set.members.length

/-- The UP ports that join the chip to member `j`. -/
def State.portsTo (s : State) (j : Nat) : List (Fin 6) := (List.finRange 6).filter fun p => s.memberAt p.val == some j

/-- A route of the epoch uses member `j` as next hop. -/
def State.onRoute (s : State) (j : Nat) : Bool :=
  s.set.epoch.any fun e => e.routes.any fun r => r.2.1 == some j || r.2.2 == some j

/-- The epoch ends (R392): SET_DEGRADED, set streams HELD with cause 2, takes that wait for members are withdrawn. -/
def State.endEpoch (s : State) (cause : Nat) : State :=
  match s.set.epoch with
  | none => s
  | some e =>
    let s1 := s.postDevice 0x0024 0 0 [Int.ofNat e.number, Int.ofNat cause]
    let hit := s1.openStreams.filter fun i => (s1.reel? (s1.stream i).p.reel).any fun r => r.setScope
    let s2 := hit.foldl (fun s i => s.holdStream i .epochEnded none) s1
    let waiting := s2.seq.remote.filterMap fun r => r.token
    { s2 with set := { s2.set with epoch := none, ending := none, exchanges := [], unsent := [] },
              seq := { s2.seq with remote := s2.seq.remote.map (fun r => { r with left := 0, bad := true, token := none }),
                                   received := s2.seq.received ++ waiting } }

/-! ## Packets -/

/-- Splice fields of a packet header (Table 12.3). -/
def packetDst (h : List Byte) : Nat := leNat h 0x18 1
def packetSrc (h : List Byte) : Nat := leNat h 0x19 1
def packetHops (h : List Byte) : Nat := leNat h 0x1A 1
def packetPhase (h : List Byte) : Nat := leNat h 0x1B 1

/-- The port that a packet takes and its route_phase after the hop (R378); none where no route exists. -/
def State.portFor (s : State) (h : List Byte) : Option (Fin 6 × Nat) :=
  let dst := packetDst h
  match (s.routes.find? fun r => r.1 == dst).bind fun r => if packetPhase h = 1 then r.2.2 else r.2.1 with
  | none => none
  | some j =>
    let ports := s.portsTo j
    (ports[(packetSrc h + dst) % max 1 ports.length]?).map fun p => (p, if upHop s.levelsNow s.set.index j then packetPhase h else 1)

/-- Put a packet in the queue of the port that its route takes (R378), with the tag of a request that waits for a response. The flag
says whether a route exists. -/
def State.routePacket (s : State) (rsp : Bool) (bytes : List Byte) (tag : Option Nat) : State × Bool :=
  match s.portFor (bytes.take 32) with
  | none => (s, false)
  | some (p, phase) =>
    let sent := patch bytes 0x1B (leBytes 1 phase)
    let pk : Packet := ⟨rsp, Config.packetUrgent (bytes.take 32), sent, false⟩
    (s.updPort p.val fun x => { x with queue := x.queue ++ [pk],
                                       waiting := x.waiting ++ (tag.map fun t => (sent.take 32, t)).toList }, true)

/-- The header of a response to a request: it goes to the requester, whose index both chip fields hold (Table 12.3), and starts with no
links crossed and up hops allowed. -/
def answerTo (h head : List Byte) : List Byte :=
  patch (slice head 0 32) 0x18 (leBytes 1 (packetSrc h) ++ leBytes 1 (packetSrc h) ++ leBytes 1 0 ++ leBytes 1 0)

/-- The crossing to the port that a packet takes holds a credit for it (R26, R27); a packet that ends here, or has no route, needs
none. -/
def State.hasCredit (s : State) (rsp : Bool) (bytes : List Byte) : Bool :=
  let h := bytes.take 32
  packetDst h == s.set.index ||
  (match s.portFor h with
    | none => true
    | some q => decide (0 < s.creditsLeft (.fabricSplice q.1) rsp (Config.packetUrgent h)))

/-- Send a response of this chip: it goes on where the crossing holds a credit for it, or waits behind those that came before it (R26). -/
def State.sendAnswer (s : State) (bytes : List Byte) : State :=
  if s.set.answers.isEmpty && s.hasCredit true bytes then (s.routePacket true bytes none).1
  else { s with set := { s.set with answers := s.set.answers ++ [bytes] } }

/-- Answer a request with an error response (R375, R378): to this chip's own requester, or on its way back. -/
def State.errorResponse (s : State) (h : List Byte) (code : Nat) : State :=
  if packetSrc h = s.set.index then { s with out := { s.out with errorResponse := true, linkError := decide (code = eLink) } }
  else s.sendAnswer (answerTo h (Config.errorHeader h code))

/-! ## Requests of this chip to other members (R394, R396, R397) -/

/-- A tag is free again: it belongs to no request of this chip any longer. -/
def State.dropTag (s : State) (t : Nat) : State :=
  { s with tags := s.tags.filter (fun h => !(h.tag == t)), set := { s.set with inFlight := s.set.inFlight.filter fun f => !(f.tag == t) } }

/-- A remote read has brought its bytes, or has met an error. -/
def State.noteFetched (s : State) (f : Option Fetch) (data : List Byte) (bad : Bool) : State :=
  match f with
  | none => s
  | some k => { s with set := { s.set with fetched := s.set.fetched ++ [⟨k, data, bad⟩] } }

/-- A tag whose request met an error response is free again; what a remote read was to bring is lost. -/
def State.failTag (s : State) (t : Nat) : State :=
  (s.noteFetched ((s.set.inFlight.find? fun f => f.tag == t).bind (·.fetch)) [] true).dropTag t

/-- A request packet of this chip to member `dst`: the given header with the splice fields of Table 12.3, and data. -/
def State.requestTo (s : State) (dst : Nat) (header data : List Byte) : List Byte :=
  patch (slice header 0 32) 0x18 (leBytes 1 dst ++ leBytes 1 s.set.index ++ leBytes 1 0 ++ leBytes 1 0) ++ data

/-- The addresses and sizes of the packets that carry `n` bytes from address `a`: at most 256 data bytes each. -/
def packetsOf (a n : Nat) : List (Nat × Nat) := (List.range (ceilDiv n 256)).map fun i => (a + 256 * i, min 256 (n - 256 * i))

/-- The packets of a write of bytes to address `a` of member `dst`. -/
def State.writePackets (s : State) (dst a : Nat) (bs : List Byte) : List (List Byte) :=
  (packetsOf a bs.length).map fun p => s.requestTo dst (Config.writeHeader p.1 p.2) (slice bs (p.1 - a) p.2)

/-- The oldest request that waits can go out: it has no route, or an operation tag and a credit of the crossing to its port (R26, R31,
R245). -/
def State.mayIssue (s : State) (w : SetRequest) : Bool :=
  let h := w.bytes.take 32
  (s.portFor h).isNone || (s.nextTag w.who (Config.packetUrgent h)).isSome && s.hasCredit false w.bytes

/-- Issue a request. One without a route ends in an error response. -/
def State.issue (s : State) (w : SetRequest) : State :=
  let h := w.bytes.take 32
  match s.portFor h, s.nextTag w.who (Config.packetUrgent h) with
  | none, _ => (s.noteFetched w.fetch [] true).errorResponse h eLink
  | some _, some t =>
    let s1 := { s with tags := s.tags ++ [(⟨t, w.who, s.clock.clap⟩ : TagHold)],
                       set := { s.set with inFlight := s.set.inFlight ++ [(⟨t, w.exchange, w.fetch⟩ : SetInFlight)] } }
    (s1.routePacket false w.bytes (some t)).1
  | some _, none => s

/-- Send bytes to address `a` of member `dst`, as soon as the fabric takes them. -/
def State.sendWrite (s : State) (region : Fin 9) (exchange : Option Nat) (dst a : Nat) (bs : List Byte) : State :=
  { s with set := { s.set with unsent := s.set.unsent ++ (s.writePackets dst a bs).map fun k => ⟨.egress region, exchange, none, k⟩ } }

/-- The packets of a fill-list entry: addresses and sizes in the owner's memory (R394). -/
def fillPackets (f : CueFill) : List (Nat × Nat) := f.from_.flatMap fun r => packetsOf r.1 r.2

/-- A dolly reads an input of cued work from its owner (R394): one request for each packet, as soon as the fabric takes it. -/
def State.sendReads (s : State) (takeId : Nat) (owner : Nat) (tile : TileRef) (f : CueFill) : State :=
  let reads := (fillPackets f).mapIdx fun i p =>
    (⟨.dolly (Config.fetchDolly takeId), none, some ⟨takeId, tile, f.src, i⟩, s.requestTo owner (Config.readHeader p.1 p.2) []⟩ : SetRequest)
  { s with set := { s.set with unsent := s.set.unsent ++ reads } }

/-- Writes of an exchange that have not been acknowledged. -/
def SetState.unacknowledged (x : SetState) (takeId : Nat) : Bool :=
  x.unsent.any (fun w => w.exchange == some takeId) || x.inFlight.any fun f => f.exchange == some takeId

/-- The packets of `n` bytes from address `a` have all been written here. -/
def SetState.hasLanded (x : SetState) (a n : Nat) : Bool := (packetsOf a n).all fun p => x.landed.contains p.1

/-- What was written at these addresses has been used. -/
def State.unland (s : State) (rs : List (Nat × Nat)) : State :=
  let done := rs.flatMap fun r => (packetsOf r.1 r.2).map (·.1)
  { s with set := { s.set with landed := s.set.landed.filter fun a => !done.contains a } }

end Sys2Proof.Machine
end

