-- ==== Sys2Proof/Machine/Capacity.lean ====
section
/-!
DEFINITION. Times of output frames (R52 to R62, R340), demand, budgets and pipeline time (R69 to R76, R85, R259),
and what changes when a stream opens or closes (R70).
-/
namespace Sys2Proof.Machine

/-! ## Exact fractions -/

/-- A non-negative fraction: numerator and denominator. -/
abbrev Frac := Nat × Nat

def Frac.add (a b : Frac) : Frac := (a.1 * b.2 + b.1 * a.2, a.2 * b.2)
def Frac.le (a b : Frac) : Bool := decide (a.1 * b.2 ≤ b.1 * a.2)
def Frac.sum (xs : List Frac) : Frac := xs.foldl Frac.add (0, 1)

/-! ## Output rate and frame times -/

/-- Output frames per second of a stream: its gate's nominal rate, or out_rate in mHz (R73). -/
def State.outputRate (s : State) (p : StreamParams) : Frac :=
  match p.gate with
  | none => (p.outRate, 1000)
  | some g =>
    match (s.gate g).cfg with
    | none => (0, 1)
    | some c => (c.clock * 1000, c.hTotal * c.vTotal)

/-- Frame period of a virtual raster in 2^-32 tick (R41). -/
def rasterPeriod (p : StreamParams) : Nat :=
  if p.outRate = 0 then 0 else Config.ticksPerSecond * 1000 * subTicks / p.outRate

/-- When the lines of a frame start: `base + (lines + y) · num / den` in 2^-32 ticks. -/
structure Raster where
  base : Nat
  lines : Nat
  num : Nat
  den : Nat
  deriving DecidableEq, Repr

def Raster.lineStart (r : Raster) (y : Nat) : Nat := r.base + (r.lines + y) * r.num / max 1 r.den

/-- The raster of output frame `f` of a DEADLINE stream: from the clocks committed for the gate's frames (R340), the
nominal clock beyond them, or the virtual raster (R41). -/
def State.frameRaster (s : State) (st f : Nat) : Raster :=
  let x := s.stream st
  match x.p.gate with
  | none => ⟨x.rasterStart, f * x.p.outH, Config.ticksPerSecond * 1000 * subTicks, x.p.outRate * x.p.outH⟩
  | some gi =>
    let g := s.gate gi
    match g.cfg with
    | none => ⟨0, 0, 0, 1⟩
    | some c =>
      let k := x.gateBase + f - g.frame
      let p := g.position c k
      ⟨p.1, p.2, c.hTotal * Config.ticksPerSecond * 256 * subTicks, g.clockOf c k⟩

/-- start(f) of output frame `f`, in 2^-32 tick. -/
def State.frameStart (s : State) (st f : Nat) : Nat := (s.frameRaster st f).lineStart 0

/-- start_line of line `y` of a frame. -/
def Frame.lineStart (f : Frame) (y : Nat) : Nat := Raster.lineStart ⟨f.base, f.lines, f.lineNum, f.lineDen⟩ y

/-- start(f) of a frame in progress. -/
def Frame.start (f : Frame) : Nat := f.lineStart 0

/-- One beat in 2^-32 ticks. -/
def beatSub : Nat := 500 * subTicks

/-- Latch beat λ(f, r) (R60). -/
def Frame.latchBeat (f : Frame) (r : Nat) : Nat := (f.lineStart (64 * r) - f.gateBeats * beatSub) / beatSub

/-- Due beat d(f, r) (R61). -/
def Frame.dueBeat (f : Frame) (overlayBeats r : Nat) : Nat := f.latchBeat r - overlayBeats - 2

/-- P_row: whole beats in 64 line times (R62). -/
def Frame.pRow (f : Frame) : Nat := 64 * f.lineNum / max 1 f.lineDen / beatSub

/-- Release beat (R62). -/
def Frame.releaseBeat (f : Frame) (overlayBeats leadRows r : Nat) : Nat :=
  f.dueBeat overlayBeats r - leadRows * f.pRow

/-- Tp of frame `f` in beats: a frame before the first one to which a change applies keeps the old one (R70). -/
def Stream.tpOf (x : Stream) (f : Nat) : Nat :=
  match x.tpFrom.find? fun e => e.1 ≤ f with
  | some e => e.2
  | none => x.tp

/-- Cutoff of output frame `f` as a clapper value (R53). -/
def State.cutoff (s : State) (st f : Nat) : Nat := s.frameStart st f / subTicks - (s.stream st).tpOf f * 500

/-- Arrival window of `f` opens 1,000 µs before start(f) (R53). -/
def State.windowOpens (s : State) (st f : Nat) : Nat := s.frameStart st f / subTicks - 250_000

/-! ## Demand and budgets -/

/-- Cycles of one keyframe interval (R73). -/
def cyclesPerInterval (p : StreamParams) (cTween cKey : Nat) : Nat :=
  let tiles := p.tileCount
  match p.mode with
  | .upscale => tiles * cKey
  | .tween => tiles * (p.n - 1) * cTween
  | .both => tiles * ((p.n - 1) * cTween + cKey)
  | .passthrough => 0

/-- D_s in cycles per beat (R73): cycles per interval × rate / N × 2 µs. BATCH streams have none. -/
def State.demandOf (s : State) (p : StreamParams) (cTween cKey : Nat) : Frac :=
  if p.batch then (0, 1)
  else
    let rate := s.outputRate p
    (cyclesPerInterval p cTween cKey * rate.1 * 2, max 1 (rate.2 * p.n * 1_000_000))

/-- C_avail in cycles per beat (R74): 511 of 512 beats, less 8 when a BATCH stream is open. -/
def cAvail (batchOpen : Bool) : Frac := (1500 * (if batchOpen then 503 else 511), 512)

/-- Cycle figures of a stream's reel: those of its load. -/
def State.reelCosts (s : State) (h : Nat) : Nat × Nat :=
  match s.reel? h with
  | some r => (r.cTween, r.cKey)
  | none => (0, 0)

/-- A stream as the capacity check sees it: its number, parameters and cycle figures. -/
structure Load where
  stream : Nat
  p : StreamParams
  cTween : Nat
  cKey : Nat

/-- The open streams as loads. CLOSING streams count until they are FREE (R259). -/
def State.loads (s : State) : List Load :=
  s.openStreams.map fun i =>
    let x := s.stream i
    let c := s.reelCosts x.p.reel
    ⟨i, x.p, c.1, c.2⟩

def State.loadDemand (s : State) (l : Load) : Frac := s.demandOf l.p l.cTween l.cKey

def batchAmong (ls : List Load) : Bool := ls.any fun l => l.p.batch

/-- ΣD over DEADLINE streams. -/
def State.totalDemand (s : State) (ls : List Load) : Frac := Frac.sum (ls.map s.loadDemand)

/-- ceil16: sixteenths of a cycle, rounded up (R259). -/
def ceil16 (d : Frac) : Nat := ceilDiv (16 * d.1) d.2

/-- b_s in sixteenths (R259): max(ceil16(d), floor16(d × C_avail / ΣD)), 0 when ΣD = 0. -/
def State.budgetOf (s : State) (ls : List Load) (l : Load) : Nat :=
  let d := s.loadDemand l
  let sum := s.totalDemand ls
  let c := cAvail (batchAmong ls)
  if sum.1 = 0 then 0
  else max (ceil16 d) (16 * d.1 * c.1 * sum.2 / (d.2 * c.2 * sum.1))

/-- motion_beats (R85). -/
def motionBeatsOf (p : StreamParams) (rayShare others : Nat) : Nat :=
  4 + ceilDiv (64 * p.renW + 4 * others) 9600 +
  (if p.hasDepth && decide (0 < rayShare) then ceilDiv (p.renW * rayShare) 300 else 0)

/-- Largest render_width among the other open streams that are not PASSTHROUGH. -/
def widestOther (ls : List Load) (me : Nat) : Nat :=
  ((ls.filter fun l => !(l.stream == me) && !(l.p.mode == .passthrough)).map fun l => l.p.renW).foldl max 0

/-- gate_beats of the destination: 0 for a print (R60). -/
def State.gateBeatsOf (s : State) (p : StreamParams) : Nat :=
  match p.gate with
  | none => 0
  | some g => (match (s.gate g).cfg with | none => 0 | some c => c.gateBeats)

/-- Row work (Table 2.6, R69): 0 in PASSTHROUGH. -/
def rowWorkOf (p : StreamParams) (cTween cKey budget xBeats : Nat) : Nat :=
  if budget = 0 then 0
  else ceilDiv (p.columns * (if p.mode = .upscale then cKey else cTween) * 16) budget + xBeats

/-- Tp in beats: the sum of Table 2.6. -/
def tpOfParts (motionBeats rowWork overlayBeats gateBeats : Nat) : Nat :=
  2 + motionBeats + 1 + rowWork + 1 + 4 + 12 + 1 + overlayBeats + gateBeats

/-- The figures of one load among all. -/
structure Figures where
  budget : Nat
  demand : Nat
  rowWork : Nat
  motionBeats : Nat
  gateBeats : Nat
  xBeats : Nat
  tp : Nat

/-- x_beats of a stream's reel (R395): 0 in chip scope. -/
def State.xBeatsOf (s : State) (h : Nat) : Nat :=
  match s.reel? h with
  | some r => if r.setScope then Config.setBeats h s.set.members.length else 0
  | none => 0

def State.rayShareOf (s : State) (h : Nat) : Nat :=
  match s.reel? h with
  | some r => r.content.motion.rayShare
  | none => 0

def State.figures (s : State) (ls : List Load) (l : Load) : Figures :=
  let b := s.budgetOf ls l
  let mb := motionBeatsOf l.p (s.rayShareOf l.p.reel) (widestOther ls l.stream)
  let x := s.xBeatsOf l.p.reel
  let rw := rowWorkOf l.p l.cTween l.cKey b x
  let gb := s.gateBeatsOf l.p
  { budget := if l.p.batch then 0 else b, demand := ceil16 (s.loadDemand l), rowWork := rw, motionBeats := mb,
    gateBeats := gb, xBeats := x, tp := tpOfParts mb rw l.p.overlayBeats gb }

/-- Keyframe pixels and fallback pixels per second of a load (R76), as fractions. -/
def State.motionLoad (s : State) (l : Load) : Frac × Frac :=
  if l.p.batch || l.p.mode == .passthrough then ((0, 1), (0, 1))
  else
    let r := s.outputRate l.p
    let perInterval := match l.p.mode with
      | .tween => l.p.n - 1
      | .both => l.p.n
      | .upscale => 1
      | .passthrough => 0
    ((l.p.renW * l.p.renH * r.1, max 1 (r.2 * l.p.n)),
     (l.p.tileCount * 8192 * perInterval * r.1, max 1 (r.2 * l.p.n)))

/-- Both MOTION limits of R76 hold. -/
def State.motionFits (s : State) (ls : List Load) : Bool :=
  Frac.le (Frac.sum (ls.map fun l => (s.motionLoad l).1)) (2_000_000_000, 1) &&
  Frac.le (Frac.sum (ls.map fun l => (s.motionLoad l).2)) (10_000_000_000, 1)

/-! ## Applying new figures (R70, R259) -/

/-- The first of `n` frames from `f` on whose arrival window has not opened. -/
def State.unopenedFrom (s : State) (st f : Nat) : Nat → Nat
  | 0 => f
  | n + 1 => if s.windowOpens st f ≤ s.clock.clap then State.unopenedFrom s st (f + 1) n else f

/-- The first output frame whose arrival window has not opened at the clapper's value: one that is set up already, as on a slow
raster, or one that is not. -/
def State.firstUnopened (s : State) (st : Nat) : Nat :=
  let x := s.stream st
  match x.frames.find? fun f => decide (s.clock.clap < f.start / subTicks - 250_000) with
  | some f => f.index
  | none => s.unopenedFrom st x.nextFrame 64

/-- The pipeline times that frames from `f` on still need: `ts`, newest first, down to the one that holds for `f`. -/
def neededTps (f : Nat) : List (Nat × Nat) → List (Nat × Nat)
  | [] => []
  | e :: es => if e.1 ≤ f then [e] else e :: neededTps f es

/-- Give a stream its new figures; accounts are clamped to the new cap (R259, R267), and a changed Tp posts
CUTOFF_CHANGED (R70). -/
def State.applyFigures (s : State) (st : Nat) (f : Figures) : State :=
  let x := s.stream st
  let first := s.firstUnopened st
  let s1 := s.updStream st fun y =>
    { y with budget := f.budget, account := min y.account (Int.ofNat (17 * f.budget)), rowWork := f.rowWork,
             motionBeats := f.motionBeats, gateBeats := f.gateBeats, xBeats := f.xBeats, tp := f.tp,
             demand := if y.downgraded then y.demand else f.demand,
             tpFrom := if y.tp = f.tp then y.tpFrom
               else (first, f.tp) :: neededTps ((y.frames.head?.map (·.index)).getD y.nextFrame)
                 (if y.tpFrom.isEmpty then [(0, y.tp)] else y.tpFrom) }
  if x.tp = f.tp || x.p.batch then s1
  else s1.postStream st 0x0007 0 0 [Int.ofNat f.tp, Int.ofNat first]

/-- Recompute every open stream's figures. -/
def State.recompute (s : State) : State :=
  let ls := s.loads
  ls.foldl (fun t l => t.applyFigures l.stream (s.figures ls l)) s

end Sys2Proof.Machine
end

