-- ==== Sys2Proof/Machine/Num.lean ====
section
/-!
DEFINITION. Exact extended reals and IEEE 754 binary32 arithmetic on them: round to nearest even, gradual
underflow, never fused (R131, R140, R142, R190).
-/
namespace Sys2Proof.Machine

/-- An extended real: every NaN is one NaN (R131); a finite value is `(-1)^neg × m × 2^e`, with `m = 0` a zero
that keeps its sign. -/
inductive FNum where
  | nan
  | inf (neg : Bool)
  | fin (neg : Bool) (m : Nat) (e : Int)
  deriving DecidableEq, Repr

/-- A binary floating-point grid: `f` mantissa bits, `ebits` exponent bits, smallest normal exponent `emin`. -/
structure Grid where
  f : Nat
  ebits : Nat
  emin : Int
  deriving DecidableEq, Repr

/-- binary32 (R131). -/
def gridF32 : Grid := ⟨23, 8, -126⟩

/-- `+0`. -/
def FNum.zero : FNum := .fin false 0 0

/-- An integer as an extended real. -/
def FNum.ofInt (x : Int) : FNum := .fin (decide (x < 0)) x.natAbs 0

/-- True when the value is negative or a negative zero. -/
def FNum.isNeg : FNum → Bool
  | .nan => false
  | .inf n => n
  | .fin n _ _ => n

/-- NaN test. -/
def FNum.isNan : FNum → Bool
  | .nan => true
  | _ => false

/-- Infinity test. -/
def FNum.isInf : FNum → Bool
  | .inf _ => true
  | _ => false

/-- Finite test. -/
def FNum.isFin : FNum → Bool
  | .fin _ _ _ => true
  | _ => false

/-- Exact zero test, either sign. -/
def FNum.isZero : FNum → Bool
  | .fin _ 0 _ => true
  | _ => false

/-- The sign changed. -/
def FNum.neg : FNum → FNum
  | .nan => .nan
  | .inf n => .inf (!n)
  | .fin n m e => .fin (!n) m e

/-- The magnitude. -/
def FNum.abs : FNum → FNum
  | .nan => .nan
  | .inf _ => .inf false
  | .fin _ m e => .fin false m e

/-- The signed integer `x / 2^e0`, exact when `e0` is no more than the exponent. -/
def FNum.scaled (e0 : Int) : FNum → Int
  | .fin n m e => let v : Int := Int.ofNat (m <<< (e - e0).toNat); if n then -v else v
  | _ => 0

/-- Exact sum. +∞ + −∞ is NaN; an exact zero sum is +0 except (−0) + (−0) (R142). -/
def FNum.add : FNum → FNum → FNum
  | .nan, _ | _, .nan => .nan
  | .inf a, .inf b => if a = b then .inf a else .nan
  | .inf a, _ => .inf a
  | _, .inf b => .inf b
  | .fin na ma ea, .fin nb mb eb =>
    if ma = 0 ∧ mb = 0 then .fin (na && nb) 0 0
    else
      let e := min ea eb
      let v := (FNum.fin na ma ea).scaled e + (FNum.fin nb mb eb).scaled e
      .fin (decide (v < 0)) v.natAbs e

/-- Exact difference. -/
def FNum.sub (a b : FNum) : FNum := a.add b.neg

/-- Exact product. ∞ × 0 is NaN (R142). -/
def FNum.mul : FNum → FNum → FNum
  | .nan, _ | _, .nan => .nan
  | .inf a, .inf b => .inf (a != b)
  | .inf a, .fin b m _ => if m = 0 then .nan else .inf (a != b)
  | .fin a m _, .inf b => if m = 0 then .nan else .inf (a != b)
  | .fin a ma ea, .fin b mb eb => .fin (a != b) (ma * mb) (ea + eb)

/-- Multiplication by a power of two, exact. -/
def FNum.scale2 (k : Int) : FNum → FNum
  | .fin n m e => .fin n m (e + k)
  | x => x

/-- Strict order; every comparison with NaN is false, +0 and −0 are equal (R117). -/
def FNum.lt : FNum → FNum → Bool
  | .nan, _ | _, .nan => false
  | .inf a, .inf b => a && !b
  | .inf a, .fin _ _ _ => a
  | .fin _ _ _, .inf b => !b
  | .fin na ma ea, .fin nb mb eb =>
    let e := min ea eb
    decide ((FNum.fin na ma ea).scaled e < (FNum.fin nb mb eb).scaled e)

/-- Order with equality; false with a NaN. -/
def FNum.le (a b : FNum) : Bool := !a.isNan && !b.isNan && !FNum.lt b a

/-- Numerical equality; false with a NaN. -/
def FNum.eq (a b : FNum) : Bool := FNum.le a b && FNum.le b a

/-- `floor(log2 m)` of a positive integer. -/
def log2Nat (m : Nat) : Nat := Nat.log2 m

/-- The magnitude `m × 2^e` cut on the grid step of R144: the quotient `q`, the step's exponent and the
remainder below the step as a pair (remainder, width of the remainder in bits). -/
def gridCut (g : Grid) (m : Nat) (e : Int) : Nat × Int × Nat × Nat :=
  let ue := max (Int.ofNat (log2Nat m) + e) g.emin - Int.ofNat g.f
  if ue ≤ e then (m <<< (e - ue).toNat, ue, 0, 0)
  else
    let sh := (ue - e).toNat
    (m >>> sh, ue, m % 2 ^ sh, sh)

/-- Round to nearest, ties to even, of a quotient with remainder `r` of `sh` bits. -/
def roundEven (q r sh : Nat) : Nat :=
  if 2 * r > 2 ^ sh ∨ (2 * r = 2 ^ sh ∧ sh ≠ 0 ∧ q % 2 = 1) then q + 1 else q

/-- Round on the grid with the exponent range unbounded above (R144). -/
def roundGrid (g : Grid) : FNum → FNum
  | .fin n m e =>
    if m = 0 then .fin n 0 0
    else
      let (q, ue, r, sh) := gridCut g m e
      .fin n (roundEven q r sh) ue
  | x => x

/-- The largest exponent of a finite value. -/
def Grid.emax (g : Grid) : Int := Int.ofNat (2 ^ g.ebits) - 3 + g.emin

/-- A magnitude on the grid lies beyond every finite value of an IEEE format. -/
def Grid.over (g : Grid) (m : Nat) (e : Int) : Bool := m ≠ 0 ∧ Int.ofNat (log2Nat m) + e > g.emax

/-- Round to an IEEE format: beyond the range becomes an infinity. -/
def roundIeee (g : Grid) (x : FNum) : FNum :=
  match roundGrid g x with
  | .fin n m e => if g.over m e then .inf n else .fin n m e
  | y => y

/-- The code of a value that already lies on the grid of an IEEE format; NaN has the quiet bit only (R142). -/
def encodeIeee (g : Grid) : FNum → Nat
  | .nan => (2 ^ g.ebits - 1) <<< g.f ||| 2 ^ (g.f - 1)
  | .inf n => bitN n <<< (g.f + g.ebits) ||| (2 ^ g.ebits - 1) <<< g.f
  | .fin n m e =>
    let s := bitN n <<< (g.f + g.ebits)
    if m = 0 then s
    else
      let top := Int.ofNat (log2Nat m) + e
      let u := max top g.emin - Int.ofNat g.f
      let q := if u ≤ e then m <<< (e - u).toNat else m >>> (u - e).toNat
      if q < 2 ^ g.f then s ||| q
      else s ||| ((top - g.emin + 1).toNat <<< g.f) ||| (q - 2 ^ g.f)

/-- The value of an IEEE code. -/
def decodeIeee (g : Grid) (c : Nat) : FNum :=
  let m := c % 2 ^ g.f
  let ex := c / 2 ^ g.f % 2 ^ g.ebits
  let n := c / 2 ^ (g.f + g.ebits) % 2 == 1
  if ex = 2 ^ g.ebits - 1 then (if m = 0 then .inf n else .nan)
  else if ex = 0 then .fin n m (g.emin - Int.ofNat g.f)
  else .fin n (m + 2 ^ g.f) (g.emin - Int.ofNat g.f + Int.ofNat ex - 1)

/-- binary32 rounding of an exact result. -/
def f32 (x : FNum) : FNum := roundIeee gridF32 x

/-- binary32 addition (R140). -/
def fadd (a b : FNum) : FNum := f32 (a.add b)

/-- binary32 subtraction. -/
def fsub (a b : FNum) : FNum := f32 (a.sub b)

/-- binary32 multiplication. -/
def fmul (a b : FNum) : FNum := f32 (a.mul b)

/-- binary32 division, correctly rounded: the quotient to 64 more bits than the divisor with a sticky bit. -/
def fdiv (a b : FNum) : FNum :=
  match a, b with
  | .nan, _ | _, .nan => .nan
  | .inf _, .inf _ => .nan
  | .inf x, .fin y _ _ => .inf (x != y)
  | .fin x _ _, .inf y => .fin (x != y) 0 0
  | .fin x ma ea, .fin y mb eb =>
    if mb = 0 then (if ma = 0 then .nan else .inf (x != y))
    else if ma = 0 then .fin (x != y) 0 0
    else
      let k := log2Nat mb + 64
      let q := ma <<< k / mb
      let sticky := bitN (ma <<< k % mb ≠ 0)
      f32 (.fin (x != y) (2 * q + sticky) (ea - eb - Int.ofNat k - 1))

/-- Newton's integer square root, on fuel. -/
def isqrtGo : Nat → Nat → Nat → Nat
  | 0, _, x => x
  | fuel + 1, n, x =>
    let y := (x + n / x) / 2
    if y < x then isqrtGo fuel n y else x

/-- Integer square root, rounded down. -/
def isqrt (n : Nat) : Nat := if n = 0 then 0 else isqrtGo (log2Nat n + 8) n (2 ^ (log2Nat n / 2 + 1))

/-- binary32 square root, correctly rounded; a negative value gives NaN, −0 stays −0. -/
def fsqrt : FNum → FNum
  | .nan => .nan
  | .inf n => if n then .nan else .inf false
  | .fin n m e =>
    if m = 0 then .fin n 0 0
    else if n then .nan
    else
      let odd := (e % 2).toNat
      let v := m <<< (odd + 128)
      let r := isqrt v
      let sticky := bitN (r * r ≠ v)
      f32 (.fin false (2 * r + sticky) ((e - Int.ofNat odd - 128) / 2 - 1))

/-- The larger of two binary32 values; NaN if either is NaN, +0 above −0 (R197). -/
def fmax (a b : FNum) : FNum :=
  if a.isNan || b.isNan then .nan
  else if a.isZero && b.isZero then .fin (a.isNeg && b.isNeg) 0 0
  else if FNum.lt a b then b else a

/-- The smaller of two binary32 values; NaN if either is NaN, −0 below +0 (R197). -/
def fmin (a b : FNum) : FNum :=
  if a.isNan || b.isNan then .nan
  else if a.isZero && b.isZero then .fin (a.isNeg || b.isNeg) 0 0
  else if FNum.lt b a then b else a

/-- A binary32 constant from its code. -/
def f32c (code : Nat) : FNum := decodeIeee gridF32 code

/-- `floor` of a finite value. -/
def FNum.floor : FNum → Int
  | .fin n m e =>
    let v : Int := if 0 ≤ e then Int.ofNat (m <<< e.toNat) else
      (if n then Int.ofNat ((m + 2 ^ (-e).toNat - 1) >>> (-e).toNat) else Int.ofNat (m >>> (-e).toNat))
    if n then -v else v
  | _ => 0

/-- Nearest integer, ties to even, of a finite value. -/
def FNum.roundInt : FNum → Int
  | .fin n m e =>
    let q := if 0 ≤ e then m <<< e.toNat else
      roundEven (m >>> (-e).toNat) (m % 2 ^ (-e).toNat) (-e).toNat
    if n then -Int.ofNat q else Int.ofNat q
  | _ => 0

/-- `P[f]` of R203: `2^(f/1024)` rounded to binary32, found by comparing 1,024th powers; the search halves an
interval of significands `[lo, lo + 2^fuel)`. -/
def pow2Search (f : Nat) : Nat → Nat → Nat
  | 0, lo => lo
  | fuel + 1, lo =>
    let mid := lo + 2 ^ fuel
    -- mid - 1/2 <= 2^(23 + f/1024), that is (2 mid - 1)^1024 <= 2^(24 × 1024 + f)
    if (2 * mid - 1) ^ 1024 ≤ 2 ^ (24 * 1024 + f) then pow2Search f fuel mid else pow2Search f fuel lo

/-- pow2q of R203. -/
def pow2q : FNum → FNum
  | .nan => .nan
  | z =>
    let q : Int := match z with
      | .inf n => if n then -129024 else 129024
      | x => clampInt (x.scale2 10).roundInt (-129024) 129024
    let f := (q % 1024).toNat
    .fin false (pow2Search f 23 (2 ^ 23)) (q / 1024 - 23)

end Sys2Proof.Machine
end

