-- ==== Sys2Proof/Machine/Rng.lean ====
section
/-!
DEFINITION. The counter-based generator CB-4x32 (R301) and the r value of stochastic rounding (R299, R300,
R302).
-/
namespace Sys2Proof.Machine

/-- The four round constants of R301. -/
def cbC : List Nat := [0x5D3A9F21, 0x8C4716B3, 0x3B7EC4D5, 0xF2A90867]

/-- The four multipliers of R301. -/
def cbM : List Nat := [0xA5C317E9, 0xE1B56F2D, 0x9B274C8B, 0xC6E13A57]

/-- One round of R301: the four words u are complete before any word x is formed. -/
def cbRound (k x : List Nat) (i : Nat) : List Nat :=
  let m := 2 ^ 32
  let u := (List.range 4).map fun j =>
    let rk := (k.getD ((i + j) % 4) 0 + (i + 1) * cbC.getD j 0) % m
    let u0 := (x.getD j 0 + rk) % m
    let u1 := u0 ^^^ (u0 >>> 15)
    u1 * cbM.getD j 0 % m
  let w (j : Nat) := u.getD j 0
  [w 1 ^^^ rotl 32 (w 3) 9, (w 2 + rotl 32 (w 0) 17) % m,
   w 3 ^^^ rotl 32 (w 0) 5, (w 0 + rotl 32 (w 2) 23) % m]

/-- CB-4x32 of R301: ten rounds, then the exclusive-or with the key. -/
def cb4x32 (k x : List Nat) : List Nat :=
  let y := (List.range 10).foldl (cbRound k) x
  (List.range 4).map fun j => y.getD j 0 ^^^ k.getD j 0

/-- The key words k0 to k3 of R299 from the 16 seed bytes. -/
def seedKey (seed : List Byte) : List Nat := (List.range 4).map fun j => leNat seed (4 * j) 4

/-- The step counter of R300. -/
def stepCounter (frameCounter p : Nat) : Nat := frameCounter * 1024 + p

/-- The r value of R302 for element `e` of step `k`, tile `t`. -/
def srValue (seed : List Byte) (step k t e : Nat) : Nat :=
  let y := cb4x32 (seedKey seed)
    [step % 2 ^ 32, step / 2 ^ 32 % 2 ^ 32, e >>> 3 % 2 ^ 32, (1 <<< 24 ||| k <<< 16 ||| t) % 2 ^ 32]
  let w := y.getD (e % 8 / 2) 0
  if e % 2 = 0 then w % 2 ^ 16 else w / 2 ^ 16

end Sys2Proof.Machine
end

