-- ==== Sys2Proof/Machine/Formats.lean ====
section
/-!
DEFINITION. Number formats and storage (R120, R124 to R131, R155, R156): element widths, values of codes, lines of a
tensor, its bytes in memory; and conversions to an output format (R143 to R149).
-/
namespace Sys2Proof
open Sys2Proof.Machine

/-! ## Formats (Tables 4.2, 4.3) -/

/-- The format of a 4-bit code; none for a code that is not listed (R124, Table 4.2). -/
def Fmt.ofCode : Nat → Option Fmt
  | 0x0 => some .int8
  | 0x1 => some .int4
  | 0x2 => some .e4m3
  | 0x3 => some .e5m2
  | 0x4 => some .mxE4m3
  | 0x5 => some .mxE5m2
  | 0x6 => some .mxE2m1
  | 0x8 => some .bf16
  | 0x9 => some .fp16
  | 0xA => some .fp32
  | _ => none

/-- The format of a code of a loaded reel, whose codes are all valid (R124). -/
def formatOf (code : Nat) : Fmt := (Fmt.ofCode code).getD .int8

/-- The formats of a step's operands and output. -/
def Step.aFmt (st : Step) : Fmt := formatOf st.aCode
def Step.bFmt (st : Step) : Fmt := formatOf st.bCode
def Finish.out (f : Finish) : Fmt := formatOf f.outCode

/-- Element bits. -/
def Fmt.bits : Fmt → Nat
  | .int4 | .mxE2m1 => 4
  | .bf16 | .fp16 => 16
  | .fp32 => 32
  | _ => 8

/-- Elements in a 32-byte line (R155). -/
def Fmt.lane (f : Fmt) : Nat := 256 / Fmt.bits f

def Fmt.isMx : Fmt → Bool
  | .mxE4m3 | .mxE5m2 | .mxE2m1 => true
  | _ => false

def Fmt.isInt : Fmt → Bool
  | .int8 | .int4 => true
  | _ => false

def Fmt.is16 : Fmt → Bool
  | .bf16 | .fp16 => true
  | _ => false

def Fmt.isFp8 : Fmt → Bool
  | .e4m3 | .e5m2 => true
  | _ => false

/-- The pair is one of Table 4.1. -/
def pairOk (a b : Fmt) : Bool :=
  (Fmt.isInt a && Fmt.isInt b) || (Fmt.isFp8 a && Fmt.isFp8 b) || (Fmt.isMx a && Fmt.isMx b) ||
  (Fmt.is16 a && a == b)

/-- The pair accumulates exactly (Table 4.1). -/
def pairExact (a b : Fmt) : Bool := pairOk a b && !Fmt.is16 a

/-- Products per cell per cycle, κ (Table 4.1). -/
def kappa (a b : Fmt) : Nat :=
  if Fmt.is16 a then 8 else if Fmt.bits a = 4 ∧ Fmt.bits b = 4 then 64 else 32

/-- The grid of a floating-point format's magnitudes (R144). -/
def Fmt.grid : Fmt → Grid
  | .e4m3 | .mxE4m3 => ⟨3, 4, -6⟩
  | .e5m2 | .mxE5m2 => ⟨2, 5, -14⟩
  | .mxE2m1 => ⟨1, 2, 0⟩
  | .bf16 => ⟨7, 8, -126⟩
  | .fp16 => ⟨10, 5, -14⟩
  | _ => gridF32

/-- The element value of a code, without its MX scale (R126 to R131). -/
def elemValue (f : Fmt) (code : Nat) : FNum :=
  match f with
  | .int8 => FNum.ofInt (toSigned 8 code)
  | .int4 => FNum.ofInt (toSigned 4 code)
  | .e4m3 | .mxE4m3 =>
    if code % 128 = 127 then .nan
    else
      let ex := code / 8 % 16
      let n := code / 128 % 2 == 1
      if ex = 0 then .fin n (code % 8) (-9) else .fin n (code % 8 + 8) (Int.ofNat ex - 10)
  | .mxE2m1 =>
    let ex := code / 2 % 4
    let n := code / 8 % 2 == 1
    if ex = 0 then .fin n (code % 2) (-1) else .fin n (code % 2 + 2) (Int.ofNat ex - 2)
  | _ => decodeIeee (Fmt.grid f) (code % 2 ^ Fmt.bits f)

/-- The value with its scale byte (R129, R149). -/
def scaledValue (f : Fmt) (code scale : Nat) : FNum :=
  if Fmt.isMx f then (if scale = 0xFF then .nan else (elemValue f code).scale2 (Int.ofNat scale - 127))
  else elemValue f code

/-! ## Tensors (R155, R156) -/

/-- Position of element (y, x, c). -/
def Tensor.at_ (t : Tensor) (y x c : Nat) : Nat := (y * t.w + x) * t.c + c

def Tensor.code (t : Tensor) (y x c : Nat) : Nat := t.codes.getD (t.at_ y x c) 0

/-- The scale byte of the block of 32 channels that holds (y, x, c). -/
def Tensor.scale (t : Tensor) (y x c : Nat) : Nat := t.scales.getD ((y * t.w + x) * ceilDiv t.c 32 + c / 32) 127

/-- The value of element (y, x, c), converted to FP32 exactly where it is used in the float path. -/
def Tensor.value (t : Tensor) (y x c : Nat) : FNum := scaledValue t.fmt (t.code y x c) (t.scale y x c)

/-- An element as FP32 (R191: an MX value beyond the range becomes an infinity). -/
def Tensor.f32At (t : Tensor) (y x c : Nat) : FNum := f32 (t.value y x c)

/-- Build a tensor of codes from a function of the position. -/
def Tensor.tabulate (h w c : Nat) (fmt : Fmt) (f : Nat → Nat → Nat → Nat) : Tensor :=
  { h := h, w := w, c := c, fmt := fmt, scales := [],
    codes := (List.range h).flatMap fun y => (List.range w).flatMap fun x => (List.range c).map fun k => f y x k }

/-- Codes of `bits` bits packed into bytes (R125): 4-bit elements two per byte, wider ones little-endian. -/
def packCodes (bits : Nat) (codes : List Nat) : List Byte :=
  if bits = 4 then
    (List.range (ceilDiv codes.length 2)).map fun i =>
      BitVec.ofNat 8 (codes.getD (2 * i) 0 % 16 + 16 * (codes.getD (2 * i + 1) 0 % 16))
  else codes.flatMap fun v => leBytes (bits / 8) v

/-- The codes that packed bytes hold. -/
def unpackCodes (bits : Nat) (bs : List Byte) : List Nat :=
  if bits = 4 then bs.flatMap fun b => [b.toNat % 16, b.toNat / 16]
  else (List.range (bs.length / (bits / 8))).map fun i => leNat bs (i * (bits / 8)) (bits / 8)

/-- Elements per line of an operand pair: the larger line of the two (R156). -/
def pairLine (a b : Fmt) : Nat := max (Fmt.lane a) (Fmt.lane b)

/-- Channel slices of a tensor whose channel count is padded to a multiple of `pad` (R155, R156). -/
def Tensor.slices (t : Tensor) (pad : Nat) : Nat := ceilDiv (roundUp t.c (max pad 1)) (Fmt.lane t.fmt)

/-- The lines of a tensor in the order of R155: channel slice, row, column; `gaps` are the pixels left out. -/
def Tensor.lineOrder (t : Tensor) (pad : Nat) (gaps : List (Nat × Nat)) : List (Nat × Nat × Nat) :=
  (List.range (t.slices pad)).flatMap fun sl => (List.range t.h).flatMap fun y => (List.range t.w).filterMap fun x =>
    if gaps.contains (y, x) then none else some (sl, y, x)

/-- The codes in line order, padding codes of +0 included. -/
def Tensor.lineCodes (t : Tensor) (pad : Nat) (gaps : List (Nat × Nat)) : List Nat :=
  let n := Fmt.lane t.fmt
  (t.lineOrder pad gaps).flatMap fun l =>
    (List.range n).map fun k => if l.1 * n + k < t.c then t.code l.2.1 l.2.2 (l.1 * n + k) else 0

/-- Ordinal of an element in the line order of R155 (R302). -/
def Tensor.ordinal (t : Tensor) (y x c : Nat) : Nat :=
  let n := Fmt.lane t.fmt
  ((c / n * t.h + y) * t.w + x) * n + c % n

/-- The scale bytes in the same order: one byte per 32 elements of a line. -/
def Tensor.scaleBytes (t : Tensor) (pad : Nat) (gaps : List (Nat × Nat)) : List Byte :=
  if Fmt.isMx t.fmt then
    let per := Fmt.lane t.fmt / 32
    (t.lineOrder pad gaps).flatMap fun l => (List.range per).map fun k =>
      BitVec.ofNat 8 (if (l.1 * per + k) * 32 < t.c then t.scale l.2.1 l.2.2 ((l.1 * per + k) * 32) else 0)
  else []

/-- The bytes of a tensor: elements in line order, then MX scales (R220). -/
def Tensor.bytes (t : Tensor) (pad : Nat) (gaps : List (Nat × Nat)) : List Byte :=
  packCodes (Fmt.bits t.fmt) (t.lineCodes pad gaps) ++ t.scaleBytes pad gaps

/-- Bytes of the elements and of the scales of a stored tensor of the given extents (R125, R155, R156). -/
def elementBytes (h w c : Nat) (fmt : Fmt) (pad : Nat) : Nat := h * w * (⟨h, w, c, fmt, [], []⟩ : Tensor).slices pad * 32
def scaleCount (h w c : Nat) (fmt : Fmt) (pad : Nat) : Nat :=
  if Fmt.isMx fmt then h * w * (⟨h, w, c, fmt, [], []⟩ : Tensor).slices pad * (Fmt.lane fmt / 32) else 0

/-- A tensor from its bytes in line order and its scale bytes, as a dolly brings it into a bench (R125, R155). -/
def Tensor.ofBytes (h w c : Nat) (fmt : Fmt) (elems scales : List Byte) : Tensor :=
  let codes := unpackCodes (Fmt.bits fmt) elems
  let frame : Tensor := ⟨h, w, c, fmt, [], []⟩
  let per := Fmt.lane fmt / 32
  let sc (y x b : Nat) : Nat :=
    let sl := b / max 1 per
    (byteAt scales (((sl * h + y) * w + x) * per + b % max 1 per)).toNat
  { Tensor.tabulate h w c fmt fun y x k => codes.getD (frame.ordinal y x k) 0 with
    scales := if Fmt.isMx fmt then
        (List.range h).flatMap fun y => (List.range w).flatMap fun x =>
          (List.range (ceilDiv c 32)).map fun b => sc y x b
      else [] }

/-! ## Views: a tensor as the framing unit reads it (R172) -/

/-- Extents and format of a tensor, and the code and scale byte it gives at (y, x, c). -/
structure View where
  h : Nat
  w : Nat
  c : Nat
  fmt : Fmt
  at_ : Nat → Nat → Nat → Nat × Nat

/-- A tensor read as elements of a format. -/
def Tensor.view (t : Tensor) (fmt : Fmt) : View := ⟨t.h, t.w, t.c, fmt, fun y x c => (t.code y x c, t.scale y x c)⟩

def View.code (v : View) (y x c : Nat) : Nat := (v.at_ y x c).1
def View.value (v : View) (y x c : Nat) : FNum := scaledValue v.fmt (v.at_ y x c).1 (v.at_ y x c).2
def View.f32At (v : View) (y x c : Nat) : FNum := f32 (v.value y x c)

/-- Space-to-depth of R171 on the read addresses: an element keeps its code and its scale (R172). -/
def View.spaceToDepth (v : View) (b : Nat) : View :=
  if b ≤ 1 then v
  else
    { h := v.h / b, w := v.w / b, c := b * b * v.c, fmt := v.fmt,
      at_ := fun y x k => v.at_ (b * y + k / max 1 v.c / b) (b * x + k / max 1 v.c % b) (k % max 1 v.c) }

/-! ## Conversions (R143 to R149) -/

/-- What a conversion met, for the counts of R150 and R195: a NaN input; an overflow, an infinity or a clamp; a non-zero value
turned into zero. One conversion of the integer path can meet two of them. -/
structure ConvKind where
  isNan : Bool
  isOver : Bool
  isUnder : Bool
  deriving DecidableEq, Repr

def ConvKind.plain : ConvKind := ⟨false, false, false⟩
def ConvKind.metNan : ConvKind := ⟨true, false, false⟩
def ConvKind.metOver : ConvKind := ⟨false, true, false⟩
def ConvKind.metUnder : ConvKind := ⟨false, false, true⟩

/-- How a conversion rounds: to nearest even, or with a 16-bit random value (R147). -/
abbrev Rounding := Option Nat

/-- The quotient with a remainder rounded under R144 or R147. -/
def roundBy (m : Rounding) (q r sh : Nat) : Nat :=
  match m with
  | none => roundEven q r sh
  | some v => if 65536 ≤ r * 65536 / 2 ^ sh + v then q + 1 else q

/-- Round a finite magnitude on a floating-point grid with no upper bound. -/
def roundOn (g : Grid) (m : Rounding) (mant : Nat) (e : Int) : Nat × Int :=
  if mant = 0 then (0, 0)
  else
    let (q, ue, r, sh) := gridCut g mant e
    (roundBy m q r sh, ue)

/-- Round a finite magnitude to an integer. -/
def roundWhole (m : Rounding) (mant : Nat) (e : Int) : Nat :=
  if 0 ≤ e then mant <<< e.toNat else roundBy m (mant >>> (-e).toNat) (mant % 2 ^ (-e).toNat) (-e).toNat

/-- The largest finite magnitude of a format is exceeded. -/
def Fmt.over (f : Fmt) (m : Nat) (e : Int) : Bool :=
  match f with
  | .e4m3 | .mxE4m3 => FNum.lt (.fin false 7 6) (.fin false m e)
  | .mxE2m1 => FNum.lt (.fin false 6 0) (.fin false m e)
  | _ => (Fmt.grid f).over m e

/-- Code of the largest finite magnitude. -/
def Fmt.top : Fmt → Nat
  | .e4m3 | .mxE4m3 => 0x7E
  | .e5m2 | .mxE5m2 => 0x7B
  | .mxE2m1 => 0x7
  | .bf16 => 0x7F7F
  | .fp16 => 0x7BFF
  | _ => 0x7F7F_FFFF

/-- The NaN that Balim writes (Table 4.3, Table 4.5). -/
def Fmt.nanCode : Fmt → Nat
  | .e4m3 | .mxE4m3 => 0x7F
  | .e5m2 | .mxE5m2 => 0x7E
  | .bf16 => 0x7FC0
  | .fp16 => 0x7E00
  | .fp32 => 0x7FC0_0000
  | _ => 0

/-- The sign bit of a floating-point code. -/
def signBit (f : Fmt) (neg : Bool) : Nat := bitN neg <<< (Fmt.bits f - 1)

/-- Overflow or infinity under Table 4.5. -/
def overflowCode (f : Fmt) (saturate neg : Bool) : Nat :=
  match f with
  | .int8 => if neg then 0x80 else 0x7F
  | .int4 => if neg then 0x8 else 0x7
  | .mxE2m1 => signBit f neg ||| 7
  | .e4m3 | .mxE4m3 => if saturate then signBit f neg ||| 0x7E else 0x7F
  | _ => if saturate then signBit f neg ||| Fmt.top f else encodeIeee (Fmt.grid f) (.inf neg)

/-- One conversion to a format (R144 to R147), with what it met. -/
def convert (f : Fmt) (m : Rounding) (saturate : Bool) : FNum → Nat × ConvKind
  | .nan => (Fmt.nanCode f, .metNan)
  | .inf n => (overflowCode f saturate n, .metOver)
  | .fin n mant e =>
    if Fmt.isInt f then
      let b := Fmt.bits f
      let q := roundWhole m mant e
      let top := if n then 2 ^ (b - 1) else 2 ^ (b - 1) - 1
      if top < q then (overflowCode f saturate n, .metOver)
      else (ofSigned b (if n then -Int.ofNat q else Int.ofNat q), if q = 0 ∧ mant ≠ 0 then .metUnder else .plain)
    else
      let (q, ue) := roundOn (Fmt.grid f) m mant e
      if Fmt.over f q ue then (overflowCode f saturate n, .metOver)
      else (encodeIeee (Fmt.grid f) (.fin n q ue), if q = 0 ∧ mant ≠ 0 then .metUnder else .plain)

/-- emax_elem of R148. -/
def Fmt.mxEmax : Fmt → Int
  | .mxE4m3 => 8
  | .mxE5m2 => 15
  | _ => 2

/-- The larger magnitude of two finite values. -/
def larger (a b : FNum) : FNum := if FNum.lt a.abs b.abs then b.abs else a.abs

/-- An MX block (R148): the scale byte, the codes, and what each conversion met. `r i` is the rounding of element
`i`. In a block that step 1 makes NaN only the NaN and infinite values are counted (DESIGN CHOICE, log 78). -/
def convertMx (f : Fmt) (r : Nat → Rounding) (vs : List FNum) : Nat × List (Nat × ConvKind) :=
  if vs.any fun v => !v.isFin then
    (0xFF, vs.map fun v => (0, if v.isNan then .metNan else if v.isInf then .metOver else .plain))
  else
    match vs.foldl larger FNum.zero with
    | .fin _ 0 _ => (0, vs.map fun _ => (0, .plain))
    | .fin _ m e =>
      let k := clampInt (Int.ofNat (log2Nat m) + e - Fmt.mxEmax f) (-127) 127
      ((k + 127).toNat, (vs.zip (List.range vs.length)).map fun p => convert f (r p.2) true (p.1.scale2 (-k)))
    | _ => (0, [])

/-- The three counts of R150: NaN inputs, overflows, underflows. -/
abbrev Counts := Nat × Nat × Nat

def Counts.add (a b : Counts) : Counts := (a.1 + b.1, a.2.1 + b.2.1, a.2.2 + b.2.2)

/-- The counts of a list of conversions, each saturating at 2^32 − 1 (R195). -/
def countKinds (ks : List ConvKind) : Counts :=
  let n (p : ConvKind → Bool) : Nat := min (ks.filter p).length (2 ^ 32 - 1)
  (n ConvKind.isNan, n ConvKind.isOver, n ConvKind.isUnder)

/-- Where the random values of a step's conversions come from (R302); none for round to nearest. -/
structure Randomness where
  seed : List Byte
  counter : Nat
  step : Nat
  tile : Nat
  deriving DecidableEq, Repr

/-- The rounding of element ordinal `e`. -/
def Randomness.at_ (r : Option Randomness) (e : Nat) : Rounding :=
  r.map fun x => srValue x.seed x.counter x.step x.tile e

/-- One MX block of elements, some of them discarded (R213): those take part as +0, have code +0 and are not counted. -/
def convertBlock (f : Fmt) (r : Nat → Rounding) (vs : List (Option FNum)) : Nat × List (Nat × ConvKind) :=
  let out := convertMx f r (vs.map fun v => v.getD FNum.zero)
  (out.1, (vs.zip out.2).map fun p => if p.1.isSome then p.2 else (0, ConvKind.plain))

/-- Convert a computed plane to an output tensor, one conversion per element (R143 to R149). A position without a value is
discarded: its codes are +0 and it is not counted (R213). -/
def convertPlane (h w c : Nat) (f : Fmt) (rnd : Option Randomness) (saturate : Bool) (v : Nat → Nat → Nat → Option FNum) :
    Tensor × Counts :=
  let frame : Tensor := ⟨h, w, c, f, [], []⟩
  let pixels := (List.range h).flatMap fun y => (List.range w).map fun x => (y, x)
  if Fmt.isMx f then
    let blocks := pixels.flatMap fun p => (List.range (ceilDiv c 32)).map fun b =>
      -- the padding channels of the last block are +0 and consume no r (R125, R302)
      let real := min 32 (c - 32 * b)
      let vs := (List.range real).map fun i => v p.1 p.2 (32 * b + i)
      if vs.all Option.isNone then (0, List.replicate real (0, ConvKind.plain))
      else convertBlock f (fun i => Randomness.at_ rnd (frame.ordinal p.1 p.2 (32 * b + i))) vs
    ({ frame with codes := blocks.flatMap fun b => b.2.map (·.1), scales := blocks.map (·.1) },
     countKinds (blocks.flatMap fun b => b.2.map (·.2)))
  else
    let out := pixels.flatMap fun p => (List.range c).map fun k =>
      match v p.1 p.2 k with
      | some x => convert f (Randomness.at_ rnd (frame.ordinal p.1 p.2 k)) saturate x
      | none => (0, ConvKind.plain)
    ({ frame with codes := out.map (·.1) }, countKinds (out.map (·.2)))

end Sys2Proof
end

