-- ==== Sys2Proof/Machine/Accum.lean ====
section
/-!
DEFINITION. The cell (R132 to R142, R151, R152): the exact accumulator, its 16-byte layout, the FP32 tree of 16-bit
work, residues, and the joins of split reductions (R287 to R291).
-/
namespace Sys2Proof.Machine

/-- An accumulator state (R132): A in units of 2^-32 and three status bits. -/
structure Acc where
  a : Int
  nan : Bool
  pos : Bool
  neg : Bool
  deriving DecidableEq, Repr

/-- A new reduction: A = 0, all status bits clear. -/
def Acc.zero : Acc := ⟨0, false, false, false⟩

/-- Table 4.4: the 128-bit stored state. -/
def Acc.store (s : Acc) : Nat :=
  ofSigned 96 s.a + 2 ^ 96 * bitN s.nan + 2 ^ 97 * bitN s.pos + 2 ^ 98 * bitN s.neg

/-- The state a stored 128-bit value holds. -/
def Acc.load (v : Nat) : Acc := ⟨toSigned 96 v, bitOf v 96, bitOf v 97, bitOf v 98⟩

/-- The extended real of a state (R143). -/
def Acc.value (s : Acc) : FNum :=
  if s.nan || (s.pos && s.neg) then .nan
  else if s.pos then .inf false
  else if s.neg then .inf true
  else .fin (decide (s.a < 0)) s.a.natAbs (-32)

/-- Two states combine (R138): 96-bit sum, status bits ORed. -/
def Acc.join (x y : Acc) : Acc :=
  ⟨toSigned 96 (ofSigned 96 (x.a + y.a)), x.nan || y.nan, x.pos || y.pos, x.neg || y.neg⟩

/-- A group of products (R134): one pair of values per unmasked element, each value with the scale of its own MX block (R129),
so that a group over one block of each operand has the sum D × 2^(Ea + Eb − 254). Where blocks of the two operands do not line
up in a group, every element keeps its scale (DESIGN CHOICE, log 79). -/
abbrev Group := List (FNum × FNum)

/-- Set pos_inf or neg_inf. -/
def Acc.mark (s : Acc) (neg : Bool) : Acc := if neg then { s with neg := true } else { s with pos := true }

/-- An infinite operand makes the product infinite or, with a zero, NaN. -/
def pairNan (p : FNum × FNum) : Bool := (p.1.mul p.2).isNan

def pairInf (p : FNum × FNum) : Bool := (p.1.mul p.2).isInf

/-- The integer that step 4 of R135 adds: T / 2^-32 rounded to even. -/
def termInt (t : FNum) : Int := (t.scale2 32).roundInt

/-- The term of a group: the exact sum of its products. -/
def Group.term (g : Group) : FNum := g.foldl (fun d p => d.add (p.1.mul p.2)) FNum.zero

/-- What a group adds to A: the integer of step 4 of R135, none where steps 1 to 3 add nothing. -/
def Group.added (g : Group) : Option Int :=
  if g.any pairNan || g.any pairInf then none
  else
    let t := g.term
    if FNum.le (.fin false 1 40) t.abs then none else some (termInt t)

/-- One term enters the accumulator (R135). A group of masked elements only adds none (R162). -/
def Acc.add (s : Acc) (g : Group) : Acc :=
  if g.isEmpty then s
  else if g.any pairNan then { s with nan := true }
  else if g.any pairInf then (g.filter pairInf).foldl (fun s p => s.mark (p.1.mul p.2).isNeg) s
  else match Group.added g with
    | some n => { s with a := s.a + n }
    | none => s.mark (Group.term g).isNeg

/-! ## Residues (R151, R152) -/

/-- The residue modulo 7 of a signed integer, 0 to 6. -/
def residue7 (x : Int) : Nat := (x % 7).toNat

/-- 2^n mod 7. -/
def pow2mod7 (n : Int) : Nat := match n % 3 with
  | 0 => 1
  | 1 => 2
  | _ => 4

/-- The residue of a value's significand, with its sign. -/
def sigResidue : FNum → Nat
  | .fin n m _ => residue7 (if n then -Int.ofNat m else Int.ofNat m)
  | _ => 0

def sigExp : FNum → Int
  | .fin _ _ e => e
  | _ => 0

/-- The residue of a group's term from the operand codes alone (R151). -/
def groupResidue (g : Group) : Nat :=
  (g.map fun p => sigResidue p.1 * sigResidue p.2 * pow2mod7 (sigExp p.1 + sigExp p.2 + 32)).sum % 7

/-- Step 4 of R135 rounds the term, so that the cell checks the rounded integer against itself (R153). -/
def termRounds (t : FNum) : Bool :=
  match t with
  | .fin _ m e => decide (e < -32) && decide (m % 2 ^ (-32 - e).toNat ≠ 0)
  | _ => false

/-- A cell in a reduction: its accumulator, its running residue (R152), and whether every residue compared so far agreed. -/
structure CellRun where
  acc : Acc
  residue : Nat
  agrees : Bool
  deriving DecidableEq, Repr

/-- A new reduction: the running residue starts at that of the initial A (R152). -/
def CellRun.start (s : Acc) : CellRun := ⟨s, residue7 s.a, true⟩

/-- One group: its term enters the accumulator; the residue unit's value is compared with that of the integer added (R151)
and enters the running residue. A term that is not added has no residue, and one that is rounded counts with the residue of
the rounded integer (R153). -/
def CellRun.step (c : CellRun) (g : Group) : CellRun :=
  match (if g.isEmpty then none else Group.added g) with
  | none => { c with acc := c.acc.add g }
  | some n =>
    let r := if termRounds (Group.term g) then residue7 n else groupResidue g
    ⟨c.acc.add g, (c.residue + r) % 7, c.agrees && r == residue7 n⟩

/-- The move to the drain register compares the running residue with A mod 7 (R152). -/
def CellRun.drains (c : CellRun) : Bool := c.agrees && c.residue == residue7 c.acc.a

/-- A whole reduction of a cell (R135, R151, R152). -/
def CellRun.run (s : Acc) (gs : List Group) : CellRun := gs.foldl CellRun.step (CellRun.start s)

/-! ## The FP32 path (R139, R140) -/

/-- A sum in which a masked element is absent (R162). -/
def optAdd : Option FNum → Option FNum → Option FNum
  | none, y => y
  | x, none => x
  | some x, some y => some (fadd x y)

/-- One cycle of eight products, `none` where masked: the fixed tree. -/
def tree8 (ps : List (Option (FNum × FNum))) : Option FNum :=
  let p (i : Nat) : Option FNum := (ps.getD i none).map fun q => fmul q.1 q.2
  optAdd (optAdd (optAdd (p 0) (p 1)) (optAdd (p 2) (p 3))) (optAdd (optAdd (p 4) (p 5)) (optAdd (p 6) (p 7)))

/-- The FP32 reduction of a feed from `acc`. -/
def accumulate16 (acc : FNum) (feed : List (Option (FNum × FNum))) : FNum :=
  (chunks 8 feed).foldl (fun a ps => match tree8 ps with
    | none => a
    | some s => fadd a s) acc

/-! ## A reduction: its feed, its parts, its join -/

/-- The groups of a feed (R134): 32 elements for an MX pair, the products of one cycle otherwise; masked elements form no
product. -/
def groupsOf (mx : Bool) (k : Nat) (feed : List (Option (FNum × FNum))) : List Group :=
  (chunks (if mx then 32 else k) feed).map fun ch => ch.filterMap id

/-- What a unit's reduction gives: an accumulator state, or an FP32 value of the 16-bit path. -/
inductive Reduced where
  | exact (s : Acc)
  | float (x : FNum)
  deriving DecidableEq, Repr

/-- The state that a 16-byte value of Table 4.4 holds. -/
def Reduced.load (sixteen : Bool) (v : Nat) : Reduced := if sixteen then .float (f32c (v % 2 ^ 32)) else .exact (Acc.load v)

/-- The value that enters stage 2 (R143, R190). -/
def Reduced.value : Reduced → FNum
  | .exact s => s.value
  | .float x => x

/-- The stored form of a state that crosses or is spilled (Tables 4.4, 9.2). -/
def Reduced.store : Reduced → Nat
  | .exact s => s.store
  | .float x => encodeIeee gridF32 x

/-- FP32 sum from left to right (R288, R289). -/
def leftSum : List FNum → FNum
  | [] => FNum.zero
  | x :: xs => xs.foldl fadd x

/-- The pairwise tree of R291; `fuel` covers the levels. -/
def pairTree : Nat → List FNum → FNum
  | _, [] => FNum.zero
  | _, [x] => x
  | 0, x :: _ => x
  | fuel + 1, xs => pairTree fuel ((chunks 2 xs).map leftSum)

/-- The joined state of R288 from its FP32 sum. -/
def joinedState (v : FNum) : Acc :=
  match v with
  | .nan => ⟨0, true, false, false⟩
  | .inf n => Acc.zero.mark n
  | x => { Acc.zero with a := termInt x }

/-- Join parts that crossed (R288 to R291); `init` is the state the reel names for a canonical 16-bit reduction. -/
def joinParts (canonical : Bool) (init : Option FNum) (parts : List Reduced) : Reduced :=
  match parts with
  | [] => .exact Acc.zero
  | [p] => match p, canonical, init with
    | .float v, true, some s => .float (fadd s v)
    | _, _, _ => p
  | .exact s :: rest =>
    if canonical then .exact (rest.foldl (fun x r => match r with
      | .exact y => x.join y
      | .float _ => x) s)
    else .exact (joinedState (leftSum ((Reduced.exact s :: rest).map fun r => f32 r.value)))
  | .float x :: rest =>
    if canonical then
      let v := pairTree 7 (x :: rest.map Reduced.value)
      .float (match init with
        | some s => fadd s v
        | none => v)
    else .float (leftSum (x :: rest.map Reduced.value))

/-- The join of values of Table 9.2. -/
def joinCrossed (canonical sixteen : Bool) (init : Option FNum) (vs : List Nat) : Reduced :=
  if canonical || sixteen then joinParts canonical init (vs.map (Reduced.load sixteen))
  else .exact (joinedState (leftSum (vs.map f32c)))

/-- Elements of one of `q` parts of a reduction of `n` elements (R287, R291, R526): equal whole numbers of feed
vectors. -/
def partLen (n q k : Nat) : Nat := ceilDiv (ceilDiv n k) (max 1 q) * k

/-- The state that part `i` of a reduction starts from (R132, R140, R291): the stored state of the reel in part 0, zero in the
others; a canonical 16-bit reduction adds the stored state at its join. -/
def partStart (canonical sixteen : Bool) (i : Nat) (init : Option Nat) : Reduced :=
  match init with
  | some v => if i = 0 && !(canonical && sixteen) then Reduced.load sixteen v else Reduced.load sixteen 0
  | none => Reduced.load sixteen 0

/-- One part: the cell's reduction of its elements, as the drain register passes it on (Table 4.4). -/
def reducePart (mx : Bool) (k : Nat) (start : Reduced) (feed : List (Option (FNum × FNum))) : Reduced :=
  match start with
  | .float x => .float (accumulate16 x feed)
  | .exact s => .exact (CellRun.run s (groupsOf mx k feed)).acc

/-- The cell's check of one product of 16-bit work (R139, R153): the residue of the product's significand against the product of the
residues of the significands. A product with an infinite or NaN operand has no significand. -/
def productAgrees (p : FNum × FNum) : Bool :=
  match p.1.mul p.2 with
  | .fin _ _ _ => sigResidue (p.1.mul p.2) == sigResidue p.1 * sigResidue p.2 % 7
  | _ => true

/-- Every residue that the cell compares in one part agrees (R151 to R153). -/
def partAgrees (mx : Bool) (k : Nat) (start : Reduced) (feed : List (Option (FNum × FNum))) : Bool :=
  match start with
  | .float _ => feed.all fun o => o.all productAgrees
  | .exact s => (CellRun.run s (groupsOf mx k feed)).drains

/-- The running residue at the end of one part (R152); 16-bit work has none. -/
def partResidue (mx : Bool) (k : Nat) (start : Reduced) (feed : List (Option (FNum × FNum))) : Nat :=
  match start with
  | .float _ => 0
  | .exact s => (CellRun.run s (groupsOf mx k feed)).residue

/-- The elements of part `i` of `q` of a reduction (R287). -/
def partFeed (k q i : Nat) (feed : List (Option (FNum × FNum))) : List (Option (FNum × FNum)) :=
  (feed.drop (i * partLen feed.length q k)).take (partLen feed.length q k)

/-- The parts of a reduction over `q` ranges of its feed (R287, R526). -/
def reduceParts (canonical mx sixteen : Bool) (k q : Nat) (init : Option Nat) (feed : List (Option (FNum × FNum))) :
    List Reduced :=
  (List.range (max 1 q)).map fun i => reducePart mx k (partStart canonical sixteen i init) (partFeed k q i feed)

/-- A partial state as it crosses (Table 9.2): 16 bytes of Table 4.4 for an exact state under CANONICAL, else FP32. -/
def Reduced.crossing (canonical : Bool) : Reduced → Nat
  | .exact s => if canonical then s.store else encodeIeee gridF32 (f32 s.value)
  | .float x => encodeIeee gridF32 x

/-- The join of parts that crossed (R288 to R291), from what Table 9.2 carries; a single part does not cross. -/
def joinStates (canonical sixteen : Bool) (init : Option Nat) (parts : List Reduced) : Reduced :=
  let s0 := if sixteen then init.map fun v => f32c (v % 2 ^ 32) else none
  match parts with
  | [p] => joinParts canonical s0 [p]
  | ps => joinCrossed canonical sixteen s0 (ps.map (Reduced.crossing canonical))

end Sys2Proof.Machine
end

