-- ==== Sys2Proof/Machine/Windows.lean ====
section
/-!
DEFINITION. The framing unit (R160 to R186): output sizes, padding, the feed of one output element of a matrix product,
convolution or warped window, pooling and resampling.
-/
namespace Sys2Proof.Machine

/-! ## Shapes and padding -/

/-- An output extent of R165, none when the numerator is negative. -/
def outExtent (n p0 p1 d k s : Nat) : Option Nat :=
  if d * (k - 1) + 1 ≤ n + p0 + p1 then some ((n + p0 + p1 - d * (k - 1) - 1) / max 1 s + 1) else none

def outH (w : Window) (h : Nat) : Nat := (outExtent h w.pt w.pb w.dy w.kh w.sy).getD 0
def outW (w : Window) (n : Nat) : Nat := (outExtent n w.pl w.pr w.dx w.kw w.sx).getD 0

/-- MIRROR of R167. -/
def mirror (n : Nat) (i : Int) : Nat :=
  if n ≤ 1 then 0
  else
    let period := 2 * (n - 1)
    let j := (i % Int.ofNat period).toNat
    if j < n then j else period - j

/-- A coordinate clamped into 0 … n − 1. -/
def clampCoord (n : Nat) (i : Int) : Nat := (clampInt i 0 (Int.ofNat (n - 1))).toNat

def insideAxis (n : Nat) (i : Int) : Bool := decide (0 ≤ i) && decide (i < Int.ofNat n)

/-- The element code and scale a tap reads (R164, R166); none where it is masked. -/
def tapCode (pad : PadMode) (v : View) (iy ix : Int) (c : Nat) : Option (Nat × Nat) :=
  if insideAxis v.h iy && insideAxis v.w ix then some (v.at_ iy.toNat ix.toNat c)
  else match pad with
    | .zero => none
    | .constant codes => some (codes.getD c 0, 127)
    | .edge => some (v.at_ (clampCoord v.h iy) (clampCoord v.w ix) c)
    | .mirror => some (v.at_ (mirror v.h iy) (mirror v.w ix) c)

/-! ## Interpolated samples (R106, R178) -/

/-- Exact weighted sum. -/
def weighted (cs : List (Int × FNum)) : FNum :=
  cs.foldl (fun s c => s.add ((FNum.ofInt c.1).mul c.2)) FNum.zero

/-- The NaN and infinity rules of R178 over the elements that are read; none when all are finite. -/
def specialSample (f : Fmt) (vs : List FNum) : Option (Nat × ConvKind) :=
  let up := vs.any fun v => v == .inf false
  let down := vs.any fun v => v == .inf true
  if vs.any FNum.isNan || (up && down) then some (Fmt.nanCode f, .metNan)
  else if up then some (if f = .e4m3 then 0x7E else encodeIeee (Fmt.grid f) (.inf false), .metOver)
  else if down then some (if f = .e4m3 then 0xFE else encodeIeee (Fmt.grid f) (.inf true), .metOver)
  else none

/-- One sample from weighted elements whose weights sum to 2^`sh`: integers round by adding half and shifting
(R178, R185, R186), floating-point formats convert once. -/
def sampleOf (f : Fmt) (sh : Nat) (cs : List (Int × FNum)) : Nat × ConvKind :=
  if Fmt.isInt f then
    let s := (weighted cs).roundInt
    let v := Int.fdiv (s + Int.ofNat (2 ^ (sh - 1))) (Int.ofNat (2 ^ sh))
    let b := Fmt.bits f
    (ofSigned b (clampInt v (-Int.ofNat (2 ^ (b - 1))) (Int.ofNat (2 ^ (b - 1)) - 1)), .plain)
  else
    match specialSample f (cs.map (·.2)) with
    | some r => r
    | none => convert f none true ((weighted cs).scale2 (-Int.ofNat sh))

/-- The four corners of a position in 1/16 px with their weights, those of weight 0 left out: (weight, y, x). R177 reads no corner
of weight 0. R106 writes four products and calls the sample at scale 1.0 an exact copy, which a product of 0 and an infinity or
a NaN would spoil; a corner of weight 0 has no effect there either (DESIGN CHOICE, log 81). -/
def corners (zx zy : Int) : List (Nat × Int × Int) :=
  let x0 := Int.fdiv zx 16
  let y0 := Int.fdiv zy 16
  let fx := (zx - 16 * x0).toNat
  let fy := (zy - 16 * y0).toNat
  [((16 - fx) * (16 - fy), y0, x0), (fx * (16 - fy), y0, x0 + 1), ((16 - fx) * fy, y0 + 1, x0),
    (fx * fy, y0 + 1, x0 + 1)].filter fun c => c.1 ≠ 0

/-- The interpolated element of a warped window (R177, R178): a corner outside under ZERO is the value 0. -/
def warpSample (pad : PadMode) (v : View) (zx zy : Int) (c : Nat) : Nat :=
  (sampleOf v.fmt 8 ((corners zx zy).map fun k =>
    (Int.ofNat k.1, match tapCode pad v k.2.1 k.2.2 c with
      | some e => elemValue v.fmt e.1
      | none => FNum.zero))).1

/-- The map of R106 for one axis: output position to input position in 1/16 px. -/
def mapPos (o inN outN : Nat) : Int := Int.ofNat ((2 * o + 1) * inN * 8 / max 1 outN) - 8

/-! ## Offsets (R176) -/

/-- The phase factor of a motion source: p, 840 − p or 840. -/
def scaleFactor (choice p : Nat) : Int :=
  if choice = 0 then Int.ofNat p else if choice = 1 then 840 - Int.ofNat p else 840

/-- A component of an offset from a motion record. -/
def motionOffset (choice t p : Nat) (v : Int) : Int :=
  clampInt (divRound (divRound (v * scaleFactor choice p) 840) (2 ^ t)) (-32768) 32767

/-- A component of an offset tensor: times 16, to an integer with ties to even; NaN is 0. -/
def tensorOffset (v : FNum) : Int :=
  match v with
  | .nan => 0
  | .inf n => if n then -32768 else 32767
  | x => clampInt (x.scale2 4).roundInt (-32768) 32767

/-- The offset (x, y) of a tap and channel at output position (oy, ox), whose undisplaced input position is (iy, ix). Every tap and
group of a motion source takes the record at the render pixel of that input position, which is (2^t · iy, 2^t · ix) of the
region's records (DESIGN CHOICE, log 80). -/
def offsetOf (src : OffsetSource) (gran : Granularity) (p : Nat) (off : Tensor) (ci oy ox iy ix tap c : Nat) : Int × Int :=
  match src with
  | .motion _ choice t =>
    let y := min (iy * 2 ^ t) (off.h - 1)
    let x := min (ix * 2 ^ t) (off.w - 1)
    let comp (k : Nat) := motionOffset choice t p (toSigned 16 (off.code y x k))
    (comp 0, comp 1)
  | .tensor =>
    let i := match gran with
      | .shared => 0
      | .perTap => tap
      | .perTapGroup g => tap * g + c / max 1 (ci / max 1 g)
    (tensorOffset (off.value oy ox (2 * i)), tensorOffset (off.value oy ox (2 * i + 1)))

/-! ## Feeds -/

/-- Channels that one feed line of a grouped reduction counts: 16 for a 16-bit pair, 64 for a 4-bit pair, else 32 (R168), also where a
4-bit input meets 8-bit weights (DESIGN CHOICE, log 113). -/
def groupLine (a b : Fmt) : Nat := if Fmt.is16 a then 16 else kappa a b

/-- The line of a reduction with `groups` groups (R156, R168). -/
def feedLine (a b : Fmt) (groups : Nat) : Nat := if groups ≤ 1 then pairLine a b else groupLine a b

/-- The input channels that the reduction of the unit of output channel `co` runs over, as whole lines (R168):
first channel and end. -/
def unitChannels (ci co groups line outC : Nat) : Nat × Nat :=
  let cig := ci / max 1 groups
  let cog := max 1 (co / max 1 groups)
  let j := outC / 32
  let first := j * 32 / cog * cig
  let last := (min (j * 32 + 31) (co - 1) / cog + 1) * cig
  (first / line * line, roundUp last line)

/-- Padded reduction length of the unit (kr of R163 and R168). -/
def unitLength (ci co groups line taps outC : Nat) : Nat :=
  let r := unitChannels ci co groups line outC
  taps * (r.2 - r.1)

/-- The feed of one output element: ascending ky, kx, c (R164). `sample ky kx c` is the activation's code and scale, or
none where it is masked. -/
def feedOf (line groups ci co kh kw outC : Nat) (afmt : Fmt) (wt : View) (sample : Nat → Nat → Nat → Option (Nat × Nat)) :
    List (Option (FNum × FNum)) :=
  let r := unitChannels ci co groups line outC
  let cig := ci / max 1 groups
  let g := outC / max 1 (co / max 1 groups)
  (List.range kh).flatMap fun ky => (List.range kw).flatMap fun kx =>
    (List.range (r.2 - r.1)).map fun i =>
      let c := r.1 + i
      if c < ci ∧ g * cig ≤ c ∧ c < (g + 1) * cig then
        (sample ky kx c).map fun e => (scaledValue afmt e.1 e.2, wt.value outC (ky * kw + kx) (c - g * cig))
      else none

/-- The feed of a convolution output. -/
def convFeed (w : Window) (groups : Nat) (pad : PadMode) (wt x : View) (oy ox outC : Nat) : List (Option (FNum × FNum)) :=
  feedOf (feedLine x.fmt wt.fmt groups) groups x.c wt.h w.kh w.kw outC x.fmt wt fun ky kx c =>
    tapCode pad x (Int.ofNat (oy * w.sy + ky * w.dy) - Int.ofNat w.pt) (Int.ofNat (ox * w.sx + kx * w.dx) - Int.ofNat w.pl)
      c

/-- The feed of a warped window output: samples at moved positions, never masked by padding (R177, R178). The gather port writes
its interpolated lines into banks of the take, which the manual does not name; here they pass to the cells without bytes in a bench (DESIGN
CHOICE, log 143). -/
def warpFeed (w : Window) (groups : Nat) (pad : PadMode) (wt x : View) (off : Tensor) (gran : Granularity) (src : OffsetSource)
    (p oy ox outC : Nat) : List (Option (FNum × FNum)) :=
  feedOf (feedLine x.fmt wt.fmt groups) groups x.c wt.h w.kh w.kw outC x.fmt wt fun ky kx c =>
    let o := offsetOf src gran p off x.c oy ox (oy * w.sy) (ox * w.sx) (ky * w.kw + kx) c
    some (warpSample pad x
      (16 * (Int.ofNat (ox * w.sx + kx * w.dx) - Int.ofNat w.pl) + o.1)
      (16 * (Int.ofNat (oy * w.sy + ky * w.dy) - Int.ofNat w.pt) + o.2) c, 127)

/-- The row (y, x) of a matrix product's A against a column of B, in ascending k (R160); K padding is masked (R156). -/
def productFeed (a : View) (line y x : Nat) (b : Nat → FNum) : List (Option (FNum × FNum)) :=
  (List.range (roundUp a.c line)).map fun k => if k < a.c then some (a.value y x k, b k) else none

/-! ## Pooling (R180 to R182) -/

/-- The input elements of a window, padded taps left out: their codes. -/
def poolCodes (w : Window) (x : View) (oy ox c : Nat) : List Nat :=
  (List.range w.kh).flatMap fun ky => (List.range w.kw).filterMap fun kx =>
    (tapCode .zero x (Int.ofNat (oy * w.sy + ky) - Int.ofNat w.pt) (Int.ofNat (ox * w.sx + kx) - Int.ofNat w.pl) c).map
      (·.1)

/-- Max pooling: the largest element's code, +0 above −0, NaN when any is NaN (R181). -/
def poolMax (f : Fmt) (codes : List Nat) : Nat :=
  if codes.any fun k => (elemValue f k).isNan then Fmt.nanCode f
  else
    match codes with
    | [] => 0
    | k :: ks => ks.foldl (fun best k =>
        let a := elemValue f best
        let b := elemValue f k
        if FNum.lt a b || (a.isZero && b.isZero && a.isNeg && !b.isNeg) then k else best) k

/-- An exact quotient rounded to a format once: the quotient to 64 bits below the divisor and a sticky bit. -/
def quotient (x : FNum) (d : Nat) : FNum :=
  match x with
  | .fin n m e =>
    let q := (m <<< 128) / max 1 d
    let sticky := bitN (q * max 1 d ≠ m <<< 128)
    .fin n (2 * q + sticky) (e - 129)
  | y => y

/-- Average pooling (R182). -/
def poolAvg (f : Fmt) (divisor : Nat) (codes : List Nat) : Nat × ConvKind :=
  let vs := codes.map (elemValue f)
  match (if Fmt.isInt f then none else specialSample f vs) with
  | some r => r
  | none => convert f none true (quotient (vs.foldl FNum.add FNum.zero) divisor)

/-- A pooled element's code, as the window reducer hands it to the finishing unit. -/
def poolAt (isMax : Bool) (w : Window) (inside : Bool) (x : View) (y xx c : Nat) : Nat :=
  let codes := poolCodes w x y xx c
  if isMax then poolMax x.fmt codes else (poolAvg x.fmt (if inside then codes.length else w.kh * w.kw) codes).1

/-! ## Resampling (R184 to R186) -/

/-- W(n) of R186 in 1/8,192. -/
def cubicW (n : Nat) : Int :=
  let k := Int.ofNat n
  if n ≤ 16 then 3 * k ^ 3 - 80 * k ^ 2 + 8192 else -(k ^ 3) + 80 * k ^ 2 - 2048 * k + 16384

/-- The four taps of one axis: weight and offset from x0. -/
def cubicTaps (q : Nat) : List (Int × Int) :=
  [(cubicW (16 + q), -1), (cubicW q, 0), (cubicW (16 - q), 1), (cubicW (32 - q), 2)]

/-- One resampled element; taps of weight 0 are not read (R178, R186). -/
def resampleAt (bicubic : Bool) (x : View) (zx zy : Int) (c : Nat) : Nat × ConvKind :=
  let px (iy ix : Int) : FNum := elemValue x.fmt (x.code (clampCoord x.h iy) (clampCoord x.w ix) c)
  if bicubic then
    let x0 := Int.fdiv zx 16
    let y0 := Int.fdiv zy 16
    let tx := cubicTaps (zx - 16 * x0).toNat
    let ty := cubicTaps (zy - 16 * y0).toNat
    sampleOf x.fmt 26 ((ty.flatMap fun v => tx.map fun u => (v.1 * u.1, px (y0 + v.2) (x0 + u.2))).filter fun k => k.1 ≠ 0)
  else
    sampleOf x.fmt 8 ((corners zx zy).map fun k => (Int.ofNat k.1, px k.2.1 k.2.2))

end Sys2Proof.Machine
end

