-- ==== Sys2Proof/Machine/Finish.lean ====
section
/-!
DEFINITION. The finishing units (R188 to R197): the integer path, the float path, activations, pixel normalisation and
elementwise takes; and the operators of chapter 6 that use no windowed reduction: boxes (R203 to R208), gates and combine
(R210 to R214).
-/
namespace Sys2Proof.Machine

/-! ## Integer path (R189) -/

def intAt (xs : List Int) (c : Nat) (d : Int) : Int := xs.getD c d

/-- One output element of the integer path and what it met (R195). What RELU has turned into 0 counts nothing (DESIGN CHOICE,
log 114). -/
def integerFinish (f : Fmt) (p : IntPath) (m : Rounding) (c : Nat) (s : Acc) : Nat × ConvKind :=
  let b := Fmt.bits f
  let prod := (s.a + intAt p.bias c 0) * intAt p.mult c 0
  let e := -(32 + Int.ofNat (p.shift.getD c 0))
  let x0 : FNum := match s.value with
    | .fin _ _ _ => .fin (decide (prod < 0)) prod.natAbs e
    | v => v
  let x := if p.relu then (match x0 with
    | .nan => .nan
    | v => if FNum.lt v FNum.zero then FNum.zero else v) else x0
  let y0 : Int := match x with
    | .fin n mant k =>
      let q := Int.ofNat (roundWhole m mant k)
      if n then -q else q
    | _ => 0
  let y1 := y0 + intAt p.zp c 0
  let y2 := clampInt y1 p.lo p.hi
  let y3 := match x with
    | .inf n => if n then p.lo else p.hi
    | _ => y2
  let kind : ConvKind := match x with
    | .nan => ⟨true, y2 != y1, false⟩
    | .inf _ => .metOver
    | .fin _ mant _ => ⟨false, y2 != y1, y0 == 0 && mant != 0⟩
  let code := ofSigned b y3
  (match p.lut with
    | none => code
    | some t => t.getD code 0, kind)

/-! ## Float path (R190 to R193) -/

/-- The TABLE activation of R193. -/
def tableAct (knots : List Nat) (aLo bLo aHi bHi : Nat) (x : FNum) : FNum :=
  let line (a b : Nat) := if (f32c a).isZero then f32c b else fadd (fmul (f32c a) x) (f32c b)
  if FNum.lt x (FNum.ofInt (-8)) then line aLo bLo
  else if FNum.le (FNum.ofInt 8) x then line aHi bHi
  else
    let z := fmul (fadd x (FNum.ofInt 8)) (FNum.ofInt 64)
    let i := clampInt z.floor 0 1023
    let k (j : Int) := f32c (knots.getD j.toNat 0)
    fadd (k i) (fmul (fsub z (FNum.ofInt i)) (fsub (k (i + 1)) (k i)))

/-- Table 6.2. -/
def activate (a : Activation) (x : FNum) : FNum :=
  if x.isNan then .nan
  else match a with
    | .none => x
    | .relu => if FNum.lt FNum.zero x then x else FNum.zero
    | .clamp lo hi => if FNum.lt x (f32c lo) then f32c lo else if FNum.lt (f32c hi) x then f32c hi else x
    | .leaky alpha => if FNum.le FNum.zero x then x else fmul x (f32c alpha)
    | .table knots aLo bLo aHi bHi => tableAct knots aLo bLo aHi bHi x

/-- Scale and bias (R190). Where the reel gives neither, the stage is switched off and passes the FP32 value on (R188). -/
def scaleBias (p : FloatPath) (c : Nat) (x : FNum) : FNum :=
  if p.scale.isEmpty && p.bias.isEmpty then f32 x
  else fadd (fmul (f32 x) (f32c (p.scale.getD c 0))) (f32c (p.bias.getD c 0))

/-- Residual and activation of the float path (R191, R192). -/
def residualAct (p : FloatPath) (res : Option FNum) (x : FNum) : FNum :=
  match p.residual, res with
  | some (rs, after), some r =>
    let d := fmul r (f32c rs)
    if after then fadd (activate p.act x) d else activate p.act (fadd x d)
  | _, _ => activate p.act x

/-- Stages 2 to 4 on the float path. -/
def floatFinish (p : FloatPath) (c : Nat) (res : Option FNum) (x : FNum) : FNum := residualAct p res (scaleBias p c x)

/-! ## Normalisation and elementwise (R196, R197) -/

/-- A left-to-right FP32 sum that starts with its first term. -/
def fsum (xs : List FNum) : FNum := leftSum xs

/-- Pixel normalisation of one pixel's channels. -/
def normPixel (rms : Bool) (eps : Nat) (gamma beta : List Nat) (xs : List FNum) : List FNum :=
  let n := FNum.ofInt (Int.ofNat xs.length)
  let mean := if rms then FNum.zero else fdiv (fsum xs) n
  let s2 := fsum (xs.map fun x => fmul (fsub x mean) (fsub x mean))
  let r := fdiv (FNum.ofInt 1) (fsqrt (fadd (fdiv s2 n) (f32c eps)))
  (xs.zip (List.range xs.length)).map fun p =>
    fadd (fmul (fmul (fsub p.1 mean) r) (f32c (gamma.getD p.2 0))) (f32c (beta.getD p.2 0))

/-- One elementwise operation. -/
def eltApply (o : EltOp) (a b : FNum) : FNum :=
  match o with
  | .add => fadd a b
  | .sub => fsub a b
  | .mul => fmul a b
  | .max => fmax a b
  | .min => fmin a b

/-! ## Boxes (R204 to R208) -/

/-- A decoded box with its score and class. -/
structure Box where
  x0 : FNum
  y0 : FNum
  x1 : FNum
  y1 : FNum
  score : FNum
  cls : Nat
  deriving DecidableEq, Repr

/-- A coordinate clamped to 0 … top; NaN stays NaN. -/
def clampTo (top : Nat) (v : FNum) : FNum :=
  if v.isNan then .nan
  else if FNum.lt v FNum.zero then FNum.zero
  else if FNum.lt (FNum.ofInt (Int.ofNat top)) v then FNum.ofInt (Int.ofNat top)
  else v

/-- Wreg and Hreg: the tile with the reel's overscan on every side (R159, R205). -/
def regionW (overscan : Nat) : Nat := 128 + 2 * overscan
def regionH (overscan : Nat) : Nat := 64 + 2 * overscan

/-- Anchor `a` of cell (y, x) decoded (R205). `d k` is component k of the anchor's deltas. -/
def decodeBox (b : BoxParams) (overscan y x a : Nat) (d : Nat → FNum) : FNum × FNum × FNum × FNum :=
  let half : FNum := .fin false 1 (-1)
  let size := b.anchors.getD a (0, 0)
  let st := FNum.ofInt (Int.ofNat b.st)
  let ax := fmul (fadd (FNum.ofInt (Int.ofNat x)) half) st
  let ay := fmul (fadd (FNum.ofInt (Int.ofNat y)) half) st
  let cx := fadd ax (fmul (fmul (d 0) (f32c b.vx)) (f32c size.1))
  let cy := fadd ay (fmul (fmul (d 1) (f32c b.vy)) (f32c size.2))
  let w := fmul (f32c size.1) (pow2q (fmul (d 2) (f32c b.vw)))
  let h := fmul (f32c size.2) (pow2q (fmul (d 3) (f32c b.vh)))
  (clampTo (regionW overscan) (fsub cx (fmul w half)), clampTo (regionH overscan) (fsub cy (fmul h half)),
   clampTo (regionW overscan) (fadd cx (fmul w half)), clampTo (regionH overscan) (fadd cy (fmul h half)))

/-- Candidates in index order (R204, R206): those with score at least the threshold and no NaN coordinate. Channels of the delta
tensor go anchor by anchor, 4 a + k, those of the score tensor a × Ncls + class (DESIGN CHOICE, log 115). -/
def candidates (b : BoxParams) (overscan : Nat) (deltas scores : View) : List Box :=
  let na := b.anchors.length
  (List.range b.hf).flatMap fun y => (List.range b.wf).flatMap fun x => (List.range na).flatMap fun a =>
    let q := decodeBox b overscan y x a fun k => deltas.f32At y x (4 * a + k)
    (List.range b.ncls).filterMap fun c =>
      let s := scores.f32At y x (a * b.ncls + c)
      if FNum.le (f32c b.threshold) s && !(q.1.isNan || q.2.1.isNan || q.2.2.1.isNan || q.2.2.2.isNan) then
        some ⟨q.1, q.2.1, q.2.2.1, q.2.2.2, s, c⟩
      else none

/-- Insert behind every box of equal or higher score. -/
def insertBox (x : Box) : List Box → List Box
  | [] => [x]
  | y :: ys => if FNum.lt y.score x.score then x :: y :: ys else y :: insertBox x ys

/-- Highest score first, ties by the lower candidate index (R206). -/
def orderBoxes (bs : List Box) : List Box := bs.foldl (fun acc x => insertBox x acc) []

/-- Overlap test of R207; `a` is the chosen box. -/
def overlaps (thr : Nat) (a b : Box) : Bool :=
  let iw := fsub (fmin a.x1 b.x1) (fmax a.x0 b.x0)
  let ih := fsub (fmin a.y1 b.y1) (fmax a.y0 b.y0)
  let inter := if FNum.le iw FNum.zero || FNum.le ih FNum.zero then FNum.zero else fmul iw ih
  let uni := fsub (fadd (fmul (fsub a.x1 a.x0) (fsub a.y1 a.y0)) (fmul (fsub b.x1 b.x0) (fsub b.y1 b.y0))) inter
  FNum.lt (fmul (f32c thr) uni) inter

/-- Suppression in order (R207). -/
def suppress (b : BoxParams) (bs : List Box) : List Box :=
  bs.foldl (fun chosen x =>
    if b.kOut ≤ chosen.length then chosen
    else if chosen.any fun y => (!b.classWise || y.cls == x.cls) && overlaps b.iouThr y x then chosen
    else chosen ++ [x]) []

/-- One 24-byte record (R208). -/
def Box.bytes (x : Box) : List Byte :=
  let w (v : FNum) := leBytes 4 (encodeIeee gridF32 v)
  w x.x0 ++ w x.y0 ++ w x.x1 ++ w x.y1 ++ w x.score ++ leBytes 2 x.cls ++ zeros 2

/-- The output of one tile (R208): 16-byte header and K_out records. -/
def boxOutput (b : BoxParams) (overscan : Nat) (deltas scores : View) : List Byte :=
  let chosen := suppress b ((orderBoxes (candidates b overscan deltas scores)).take b.kPre)
  leBytes 2 chosen.length ++ zeros 14 ++ slice (chosen.flatMap Box.bytes) 0 (24 * b.kOut)

/-- Bytes as an INT8 tensor of one pixel, whose channels are padded to whole lines like any other (DESIGN CHOICE, log 140). -/
def bytesTensor (bs : List Byte) : Tensor := ⟨1, 1, bs.length, .int8, bs.map (·.toNat), []⟩

/-! ## Expert gating (R210 to R214) -/

/-- Rank order of R210: `a` ranks strictly before `b`. -/
def ranksBefore (a b : FNum) : Bool :=
  if a.isNan then false else if b.isNan then true else FNum.lt b a

/-- The best expert but those in `skip`; equal ranks go to the lower index. -/
def bestExpert (ls : List FNum) (skip : Option Nat) : Nat :=
  let idx := (List.range ls.length).filter fun i => !(some i == skip)
  match idx with
  | [] => 0
  | i :: is => is.foldl (fun b j => if ranksBefore (ls.getD j .nan) (ls.getD b .nan) then j else b) i

/-- The choices of a token: expert and weight in rank order (R210, R211). -/
def gateToken (k : Nat) (ls : List FNum) : List (Nat × FNum) :=
  let e1 := bestExpert ls none
  if k ≤ 1 then [(e1, FNum.ofInt 1)]
  else
    let e2 := bestExpert ls (some e1)
    let l1 := ls.getD e1 .nan
    let l2 := ls.getD e2 .nan
    if l1.isFin && l2.isFin then
      let p := pow2q (fmul (fsub l2 l1) (f32c 0x3FB8AA3B))
      let d := fadd (FNum.ofInt 1) p
      [(e1, fdiv (FNum.ofInt 1) d), (e2, fdiv p d)]
    else [(e1, FNum.ofInt 1), (e2, FNum.zero)]

/-- cap of R212. -/
def expertCap (k n cf experts : Nat) : Nat := ceilDiv (k * n * cf) (16 * experts)

/-- A route entry: expert, slot, dropped, weight. -/
structure Route where
  expert : Nat
  slot : Nat
  dropped : Bool
  weight : FNum
  deriving DecidableEq, Repr

/-- Fill the slots (R212): rank-1 selections in token order, then rank-2; the entries come back in token order, ranks of
a token together. R213 gives a dropped entry no slot; its slot field is 0 (DESIGN CHOICE, log 82). -/
def routeTokens (k experts cf : Nat) (tokens : List (List FNum)) : List (List Route) :=
  let cap := expertCap k tokens.length cf experts
  let picks := tokens.map (gateToken k)
  let fillRank (r : Nat) (used : List Nat) : List Nat × List (Option Route) :=
    picks.foldl (fun acc p => match p[r]? with
      | none => (acc.1, acc.2 ++ [none])
      | some (e, w) =>
        let n := acc.1.getD e 0
        if n < cap then (acc.1.set e (n + 1), acc.2 ++ [some ⟨e, n, false, w⟩])
        else (acc.1, acc.2 ++ [some ⟨e, 0, true, w⟩])) (used, [])
  let r1 := fillRank 0 (List.replicate experts 0)
  let r2 := fillRank 1 r1.1
  (r1.2.zip r2.2).map fun p => [p.1, p.2].filterMap id

/-- 8 bytes of a route entry (R213). -/
def Route.bytes (r : Route) : List Byte :=
  leBytes 1 r.expert ++ leBytes 2 r.slot ++ leBytes 1 (bitN r.dropped) ++ leBytes 4 (encodeIeee gridF32 r.weight)

/-- Route entries from the bytes of a pixel of the route tensor. -/
def routesAt (route : Tensor) (y x : Nat) : List Route :=
  (List.range (route.c / 8)).map fun r =>
    let v (i n : Nat) := (List.range n).foldl (fun a j => a + route.code y x (8 * r + i + j) * 256 ^ j) 0
    ⟨v 0 1, v 1 2, v 3 1 % 2 == 1, f32c (v 4 4)⟩

/-- The gate's output tensor: 8 bytes per token and rank (R213), held as an INT8 tensor of 8 k channels, so that a token's entries
fill a padded line of their own (DESIGN CHOICE, log 140). -/
def gateTensor (k experts cf : Nat) (x : View) : Tensor :=
  let tokens := (List.range x.h).flatMap fun y => (List.range x.w).map fun i =>
    (List.range experts).map fun e => x.f32At y i e
  ⟨x.h, x.w, 8 * k, .int8, ((routeTokens k experts cf tokens).flatMap fun rs =>
    rs.flatMap fun r => r.bytes.map (·.toNat)), []⟩

/-- The token that fills a slot of an expert, if any. -/
def slotToken (route : Tensor) (e slot : Nat) : Option (Nat × Nat) :=
  ((List.range route.h).flatMap fun y => (List.range route.w).map fun x => (y, x)).find? fun p =>
    (routesAt route p.1 p.2).any fun r => r.expert == e && r.slot == slot && !r.dropped

/-- y of R214 for one token and channel: `o e slot` is the expert output as FP32. -/
def combineAt (rs : List Route) (o : Nat → Nat → FNum) : FNum :=
  match rs.filter fun r => !r.dropped with
  | [] => FNum.zero
  | r :: more => more.foldl (fun y q => fadd y (fmul q.weight (o q.expert q.slot))) (fmul r.weight (o r.expert r.slot))

end Sys2Proof.Machine
end

