-- ==== Sys2Proof/Machine/Takes.lean ====
section
/-!
DEFINITION. One step of a reel over one tile: the operator, the finishing sequence of Table 6.1 and the layout map
(R157, R159, R173), fingerprints (R220); and the cycle counts of takes (R163, R179, R183, R196, R197, R200, R202, R209,
R213, R263, R292).
-/
namespace Sys2Proof.Machine

/-! ## Layout (stage 6 of Table 6.1) -/

/-- Where a written element comes from: the output extents and the source position. -/
structure Layout where
  h : Nat
  w : Nat
  c : Nat
  src : Nat → Nat → Nat → Nat × Nat × Nat

/-- Tile extents (R59). -/
def tileW : Nat := 128
def tileH : Nat := 64

/-- Crop to the tile (last layer), depth-to-space, transposed layout: composed into one address map. A result that is
interleaved with others (R174) is one sub-position of the shared tensor, where `interleave` puts it. -/
def layoutOf (f : Finish) (last : Bool) (h w c : Nat) : Layout :=
  let b := if f.into.isSome then 1 else max 1 f.d2s
  let h1 := h * b
  let w1 := w * b
  let c1 := c / (b * b)
  let src1 (y x k : Nat) : Nat × Nat × Nat := (y / b, x / b, (y % b * b + x % b) * c1 + k)
  let oy := if last then (h1 - tileH) / 2 else 0
  let ox := if last then (w1 - tileW) / 2 else 0
  let h2 := if last then min h1 tileH else h1
  let w2 := if last then min w1 tileW else w1
  let src2 (y x k : Nat) := src1 (y + oy) (x + ox) k
  if f.transposed then ⟨1, c1, h2 * w2, fun _ n m => src2 (m / max 1 w2) (m % max 1 w2) n⟩
  else ⟨h2, w2, c1, src2⟩

/-- Write computed values in the layout, converting each once. The blocks of an MX output are those of the tensor as written,
after the layout map, although Table 6.1 names the conversion first (DESIGN CHOICE, log 83). -/
def writeValues (f : Finish) (last : Bool) (rnd : Option Randomness) (h w c : Nat) (v : Nat → Nat → Nat → Option FNum) :
    Tensor × Counts :=
  let l := layoutOf f last h w c
  convertPlane l.h l.w l.c f.out (if f.stochastic then rnd else none) f.saturate fun y x k =>
    let p := l.src y x k
    v p.1 p.2.1 p.2.2

/-- Write accumulator states through the integer path; a discarded element has code +0 and is not counted. -/
def writeInteger (f : Finish) (p : IntPath) (last : Bool) (rnd : Option Randomness) (h w c : Nat)
    (v : Nat → Nat → Nat → Option Reduced) : Tensor × Counts :=
  let l := layoutOf f last h w c
  let frame : Tensor := ⟨l.h, l.w, l.c, f.out, [], []⟩
  let all := (List.range l.h).flatMap fun y => (List.range l.w).flatMap fun x => (List.range l.c).map fun k =>
    let q := l.src y x k
    match v q.1 q.2.1 q.2.2 with
    | some (.exact s) =>
      integerFinish f.out p (Randomness.at_ (if f.stochastic then rnd else none) (frame.ordinal y x k)) q.2.2 s
    | _ => (0, ConvKind.plain)
  ({ frame with codes := all.map (·.1) }, countKinds (all.map (·.2)))

/-- The results of one of the s² convolutions of R174 in the shared tensor, at sub-position `e` = ey × s + ex of the map of R173;
the other positions stay as they were. -/
def interleave (s e : Nat) (old sub : Tensor) : Tensor :=
  let f := max 1 s
  let mine (y x : Nat) : Bool := y % f == e / f && x % f == e % f
  let h := sub.h * f
  let w := sub.w * f
  { h := h, w := w, c := sub.c, fmt := sub.fmt,
    codes := (List.range h).flatMap fun y => (List.range w).flatMap fun x => (List.range sub.c).map fun c =>
      if mine y x then sub.code (y / f) (x / f) c else old.code y x c,
    scales := if !Fmt.isMx sub.fmt then [] else
      (List.range h).flatMap fun y => (List.range w).flatMap fun x => (List.range (ceilDiv sub.c 32)).map fun k =>
        if mine y x then sub.scale (y / f) (x / f) (32 * k) else if old.c = 0 then 127 else old.scale y x (32 * k) }

/-! ## The operators -/

/-- The inputs that form an operand pair with the step (R156, R197): the tensor on the row feed, and the second tensor of a matrix
product or of an elementwise step. Offsets, routes, scores and stored states are none. -/
def pairInputs (st : Step) : List Src :=
  match st.op with
  | .matmul none | .eltwise _ none => st.inputs.take 2
  | .matmul (some _) | .conv _ _ _ _ | .warp _ _ _ _ _ _ | .expert _ _ _ => st.inputs.take 1
  | _ => []

/-- What a step needs to know beside its tensors. `parts` is the number of parts of each reduction, `phase` the frame's p,
`overscan` the reel's (R159). -/
structure StepEnv where
  canonical : Bool
  parts : Nat
  phase : Nat
  last : Bool
  rnd : Option Randomness
  overscan : Nat

/-- A blank tensor, read where an input is missing. -/
def emptyTensor : Tensor := ⟨0, 0, 0, .int8, [], []⟩

/-- The joins of the step's reductions are those of CANONICAL (R288 to R291). -/
def StepEnv.joinsCanonically (env : StepEnv) (st : Step) : Bool :=
  env.canonical && (!st.splits.isEmpty || decide (1 < env.parts))

/-- The reductions of a step that uses the cells: the extents of its result, the stored state that each element starts from
(R132), and the feed of each element; none for an empty slot (R213). -/
structure Reduction where
  h : Nat
  w : Nat
  c : Nat
  init : Nat → Nat → Nat → Option Nat
  feed : Nat → Nat → Nat → Option (List (Option (FNum × FNum)))

/-- The first input as the framing unit reads it: in the step's format, through its space-to-depth (R172). -/
def stepInput (st : Step) (ins : List Tensor) : View := ((ins.headD emptyTensor).view st.aFmt).spaceToDepth st.s2d

/-- The reductions of R160, R164, R177 and R213; none for a step that uses no cells. -/
def reductionOf (env : StepEnv) (st : Step) (ins : List Tensor) : Option Reduction :=
  let x := stepInput st ins
  let second := ins.getD 1 emptyTensor
  let line := pairLine st.aFmt st.bFmt
  let states := if st.loaded then ins.getLast? else none
  let init (y i k : Nat) := states.map fun t => t.code y i k
  match st.op with
  | .matmul (some wt) =>
    let b := wt.view st.bFmt
    some ⟨x.h, x.w, b.h, init, fun y i n => some (productFeed x line y i fun k => b.value n 0 k)⟩
  | .matmul none =>
    let b := second.view st.bFmt
    some ⟨x.h, x.w, b.w, init, fun y i n => some (productFeed x line y i fun k => b.value y n k)⟩
  | .conv win groups pad wt =>
    some ⟨outH win x.h, outW win x.w, wt.h, init, fun y i k => some (convFeed win groups pad (wt.view st.bFmt) x y i k)⟩
  | .warp win groups pad gran off wt =>
    some ⟨outH win x.h, outW win x.w, wt.h, init, fun y i k =>
      some (warpFeed win groups pad (wt.view st.bFmt) x second gran off env.phase y i k)⟩
  | .expert ws top cf =>
    let b (e : Nat) := (ws.getD e emptyTensor).view st.bFmt
    some ⟨ws.length, expertCap top (x.h * x.w) cf ws.length, (ws.headD emptyTensor).h, init, fun e slot n =>
      (slotToken second e slot).map fun t => productFeed x line t.1 t.2 fun k => (b e).value n 0 k⟩
  | _ => none

/-- The parts of one element's reduction, as the drain registers of its positions pass them on (R287). -/
def Reduction.partsAt (r : Reduction) (env : StepEnv) (st : Step) (y x c : Nat) : Option (List Reduced) :=
  (r.feed y x c).map fun f =>
    reduceParts (env.joinsCanonically st) (Fmt.isMx st.aFmt) (Fmt.is16 st.aFmt) (kappa st.aFmt st.bFmt) env.parts
      (r.init y x c) f

/-- Whether every residue agreed in part `i` of one element's reduction, and its running residue (R151 to R153). -/
def Reduction.checkAt (r : Reduction) (env : StepEnv) (st : Step) (y x c i : Nat) : Bool × Nat :=
  match r.feed y x c with
  | none => (true, 0)
  | some f =>
    let k := kappa st.aFmt st.bFmt
    let start := partStart (env.joinsCanonically st) (Fmt.is16 st.aFmt) i (r.init y x c)
    (partAgrees (Fmt.isMx st.aFmt) k start (partFeed k env.parts i f), partResidue (Fmt.isMx st.aFmt) k start (partFeed k env.parts i f))

/-- The joined state of one element. On the frequency-domain path it is the same, also where a NATIVE reel declares a split
(R199; DESIGN CHOICE, log 112). -/
def Reduction.joinedAt (r : Reduction) (env : StepEnv) (st : Step) (y x c : Nat) : Option Reduced :=
  (r.partsAt env st y x c).map (joinStates (env.joinsCanonically st) (Fmt.is16 st.aFmt) (r.init y x c))

/-- The partial states of the parts `first` to `first + n − 1`, as a split take writes them to its output banks (R294, Table 9.2):
part by part in place of the channels. The codes are the values of Table 9.2, of 16 or 4 bytes (`stateWidth`). -/
def Reduction.partials (r : Reduction) (env : StepEnv) (st : Step) (first n : Nat) : Tensor :=
  Tensor.tabulate r.h r.w (n * r.c) .fp32 fun y x k =>
    match (r.partsAt env st y x (k % max 1 r.c)).bind fun ps => ps[first + k / max 1 r.c]? with
    | some v => v.crossing (env.joinsCanonically st)
    | none => 0

/-- Bytes of a partial state (Table 9.2). -/
def stateWidth (canonical : Bool) (st : Step) : Nat := if canonical && pairExact st.aFmt st.bFmt then 16 else 4

/-- The joined state of one element from partial states in the bench, chip-major (R287, R294). -/
def Reduction.joinedFrom (r : Reduction) (env : StepEnv) (st : Step) (ts : List Tensor) (y x c : Nat) : Option Reduced :=
  let s0 := if Fmt.is16 st.aFmt then (r.init y x c).map fun v => f32c (v % 2 ^ 32) else none
  some (joinCrossed (env.joinsCanonically st) (Fmt.is16 st.aFmt) s0
    (ts.flatMap fun t => (List.range (t.c / max 1 r.c)).map fun i => t.code y x (i * r.c + c)))

/-- Finish a plane of reductions on either path (Table 6.1). -/
def finishReduced (env : StepEnv) (st : Step) (res : Option Tensor) (h w c : Nat)
    (v : Nat → Nat → Nat → Option Reduced) : Tensor × Counts :=
  match st.finish.path with
  | .integer p => writeInteger st.finish p env.last env.rnd h w c v
  | .float p => writeValues st.finish env.last env.rnd h w c fun y x k =>
      (v y x k).map fun z => floatFinish p k (res.map fun t => t.f32At y x k) z.value

/-- Values that enter stage 3 of Table 6.1. They are converted once more at stage 5, so that an infinite maximum becomes the largest
finite code where the saturate bit is 1 (DESIGN CHOICE, log 111). -/
def finishValues (env : StepEnv) (st : Step) (res : Option Tensor) (h w c : Nat) (v : Nat → Nat → Nat → FNum) :
    Tensor × Counts :=
  writeValues st.finish env.last env.rnd h w c fun y x k =>
    some (match st.finish.path with
      | .float p => residualAct p (res.map fun t => t.f32At y x k) (v y x k)
      | .integer _ => v y x k)

/-- Values of a pooling, resampling, normalisation or elementwise layer, which pass through scale and bias as well where the reel
sets that stage for the layer (R188). -/
def finishWindow (env : StepEnv) (st : Step) (res : Option Tensor) (h w c : Nat) (v : Nat → Nat → Nat → FNum) : Tensor × Counts :=
  finishValues env st res h w c fun y x k => match st.finish.path with
    | .float p => if p.scale.isEmpty && p.bias.isEmpty then v y x k else scaleBias p k (v y x k)
    | .integer _ => v y x k

/-- What a step gives for one tile: the tensor written, its conversion counts, and the pixels that were discarded (R213). -/
structure StepOut where
  data : Tensor
  counts : Counts
  gaps : List (Nat × Nat)

/-- One step over one tile. -/
def runStep (env : StepEnv) (st : Step) (ins : List Tensor) (res : Option Tensor) : StepOut :=
  let x := stepInput st ins
  let second := ins.getD 1 emptyTensor
  let whole (o : Tensor × Counts) : StepOut := ⟨o.1, o.2, []⟩
  let win1 (w : Window) : Window := { w with dy := 1, dx := 1 }
  match reductionOf env st ins with
  | some r =>
    let o := finishReduced env st res r.h r.w r.c (r.joinedAt env st)
    ⟨o.1, o.2, (List.range r.h).flatMap fun y => (List.range r.w).filterMap fun i =>
      if (r.feed y i 0).isNone then some (y, i) else none⟩
  | none => match st.op with
    | .pool isMax win inside =>
      whole (finishWindow env st res (outH (win1 win) x.h) (outW (win1 win) x.w) x.c fun y i k =>
        elemValue x.fmt (poolAt isMax win inside x y i k))
    | .resample bicubic wo ho =>
      whole (finishWindow env st res ho wo x.c fun y i k =>
        elemValue x.fmt (resampleAt bicubic x (mapPos i x.w wo) (mapPos y x.h ho) k).1)
    | .norm rms eps gamma beta =>
      whole (finishWindow env st res x.h x.w x.c fun y i k =>
        (normPixel rms eps gamma beta ((List.range x.c).map fun c => x.f32At y i c)).getD k FNum.zero)
    | .eltwise o konst =>
      whole (finishWindow env st res x.h x.w x.c fun y i k =>
        eltApply o (x.f32At y i k) (match konst with
          | some cs => f32c (cs.getD k 0)
          | none => second.f32At y i k))
    | .boxes b => whole (bytesTensor (boxOutput b env.overscan x (second.view second.fmt)), (0, 0, 0))
    | .gate experts k cf => whole (gateTensor k experts cf x, (0, 0, 0))
    | .combine _ _ =>
      whole (finishValues env st res second.h second.w x.c fun y i k =>
        combineAt (routesAt second y i) fun e slot => x.f32At e slot k)
    | _ => whole (emptyTensor, (0, 0, 0))

/-- The join take of a step split over chips (R294): the partial states of the chips, joined and finished. -/
def runJoin (env : StepEnv) (st : Step) (ins : List Tensor) (states : List Tensor) (res : Option Tensor) : StepOut :=
  match reductionOf env st ins with
  | some r =>
    let o := finishReduced env st res r.h r.w r.c (r.joinedFrom env st states)
    ⟨o.1, o.2, []⟩
  | none => ⟨emptyTensor, (0, 0, 0), []⟩

/-- The tensor that step `k` writes: its own, or the one that it interleaves into (R174). -/
def tensorOf (steps : List Step) (k : Nat) : Nat := (((steps[k]?).bind fun st => st.finish.into).map (·.1)).getD k

/-- The channel padding of a tensor: its own line, and the line of every operand pair that a step forms with it (R156). -/
def tensorPad (steps : List Step) (x : Src) (own : Nat) : Nat :=
  ((steps.filter fun st => (pairInputs st).contains x).map fun st => pairLine st.aFmt st.bFmt).foldl max own

/-- The channel padding of the tensor that step `k` of a sequence writes. -/
def outputPad (steps : List Step) (k : Nat) : Nat :=
  tensorPad steps (.step (tensorOf steps k)) (match steps[k]? with
    | some st => Fmt.lane st.finish.out
    | none => 1)

/-- The rows or columns of a cropped extent that lie at offset `e` of every `f` in the map before the crop. -/
def ownLines (f e first n : Nat) : List Nat := (List.range n).filter fun i => (i + first) % max 1 f == e

/-- The results of one convolution of R174 out of the shared tensor of a last layer, cropped to the tile: what its fingerprint
covers (R220). -/
def ownShare (f e : Nat) (t : Tensor) : Tensor :=
  let n := max 1 f
  let oy := (t.h - tileH) / 2
  let ox := (t.w - tileW) / 2
  let ys := ownLines n (e / n) oy (min t.h tileH)
  let xs := ownLines n (e % n) ox (min t.w tileW)
  Tensor.tabulate ys.length xs.length t.c t.fmt fun y x c => t.code (ys.getD y 0 + oy) (xs.getD x 0 + ox) c

/-- The fingerprint of a layer's output for one tile (R220). -/
def fingerprint (o : StepOut) (pad : Nat) : Nat := crc64 (o.data.bytes pad o.gaps)

/-- Pixel words of a last layer's output: each pixel's channel codes, lowest channel first, in the bits that its colour
format gives them (log 24). -/
def pixelsOf (colour : Nat) (t : Tensor) : List Nat :=
  let widths := if colour = 2 then [16, 16, 16, 16] else if colour = 1 then [10, 10, 10, 2] else [8, 8, 8, 8]
  (List.range t.h).flatMap fun y => (List.range t.w).map fun x =>
    ((widths.zip (List.range 4)).foldl (fun (acc : Nat × Nat) p =>
      (acc.1 + t.code y x p.2 % 2 ^ p.1 * 2 ^ acc.2, acc.2 + p.1)) (0, 0)).1

/-! ## Cycle counts -/

/-- Extents and channels of the first input after space-to-depth (R171). -/
def effH (st : Step) : Nat := st.hi / max 1 st.s2d
def effW (st : Step) : Nat := st.wi / max 1 st.s2d
def effCi (st : Step) : Nat := max 1 st.s2d * max 1 st.s2d * st.ci

/-- The tokens that a combine works on: those of the gate step whose route entries it reads (R213), or where a dolly brings them the
extents that the step declares. -/
def tokenShape (steps : List Step) (st : Step) : Nat × Nat :=
  match (st.inputs[1]? : Option Src) with
  | some (Src.step g) => match steps[g]? with
      | some e => (effH e, effW e)
      | none => (effH st, effW st)
  | _ => (effH st, effW st)

/-- Extents of an operator's output. -/
def outShape (steps : List Step) (st : Step) : Nat × Nat :=
  match st.op with
  | .combine _ _ => tokenShape steps st
  | .conv win _ _ _ => (outH win (effH st), outW win (effW st))
  | .warp win _ _ _ _ _ => (outH win (effH st), outW win (effW st))
  | .pool _ win _ => (outH { win with dy := 1, dx := 1 } (effH st), outW { win with dy := 1, dx := 1 } (effW st))
  | .resample _ wo ho => (ho, wo)
  | _ => (effH st, effW st)

/-- Padded reduction length of the unit of column group j (R156, R163, R168). -/
def krOf (st : Step) (j : Nat) : Nat :=
  match st.op with
  | .conv win g _ _ => unitLength (effCi st) st.co g (feedLine st.aFmt st.bFmt g) (win.kh * win.kw) (32 * j)
  | .warp win g _ _ _ _ => unitLength (effCi st) st.co g (feedLine st.aFmt st.bFmt g) (win.kh * win.kw) (32 * j)
  | _ => roundUp (effCi st) (pairLine st.aFmt st.bFmt)

/-- What fixes the cycle counts and parts of a load: reduction mode, P, E, the chip's place among the n chips of a set reel (n = 1 in
chip scope), and the P whose split of reductions applies: that of a frame's first load stays its own (Table 9.4). -/
structure LoadShape where
  canonical : Bool
  arrays : Nat
  engines : Nat
  chips : Nat
  index : Nat
  split : Nat
  deriving DecidableEq, Repr

/-- Q of a step at P arrays (R526). -/
def splitAt (st : Step) (arrays : Nat) : Nat := max 1 (st.splits.getD (arrays - 1) 1)

/-- The step is split over the chips of a set. -/
def LoadShape.splits (u : LoadShape) (st : Step) : Bool := decide (1 < u.chips) && st.kind == .split

/-- A canonical 16-bit reduction has Qc parts on every number of chips (R291). -/
def LoadShape.fixedParts (u : LoadShape) (st : Step) : Bool := u.canonical && Fmt.is16 st.aFmt

/-- Parts of each reduction of a step over the whole set (R287, R291). -/
def LoadShape.parts (u : LoadShape) (st : Step) : Nat :=
  let q := splitAt st u.split
  if u.splits st && !u.fixedParts st then q * u.chips else q

/-- The parts that chip `i` runs: the first one and how many, chip-major (R287). The Qc parts of a canonical 16-bit reduction go to
the chips in equal runs as near as whole parts allow (DEDUCED, log 85). -/
def LoadShape.partsOf (u : LoadShape) (st : Step) (i : Nat) : Nat × Nat :=
  let q := splitAt st u.split
  if !u.splits st then (0, q)
  else if u.fixedParts st then (i * q / u.chips, (i + 1) * q / u.chips - i * q / u.chips)
  else (i * q, q)

/-- The home of expert `e` of `experts` in a set of `chips` (R241). -/
def expertHome (e experts chips : Nat) : Nat := e * chips / max 1 experts

/-- The experts whose home chip `i` is. -/
def LoadShape.expertsOf (u : LoadShape) (experts i : Nat) : List Nat :=
  (List.range experts).filter fun e => expertHome e experts u.chips == i

/-- The takes that a chip runs of a step. -/
def LoadShape.partsRun (u : LoadShape) (st : Step) : List Part :=
  if u.chips ≤ 1 then [.whole]
  else match st.kind, st.op with
    | .split, _ => (if (u.partsOf st u.index).2 = 0 then [] else [.share]) ++ [.join]
    | .expert, .expert ws _ _ => (u.expertsOf ws.length u.index).map .expert
    | _, _ => [.whole]

/-- The units of a tile's sequence in order: step and part (R263, R294, R397). -/
def LoadShape.unitsOf (u : LoadShape) (steps : List Step) : List (Nat × Part) :=
  (steps.zip (List.range steps.length)).flatMap fun s => (u.partsRun s.1).map fun p => (s.2, p)

/-- l of one unit of a reduction cut in `q` parts: the larger of its reduction cycles and 32 (R163). -/
def unitCycles (st : Step) (q j : Nat) : Nat :=
  let k := kappa st.aFmt st.bFmt
  max (ceilDiv (partLen (krOf st j) q k) k) 32

/-- Column groups of slice `s` of σ (R161). -/
def sliceUnits (groups sigma s : Nat) : Nat := (s + 1) * groups / sigma - s * groups / sigma

/-- Units that each array position runs (R161, R526): distribution group g = (q' × σ + s) × Q + k at position g mod P.
Answers, per position, the list of its groups' unit counts. -/
def positionGroups (rowGroups groups sigma q arrays pos : Nat) : List Nat :=
  ((List.range (rowGroups * sigma * q)).filter fun g => g % max 1 arrays == pos).map fun g =>
    sliceUnits groups sigma (g / q % sigma)

/-- Largest over the positions. -/
def maxOver (n : Nat) (f : Nat → Nat) : Nat := ((List.range n).map f).foldl max 0


/-- u_join of R292: the largest number of units that a position joins, which are those whose part 0 it runs. -/
def joinUnits (st : Step) (rowGroups groups q arrays : Nat) : Nat :=
  let sigma := max 1 st.sigma
  maxOver arrays fun pos => (((List.range (rowGroups * sigma * q)).filter fun g =>
    g % max 1 arrays == pos && g % q == 0).map fun g => sliceUnits groups sigma (g / q % sigma)).sum

/-- Join cost of R292. -/
def joinCycles (canonical : Bool) (st : Step) (rowGroups groups q arrays : Nat) : Nat :=
  if q ≤ 1 then 0 else 24 + (q - 1) * joinUnits st rowGroups groups q arrays * stateWidth canonical st

/-- Row groups and column groups of a step over `rows` output positions (R161). -/
def rowGroupsOf (rows : Nat) : Nat := ceilDiv rows 32
def colGroupsOf (st : Step) : Nat := ceilDiv st.co 32

/-- The ring joins the parts of a step inside the take; the partial states of a share leave it unjoined (R294). -/
def ringCycles (u : LoadShape) (st : Step) (rows : Nat) : Nat :=
  if u.splits st then 0 else joinCycles u.canonical st (rowGroupsOf rows) (colGroupsOf st) (splitAt st u.split) u.arrays

/-- The count of a join take (R294). -/
def joinTakeCycles (u : LoadShape) (st : Step) (rows : Nat) : Nat :=
  8 + (u.parts st - 1) * joinUnits st (rowGroupsOf rows) (colGroupsOf st) (max 1 (u.partsOf st u.index).2) u.arrays *
    stateWidth u.canonical st + 38

/-- Direct count of R163 (and R292 where a reduction is split on the chip). Where column groups of a grouped convolution differ in
length, l is the longest one's (DESIGN CHOICE, log 109). -/
def directCycles (u : LoadShape) (st : Step) (rows : Nat) : Nat :=
  let q := (u.partsOf st u.index).2
  let groups := colGroupsOf st
  let l := maxOver groups fun j => unitCycles st (u.parts st) j
  let busy := maxOver u.arrays fun pos => (positionGroups (rowGroupsOf rows) groups (max 1 st.sigma) q u.arrays pos).sum
  8 + busy * l + 38 + ringCycles u st rows

/-- Warped count of R179. -/
def warpCycles (u : LoadShape) (st : Step) (rows : Nat) : Nat :=
  let q := (u.partsOf st u.index).2
  let groups := colGroupsOf st
  let l := maxOver groups fun j => unitCycles st (u.parts st) j
  let k := kappa st.aFmt st.bFmt
  let v := if Fmt.is16 st.aFmt then 16 else 32
  let gamma := 32 * ceilDiv (maxOver groups fun j => partLen (krOf st j) (u.parts st) k) k * 4 * v / 2048
  let busy := maxOver u.arrays fun pos =>
    ((positionGroups (rowGroupsOf rows) groups (max 1 st.sigma) q u.arrays pos).map fun n => max (n * l) gamma).sum
  8 + gamma + busy + 38 + ringCycles u st rows

/-- Rows of the busiest position under R161 with σ = 1: row groups of 32 go round the positions, the last one partly filled. Only the real
windows of that group count in V (DESIGN CHOICE, log 110). With a position left over after the full groups, position 0 holds one group
more; otherwise the partial group comes on top. -/
def busyRows (rows arrays : Nat) : Nat :=
  let full := ceilDiv rows 32 - 1
  let p := max 1 arrays
  if full % p = 0 then 32 * (full / p) + (rows - 32 * full) else 32 * (full / p + 1)

/-- Lines that the busiest position reads for `rows` output positions with `per` lines each (R183, R196, R197). -/
def busyLines (rows arrays per : Nat) : Nat := busyRows rows arrays * per

/-- The smallest power of two, at least 32, no less than n (R198). -/
def nttSize (n : Nat) : Nat := if n ≤ 32 then 32 else 2 ^ (Nat.log2 (n - 1) + 1)

/-- The step may use the frequency-domain path (R198). -/
def freqEligible (st : Step) : Bool :=
  match st.op with
  | .conv w _ _ _ =>
    decide (17 ≤ max w.kh w.kw) && decide (w.kh ≤ 63) && decide (w.kw ≤ 63) && w.sy == 1 && w.sx == 1 && w.dy == 1 &&
    w.dx == 1 && Fmt.isInt st.aFmt && Fmt.isInt st.bFmt && decide (effH st + w.pt + w.pb ≤ 1024) &&
    decide (effW st + w.pl + w.pr ≤ 1024) && !st.loaded
  | _ => false

/-- The frequency-domain count of R200 for `b` tiles over E engine slots. -/
def freqCycles (st : Step) (b engines : Nat) : Nat :=
  match st.op with
  | .conv w g _ _ =>
    let t := nttSize (effH st + w.pt + w.pb) * nttSize (effW st + w.pl + w.pr)
    let cig := effCi st / max 1 g
    let cog := st.co / max 1 g
    let cu := ceilDiv ((cig + cog * cig + cog) * t * Nat.log2 t) 256 + ceilDiv (cog * cig * t) 64
    8 + ceilDiv (b * g) (max 1 engines) * cu + 38
  | _ => 0

/-- Box schedule of R209. -/
def boxCycles (p : BoxParams) (b arrays : Nat) : Nat :=
  let ncand := p.wf * p.hf * p.anchors.length * p.ncls
  let lg := if p.kPre ≤ 1 then 0 else Nat.log2 (p.kPre - 1) + 1
  8 + ceilDiv b (max 1 arrays) * (ceilDiv ncand 32 + ceilDiv (p.kPre * lg) 4 + ceilDiv (p.kPre * p.kOut) 8) + 38

/-- Lines of one pixel of input `i` of a step, whole padding lines included (R155, R156). -/
def inputLines (steps : List Step) (st : Step) (i : Nat) (f : Fmt) : Nat :=
  ceilDiv (roundUp (effCi st) (match st.inputs[i]? with
    | some x => tensorPad steps x (Fmt.lane f)
    | none => Fmt.lane f)) (Fmt.lane f)

/-- The cycle count of a part of a step of a sequence over `b` tiles on the direct path. The manual gives resampling no count: it
takes that of pooling, with 4 or 16 lines per output position and slice (DESIGN CHOICE, log 144). -/
def stepDirect (u : LoadShape) (steps : List Step) (st : Step) (b : Nat) (part : Part) : Nat :=
  let o := outShape steps st
  let rows := o.1 * o.2 * b
  let lines := inputLines steps st 0 st.aFmt
  let routing (experts k : Nat) :=
    let nb := busyRows rows u.arrays
    8 + ceilDiv (nb * experts) 32 + ceilDiv (nb * k) 8 + 38
  if part = .join then joinTakeCycles u st rows
  else match st.op with
  | .matmul _ | .conv _ _ _ _ => directCycles u st rows
  | .warp _ _ _ _ _ _ => warpCycles u st rows
  | .pool _ w _ => 8 + ceilDiv (busyLines rows u.arrays (w.kh * w.kw * lines)) 32 + 38
  | .resample bic _ _ => 8 + ceilDiv (busyLines rows u.arrays ((if bic then 16 else 4) * lines)) 32 + 38
  | .norm _ _ _ _ => 8 + 3 * ceilDiv (busyLines rows u.arrays lines) 32 + 38
  | .eltwise _ konst =>
    8 + ceilDiv (busyLines rows u.arrays (lines + (if konst.isNone then inputLines steps st 1 st.bFmt else 0))) 32 + 38
  | .boxes p => boxCycles p b u.arrays
  | .gate experts k _ | .combine experts k => routing experts k
  | .expert ws k cf =>
    let cap := expertCap k (effH st * effW st) cf ws.length
    directCycles u st (cap * b * (match part with
      | .expert _ => 1
      | _ => ws.length))

/-- Firmware's choice for a step at a load (R202): the frequency domain where its count over β tiles is strictly lower
(log 99). A step split over the chips of a set stays on the direct path (DESIGN CHOICE, log 145). -/
def choosesFreq (u : LoadShape) (steps : List Step) (st : Step) (beta : Nat) : Bool :=
  freqEligible st && !u.splits st && decide (0 < u.engines) &&
    decide (freqCycles st beta u.engines < stepDirect u steps st beta .whole)

/-- cyc_k(b) of a part of a step on its chosen path (R263). -/
def stepCycles (u : LoadShape) (steps : List Step) (freq : Bool) (st : Step) (b : Nat) (part : Part) : Nat :=
  if freq then freqCycles st b u.engines else stepDirect u steps st b part

/-- cyc_k(b) with the path chosen for β tiles: all that the chip runs of the step. -/
def chosenCycles (u : LoadShape) (steps : List Step) (st : Step) (beta b : Nat) : Nat :=
  ((u.partsRun st).map (stepCycles u steps (choosesFreq u steps st beta) st b)).sum

/-- c_tween or c_key of a sequence (R263). -/
def sequenceCost (u : LoadShape) (beta : Nat) (steps : List Step) : Nat :=
  ceilDiv ((steps.map fun st => chosenCycles u steps st beta beta).sum) beta

/-! ## Cells after a take (R122, R161) -/

/-- The units that an array position runs, in order (R161, R526): row group, column group and part. -/
def unitsAt (rowGroups groups sigma q arrays pos : Nat) : List (Nat × Nat × Nat) :=
  ((List.range (rowGroups * sigma * q)).filter fun g => g % max 1 arrays == pos).flatMap fun g =>
    (List.range (sliceUnits groups sigma (g / q % sigma))).map fun j =>
      (g / q / sigma, g / q % sigma * groups / sigma + j, g % q)

end Sys2Proof.Machine
end

