-- ==== Sys2Proof/Machine/Pictures.lean ====
section
/-!
DEFINITION. Pixels: channels of a colour format (R248), luma (R90), bilinear samples and blends of the warp unit (R106,
R109), continuity statistics and records (R217, R218), the block coding of tile stores (R247 to R249) and zero-run
compression (R223, R224).
-/
namespace Sys2Proof.Machine

/-! ## Channels -/

/-- Channel widths in bits, order R, G, B, A (R248). -/
def chanWidths (colour : Nat) : List Nat :=
  if colour = 2 then [16, 16, 16, 16] else if colour = 1 then [10, 10, 10, 2] else [8, 8, 8, 8]

/-- Split a pixel word into fields of the given widths, lowest first. -/
def splitWord : List Nat → Nat → List Nat
  | [], _ => []
  | w :: ws, v => v % 2 ^ w :: splitWord ws (v / 2 ^ w)

/-- Join fields of the given widths, lowest first. -/
def joinWord : List Nat → List Nat → Nat
  | w :: ws, v :: vs => v % 2 ^ w + 2 ^ w * joinWord ws vs
  | _, _ => 0

def channels (colour px : Nat) : List Nat := splitWord (chanWidths colour) px
def ofChannels (colour : Nat) (cs : List Nat) : Nat := joinWord (chanWidths colour) cs

/-- Pixels of a byte run. -/
def pixelsIn (bpp : Nat) (bs : List Byte) : List Nat := (List.range (bs.length / bpp)).map fun i => leNat bs (i * bpp) bpp

def pixelBytes (bpp : Nat) (ps : List Nat) : List Byte := ps.flatMap (leBytes bpp)

/-! ## Luma (R90) -/

/-- A channel value in 12 bits. -/
def to12 (colour v : Nat) : Nat :=
  if colour = 0 then v * 16 + v / 16
  else if colour = 1 then v * 4 + v / 256
  else
    let x := elemValue .fp16 v
    if x.isNan || FNum.lt x FNum.zero then 0
    else if FNum.le (FNum.ofInt 1) x then 4095
    else (x.mul (FNum.ofInt 4095)).roundInt.toNat

/-- Luma of a pixel, 0 to 4,095. -/
def luma (colour px : Nat) : Nat :=
  let c := (channels colour px).map (to12 colour)
  (1254 * c.getD 0 0 + 2404 * c.getD 1 0 + 438 * c.getD 2 0 + 2048) / 4096

/-! ## Samples of a picture (R106, R109) -/

/-- A picture: extents and pixel words by coordinate. -/
structure Picture where
  w : Nat
  h : Nat
  px : Nat → Nat → Nat

/-- The bilinear sample of a pixel; RGBA16F sums in FP32 and rounds to FP16. A position on one pixel copies its code, so that the
copy at scale 1.0 is exact for a NaN too, whose code a conversion to FP16 would replace (DESIGN CHOICE, log 86). -/
def bilinear (colour : Nat) (p : Picture) (zx zy : Int) : Nat :=
  let cs := corners zx zy
  let word (k : Nat × Int × Int) : Nat := p.px (clampCoord p.h k.2.1) (clampCoord p.w k.2.2)
  let vals := cs.map fun k => (k.1, channels colour (word k))
  match cs with
  | [k] => word k
  | _ => ofChannels colour ((List.range 4).map fun c =>
    if colour = 2 then
      let terms := vals.map fun v => fmul (FNum.ofInt (Int.ofNat v.1)) (elemValue .fp16 (v.2.getD c 0))
      (convert .fp16 none false (fmul (leftSum terms) (.fin false 1 (-8)))).1
    else ((vals.map fun v => v.1 * v.2.getD c 0).sum + 128) / 256)

/-- The blend of R109 at phase code p. -/
def blend (colour p a b : Nat) : Nat :=
  let ca := channels colour a
  let cb := channels colour b
  ofChannels colour ((List.range 4).map fun c =>
    let x := ca.getD c 0
    let y := cb.getD c 0
    if colour = 2 then
      let s := fadd (fmul (elemValue .fp16 x) (FNum.ofInt (840 - Int.ofNat p))) (fmul (elemValue .fp16 y) (FNum.ofInt (Int.ofNat p)))
      (convert .fp16 none false (fdiv s (FNum.ofInt 840))).1
    else (divRound (Int.ofNat x * (840 - Int.ofNat p) + Int.ofNat y * Int.ofNat p) 840).toNat)

/-! ## Continuity statistics (R217) -/

/-- The statistics of a tile. -/
structure Stats where
  edges : Nat
  count : Nat
  nonfinite : Nat
  lumaSum : Nat
  energy : Nat
  hist : List Nat
  deriving DecidableEq, Repr

/-- Difference of two lumas. -/
def absDiff (a b : Nat) : Nat := (a - b) + (b - a)

/-- Adjacent pairs of one line inside runs of 32. -/
def runPairs (line : List Nat) : List (Nat × Nat) :=
  ((List.range (line.length - 1)).filter fun x => x % 32 ≠ 31).map fun x => (line.getD x 0, line.getD (x + 1) 0)

/-- A 16-bit float code is NaN or infinite. -/
def nonfinite16 (v : Nat) : Bool := v / 1024 % 32 == 31

/-- Statistics of the first `w` × `h` pixels of a tile of 128 × 64 pixel words. -/
def tileStats (colour edgeStep w h : Nat) (px : List Nat) : Stats :=
  let rows := (chunks 128 px).take h |>.map fun r => r.take w
  let ys := rows.map fun r => r.map (luma colour)
  let pairs := ys.flatMap runPairs
  let all := ys.flatten
  { edges := (pairs.filter fun p => edgeStep < absDiff p.1 p.2).length, count := all.length,
    nonfinite := if colour = 2 then
        (rows.flatten.filter fun p => ((channels colour p).take 3).any nonfinite16).length else 0,
    lumaSum := all.sum, energy := (pairs.map fun p => absDiff p.1 p.2 ^ 2).sum,
    hist := (List.range 16).map fun b => (all.filter fun y => y / 256 == b).length }

/-- A continuity record (Table 6.4). -/
def recordBytes (stream kind frame tile : Nat) (x : Stats) : List Byte :=
  let body := leBytes 2 stream ++ leBytes 1 kind ++ leBytes 1 0 ++ leBytes 4 frame ++ leBytes 2 tile ++
    leBytes 2 x.edges ++ leBytes 2 x.count ++ leBytes 2 x.nonfinite ++ leBytes 4 x.lumaSum ++ leBytes 8 x.energy ++
    x.hist.flatMap (leBytes 2)
  body ++ leBytes 4 (crc32c body)

/-- Pixels of tile `t` inside the frame: width and height. -/
def StreamParams.tileInside (p : StreamParams) (t : Nat) : Nat × Nat :=
  let tx := t % max 1 p.columns
  let ty := t / max 1 p.columns
  (min 128 (p.outW - 128 * tx), min 64 (p.outH - 64 * ty))

/-! ## Block coding (R247 to R249) -/

/-- Bits least significant first. -/
def bitsLow : Nat → Nat → List Bool
  | 0, _ => []
  | n + 1, v => (v % 2 == 1) :: bitsLow n (v / 2)

/-- Bytes from bits, least significant first; the last byte is filled with zeros. -/
def bitsToBytes (bs : List Bool) : List Byte :=
  (chunks 8 bs).map fun ch => BitVec.ofNat 8 (ch.foldr (fun b v => bitN b + 2 * v) 0)

def bytesToBits (bs : List Byte) : List Bool := bs.flatMap fun b => bitsLow 8 b.toNat

/-- Channel values of the 64 pixels of a block. -/
def blockChannels (colour : Nat) (px : List Nat) : List (List Nat) := px.map (channels colour)

/-- z of one channel of pixel i (R249). -/
def deltaZ (b : Nat) (vals : List Nat) (i : Nat) : Nat :=
  let pred := if i % 8 = 0 then vals.getD (i - 8) 0 else vals.getD (i - 1) 0
  let d := toSigned b (vals.getD i 0 + 2 ^ b - pred)
  if 0 ≤ d then (2 * d).toNat else (-2 * d - 1).toNat

def bitLength (v : Nat) : Nat := if v = 0 then 0 else Nat.log2 v + 1

/-- The delta payload of a block (R249). -/
def deltaPayload (colour bpp : Nat) (px : List Nat) : List Byte :=
  let ws := chanWidths colour
  let cs := blockChannels colour px
  let col (c : Nat) := cs.map fun p => p.getD c 0
  let zs := (List.range 4).map fun c => (List.range 63).map fun i => deltaZ (ws.getD c 8) (col c) (i + 1)
  let w (c : Nat) := bitLength ((zs.getD c []).foldl max 0)
  let bits := ((List.range 4).flatMap fun c => bitsLow 5 (w c)) ++
    (List.range 63).flatMap fun i => (List.range 4).flatMap fun c => bitsLow (w c) ((zs.getD c []).getD i 0)
  leBytes bpp (px.headD 0) ++ bitsToBytes bits

/-- A block as stored: header byte and sectors. -/
def encodeBlock (colour bpp : Nat) (px : List Nat) : Byte × List Byte :=
  let d := deltaPayload colour bpp px
  let s := ceilDiv d.length 32
  if s < 2 * bpp then (BitVec.ofNat 8 (s - 1 + 16), slice d 0 (32 * s))
  else (BitVec.ofNat 8 (2 * bpp - 1), pixelBytes bpp px)

/-- The 63 further pixels of a delta block, from the bits after the width fields. -/
def deltaRebuild (ws zw : List Nat) : Nat → List (List Nat) → List Bool → List (List Nat)
  | 0, done, _ => done
  | n + 1, done, bits =>
    let i := done.length
    let pred := if i % 8 = 0 then done.getD (i - 8) [] else done.getD (i - 1) []
    let step := (List.range 4).foldl (fun (acc : List Nat × List Bool) c =>
      let k := zw.getD c 0
      let z := (acc.2.take k).foldr (fun b v => bitN b + 2 * v) 0
      let d : Int := if z % 2 = 0 then Int.ofNat (z / 2) else -(Int.ofNat (z / 2) + 1)
      let b := ws.getD c 8
      (acc.1 ++ [ofSigned b (Int.ofNat (pred.getD c 0) + d)], acc.2.drop k)) ([], bits)
    deltaRebuild ws zw n (done ++ [step.1]) step.2

/-- The pixels of a stored block. -/
def decodeBlock (colour bpp : Nat) (header : Byte) (bs : List Byte) : List Nat :=
  if bitOf header.toNat 4 then
    let bits := bytesToBits (bs.drop bpp)
    let zw := (List.range 4).map fun c => ((bits.drop (5 * c)).take 5).foldr (fun b v => bitN b + 2 * v) 0
    (deltaRebuild (chanWidths colour) zw 63 [channels colour (leNat bs 0 bpp)] (bits.drop 20)).map (ofChannels colour)
  else pixelsIn bpp (bs.take (64 * bpp))

/-- Pixels of block `i` of a tile in raster order of the tile. -/
def blockOfTile (px : List Nat) (i : Nat) : List Nat :=
  (List.range 8).flatMap fun y => (px.drop ((i / 16 * 8 + y) * 128 + i % 16 * 8)).take 8

/-- A tile's pixels from its blocks' pixels. -/
def tileOfBlocks (blocks : List (List Nat)) : List Nat :=
  (List.range 64).flatMap fun y => (List.range 16).flatMap fun bx =>
    ((blocks.getD (y / 8 * 16 + bx) []).drop (y % 8 * 8)).take 8

/-- Address of a tile's header bytes and of its slot in a frame store (R247). -/
def headerAt (base t : Nat) : Nat := base + 128 * t
def tileSlotAt (base tiles bpp t : Nat) : Nat := base + 128 * tiles + 8192 * bpp * t

/-- The bytes of a tile in a store: its slot and its headers. -/
def storeRanges (base tiles bpp t : Nat) : List (Nat × Nat) := 
  [(tileSlotAt base tiles bpp t, 8192 * bpp), (headerAt base t, 128)]

/-- Encode one block into a tile slot: header byte and sectors. -/
def State.writeBlock (s : State) (base tiles colour t i : Nat) (px : List Nat) : State :=
  let bpp := bppOf colour
  let e := encodeBlock colour bpp px
  (s.writeBytes (headerAt base t + i) [e.1]).writeBytes (tileSlotAt base tiles bpp t + i * 64 * bpp) e.2

/-- Encode a whole tile. -/
def State.writeTile (s : State) (base tiles colour t : Nat) (px : List Nat) : State :=
  (List.range 128).foldl (fun s i => s.writeBlock base tiles colour t i (blockOfTile px i)) s

/-- Decode one block of a tile slot. -/
def State.readBlock (s : State) (base tiles colour t i : Nat) : List Nat :=
  let bpp := bppOf colour
  let hd := s.readByte (headerAt base t + i)
  decodeBlock colour bpp hd (s.readBytes (tileSlotAt base tiles bpp t + i * 64 * bpp) (32 * (hd.toNat % 16 + 1)))

/-- Decode a whole tile. -/
def State.readTile (s : State) (base tiles colour t : Nat) : List Nat :=
  tileOfBlocks ((List.range 128).map fun i => s.readBlock base tiles colour t i)

/-- A tile slot or its header holds poison. -/
def State.tilePoisoned (s : State) (base tiles colour t : Nat) : Bool :=
  s.poisonedAt (headerAt base t) 128 || s.poisonedAt (tileSlotAt base tiles (bppOf colour) t) (8192 * bppOf colour)

/-! ## Zero-run compression (R223, R224) -/

/-- A layer output is compressed on its way out of the array island: RELU, or CLAMP with lo ≥ 0. -/
def zeroRunActivation : FinishPath → Bool
  | .integer p => p.relu
  | .float p => match p.act with
    | .relu => true
    | .clamp lo _ => FNum.le FNum.zero (f32c lo)
    | _ => false

/-- One segment of up to 256 lines: mask and non-zero lines. -/
def packSegment (lines : List (List Byte)) : List Byte :=
  let mask := (List.range 32).map fun j => BitVec.ofNat 8 (bitSet 8 fun b =>
    ((lines[8 * j + b]?).map fun l => l.any fun v => !(v == 0)) == some true)
  mask ++ (lines.filter fun l => l.any fun v => !(v == 0)).flatten

/-- A tensor's bytes as compressed segments, each in its slot of 8,224 bytes (R223); the bytes of a slot behind its last line are 0
(DESIGN CHOICE, log 117). -/
def packSegments (bs : List Byte) : List Byte :=
  (chunks 256 (chunks 32 bs)).flatMap fun seg => slice (packSegment seg) 0 8224

/-- The bytes of a compressed segment expanded to `n` lines. -/
def unpackSegment (n : Nat) (bs : List Byte) : List Byte :=
  ((List.range n).foldl (fun (acc : List Byte × List Byte) i =>
    if bitOf (byteAt bs (i / 8)).toNat (i % 8) then (acc.1 ++ slice acc.2 0 32, acc.2.drop 32)
    else (acc.1 ++ zeros 32, acc.2)) ([], bs.drop 32)).1

/-- Slot of a segment in memory. -/
def segmentSlot : Nat := 8224

/-- Bytes of a tensor in its lines and scales, in whole lines (R125, R155). -/
def tensorSize (d : Tensor) (pad : Nat) : Nat := roundUp (elementBytes d.h d.w d.c d.fmt pad + scaleCount d.h d.w d.c d.fmt pad) 32

/-- A tensor of the shape of `d` from its bytes in lines and scales. -/
def tensorFrom (d : Tensor) (pad : Nat) (bs : List Byte) : Tensor :=
  let n := elementBytes d.h d.w d.c d.fmt pad
  Tensor.ofBytes d.h d.w d.c d.fmt (bs.take n) (bs.drop n)

/-- Bytes that stand zero-run compressed in memory for `n` bytes: whole segments (R223). -/
def packedSize (n : Nat) : Nat := ceilDiv n 8192 * segmentSlot

/-- Expand zero-run segments to `n` bytes (R224). -/
def unpackAll (n : Nat) (bs : List Byte) : List Byte :=
  (List.range (ceilDiv n 8192)).flatMap fun i => unpackSegment (min 256 (n / 32 - 256 * i)) (slice bs (segmentSlot * i) segmentSlot)

end Sys2Proof.Machine
end

