-- ==== Sys2Proof/Machine/Reels.lean ====
section
/-!
DEFINITION. Reels: the checks of REEL_LOAD (R467), the figures that a load fixes (R72, R200, R233, R263, R427), and the
hot set (R235 to R240).
-/
namespace Sys2Proof.Machine

/-! ## Format checks (check 2 of R467) -/

/-- The step uses the cells. -/
def stepOnCells (st : Step) : Bool :=
  match st.op with
  | .matmul _ | .conv _ _ _ _ | .warp _ _ _ _ _ _ | .expert _ _ _ => true
  | _ => false

def constantPad : PadMode → Bool
  | .constant _ => true
  | _ => false

/-- Formats that pooling and resampling allow (Table 5.4). -/
def poolFmt : Fmt → Bool
  | .int8 | .e4m3 | .e5m2 | .bf16 | .fp16 => true
  | _ => false

/-- The weights that a step reads from the stage image. -/
def weightsOf (st : Step) : List Tensor :=
  match st.op with
  | .matmul (some w) | .conv _ _ _ w | .warp _ _ _ _ _ w => [w]
  | .expert ws _ _ => ws
  | _ => []

/-- The second input is the operand on the column feed, or the second operand of R197. -/
def secondOperand (st : Step) : Bool :=
  match st.op with
  | .matmul none | .eltwise _ none => true
  | _ => false

/-- What a step reads from an earlier step has the format that the step declares for it (R120, R188). -/
def inputFmtOk (steps : List Step) (st : Step) : Bool :=
  (st.inputs.zip (List.range st.inputs.length)).all fun x =>
    match x.1 with
    | .step k => (steps[k]?).any fun e => match x.2 with
        | 0 => e.finish.out == st.aFmt
        | 1 => !secondOperand st || e.finish.out == st.bFmt
        | _ => true
    | _ => true

/-- The formats of one step are valid (R120, R124, R166, R175, R180, R188, R196): its codes name formats, its weights and its
earlier layers have the formats it declares, and the operator and the finishing path allow them. -/
def stepFormatOk (steps : List Step) (st : Step) : Bool :=
  [st.aCode, st.bCode, st.finish.outCode].all (fun c => (Fmt.ofCode c).isSome) &&
  (weightsOf st).all (fun w => w.fmt == st.bFmt) && inputFmtOk steps st &&
  (match st.op with
    | .matmul _ | .expert _ _ _ => pairOk st.aFmt st.bFmt
    | .conv _ _ pad _ => pairOk st.aFmt st.bFmt && !(constantPad pad && Fmt.isMx st.aFmt)
    | .warp _ _ _ _ _ _ => (st.aFmt == .int8 && st.bFmt == .int8) || (Fmt.isFp8 st.aFmt && Fmt.isFp8 st.bFmt) ||
        (Fmt.is16 st.aFmt && st.aFmt == st.bFmt)
    | .pool _ _ _ | .resample _ _ _ => poolFmt st.aFmt && st.finish.out == st.aFmt
    | .norm _ _ _ _ => poolFmt st.aFmt || st.aFmt == .fp32
    | _ => true) &&
  (match st.finish.path with
    | .integer _ => stepOnCells st && pairExact st.aFmt st.bFmt && Fmt.isInt st.finish.out
    | .float _ => true)

/-- The sequences of a reel: tween, key, and each dailies take by itself. -/
def reelSequences (r : Reel) : List (List Step) := [r.tween, r.key] ++ r.dailies.map fun d => [d.step]

def reelFormatOk (r : Reel) : Bool :=
  (reelSequences r).all (fun steps => steps.all (stepFormatOk steps)) &&
  r.dailies.all fun d => d.inputs.all fun ins => (ins.headD emptyTensor).fmt == d.step.aFmt

/-! ## Parameter checks (check 3 of R467) -/

def within (lo hi x : Nat) : Bool := decide (lo ≤ x) && decide (x ≤ hi)

/-- Table 3.2. -/
def motionOk (m : MotionParams) : Bool :=
  within 0 255 m.matchLambda && within 0 4095 m.oobCost && within 0 1 m.hintUse && within 0 255 m.censusNoise &&
  within 0 255 m.flatSpan && within 0 255 m.occTol && within 0 4 m.rayShare

/-- The ranges of Table 5.2 with a filter limit, and the numerators of R165. -/
def windowOk (w : Window) (top h n : Nat) : Bool :=
  within 1 top w.kh && within 1 top w.kw && within 1 16 w.sy && within 1 16 w.sx && within 1 64 w.dy && within 1 64 w.dx &&
  within 0 255 w.pt && within 0 255 w.pb && within 0 255 w.pl && within 0 255 w.pr &&
  (outExtent h w.pt w.pb w.dy w.kh w.sy).isSome && (outExtent n w.pl w.pr w.dx w.kw w.sx).isSome

/-- G divides Ci and Co (Table 5.2). -/
def groupsOk (g ci co : Nat) : Bool := within 1 ci g && ci % max 1 g == 0 && co % max 1 g == 0

/-- Groups of products of one reduction stay within 2^22 (R134, R136): 32 elements for an MX pair, else those of one cycle. -/
def boundOk (st : Step) : Bool :=
  let g := if Fmt.isMx st.aFmt then 32 else kappa st.aFmt st.bFmt
  (List.range (ceilDiv st.co 32)).all fun j => decide (ceilDiv (krOf st j) g ≤ 2 ^ 22)

/-- Q is 1 to 64 for each P; under CANONICAL a 16-bit layer declares one Qc, a power of two, for every P (R291, R526). -/
def splitsOk (canonical : Bool) (st : Step) : Bool :=
  st.splits.isEmpty ||
  (st.splits.length == 36 && st.splits.all (within 1 64) &&
    (!(canonical && Fmt.is16 st.aFmt) ||
      (st.splits.all fun q => q == st.splits.headD 1 && [1, 2, 4, 8, 16, 32, 64].contains q)))

/-- Channels that a step's operator gives. -/
def outChannels (st : Step) : Nat :=
  match st.op with
  | .pool _ _ _ | .resample _ _ _ | .norm _ _ _ _ | .eltwise _ _ | .combine _ _ => effCi st
  | _ => st.co

/-- Space-to-depth divides the input, depth-to-space the channels (R171, R173); a sub-position of R174 lies in its map. -/
def blockFactorsOk (st : Step) : Bool :=
  let f := st.finish.d2s
  [1, 2, 4, 8].contains st.s2d && st.hi % max 1 st.s2d == 0 && st.wi % max 1 st.s2d == 0 && [1, 2, 4, 8].contains f &&
  (match st.finish.into with
    | some (_, e) => decide (e < f * f) && !st.finish.transposed
    | none => outChannels st % (f * f) == 0)

/-- Offset groups of R175: equal, each a whole number of lines. -/
def offsetGroupsOk (st : Step) : Granularity → Bool
  | .perTapGroup k => [1, 2, 4, 8].contains k && effCi st % (k * Fmt.lane st.aFmt) == 0
  | _ => true

/-- The convolutions that interleave into one tensor have disjoint output banks, different places and one factor (R174). -/
def interleaveOk : List Step → Bool
  | [] => true
  | a :: rest => (rest.all fun b => match a.finish.into, b.finish.into with
      | some (t, e), some (u, g) => !(t == u) || (!(e == g) && a.finish.d2s == b.finish.d2s && !a.outBanks.any b.outBanks.contains)
      | _, _ => true) && interleaveOk rest

/-- The parameters of one step are in range (R136, R157, R158, R160, R164, R165, R171, R175, R180, R184, R204 to R212); `tiles`
is the largest number of tiles in a take of it. -/
def stepParamOk (canonical : Bool) (tiles : Nat) (st : Step) : Bool :=
  let h := effH st
  let w := effW st
  let ci := effCi st
  st.innermost && !(st.inBanks.any fun b => st.outBanks.contains b) && splitsOk canonical st &&
  [1, 2, 4, 8].contains st.sigma && blockFactorsOk st &&
  (match st.op with
    | .matmul _ => within 1 16777216 (h * w * tiles) && within 1 65536 st.co && decide (1 ≤ ci) && boundOk st
    | .conv win g _ _ => within 1 4096 h && within 1 4096 w && within 1 16384 ci && within 1 16384 st.co &&
        windowOk win 63 h w && groupsOk g ci st.co && boundOk st
    | .warp win g _ gran off _ => within 1 4096 h && within 1 4096 w && within 1 16384 ci && within 1 16384 st.co &&
        windowOk win 15 h w && groupsOk g ci st.co && boundOk st && offsetGroupsOk st gran &&
        (match off with | .motion _ c t => within 0 2 c && within 0 4 t | .tensor => true)
    | .pool _ p _ => within 1 16 p.kh && within 1 16 p.kw && within 1 16 p.sy && within 1 16 p.sx && decide (p.pt < p.kh) &&
        decide (p.pb < p.kh) && decide (p.pl < p.kw) && decide (p.pr < p.kw) &&
        (outExtent h p.pt p.pb 1 p.kh p.sy).isSome && (outExtent w p.pl p.pr 1 p.kw p.sx).isSome
    | .resample _ wo ho => within 1 8192 h && within 1 8192 w && within 1 8192 wo && within 1 8192 ho &&
        decide (wo ≤ 8 * w) && decide (w ≤ 8 * wo) && decide (ho ≤ 8 * h) && decide (h ≤ 8 * ho)
    | .norm _ _ _ _ => within 1 16384 ci
    | .eltwise _ _ => true
    | .boxes p => within 1 16 p.ncls && within 1 8 p.anchors.length && [1, 2, 4, 8, 16, 32].contains p.st &&
        within 1 4096 p.kPre && within 1 256 p.kOut
    | .gate e k cf => within 2 64 e && within 1 2 k && within 16 64 cf
    | .expert ws k cf => within 2 64 ws.length && within 1 2 k && within 16 64 cf && boundOk st
    | .combine e k => within 2 64 e && within 1 2 k)

/-- Dailies run on one chip and join canonically, whatever the reel's mode and scope (R298). -/
def LoadShape.ofDailies (arrays engines : Nat) : LoadShape := ⟨true, arrays, engines, 1, 0, arrays⟩

/-- Cycles of one dailies take, whose path is chosen over its own tiles. -/
def dailiesCycles (arrays engines : Nat) (t : DailiesTake) : Nat :=
  chosenCycles (LoadShape.ofDailies arrays engines) [t.step] t.step t.inputs.length t.inputs.length

/-- Every dailies take fits in the cycles beside the repair window (R427). -/
def dailiesFit (r : Reel) (arrays engines : Nat) : Bool :=
  r.dailies.all fun t => decide (dailiesCycles arrays engines t ≤ 1436)

/-- cyc_k(b) never decreases and cyc_k(β) is at most 6,000, for every take that the step makes (R264). -/
def stepTimesOk (u : LoadShape) (steps : List Step) (beta : Nat) (st : Step) : Bool :=
  (u.partsRun st).all fun part =>
    let cyc (b : Nat) : Nat := stepCycles u steps (choosesFreq u steps st beta) st b part
    decide (cyc beta ≤ 6000) && (List.range (beta - 1)).all fun b => decide (cyc (b + 1) ≤ cyc (b + 2))

/-- The checks of R467 that depend on P, E and the set. -/
def reelFits (r : Reel) (u : LoadShape) : Bool :=
  ([r.tween, r.key].all fun steps => steps.all (stepTimesOk u steps r.beta)) && dailiesFit r u.arrays u.engines

/-- The parameters are in range (R89, R136, R157, R158, R165, R174, R216, R263, R264, R298, R427). -/
def reelParamOk (r : Reel) (u : LoadShape) : Bool :=
  motionOk r.motion && within 0 4095 r.edgeStep && within 1 32 r.beta && within 0 64 r.overscan &&
  decide (r.tween.length ≤ 256) && decide (r.key.length ≤ 256) &&
  (r.tween ++ r.key).all (stepParamOk r.canonical r.beta) && (r.dailies.all fun d => stepParamOk true d.inputs.length d.step) &&
  interleaveOk r.tween && interleaveOk r.key && reelFits r u

/-! ## The figures of a load -/

/-- Greedy portions of at most 1,436 cycles, in take order (R427): indices of the takes of each portion. -/
def portionsOf (r : Reel) (arrays engines : Nat) : List (List Nat) :=
  let go := (r.dailies.zip (List.range r.dailies.length)).foldl (fun (acc : List (List Nat) × List Nat × Nat) t =>
    let c := dailiesCycles arrays engines t.1
    if acc.2.2 + c ≤ 1436 then (acc.1, acc.2.1 ++ [t.2], acc.2.2 + c)
    else (acc.1 ++ [acc.2.1], [t.2], c)) ([], [], 0)
  if go.2.1.isEmpty then go.1 else go.1 ++ [go.2.1]

/-- The shape of a loaded reel: the set counts only in set scope (R393). -/
def LoadedReel.shape (r : LoadedReel) (index : Nat) : LoadShape :=
  if r.setScope then ⟨r.content.canonical, r.arrays, r.engines, r.chips, index, r.arrays⟩
  else ⟨r.content.canonical, r.arrays, r.engines, 1, 0, r.arrays⟩

/-- The shape that a load now would fix. -/
def State.shapeNow (s : State) (canonical setScope : Bool) : LoadShape :=
  if setScope then ⟨canonical, s.nextArrays, s.nextEngines, max 1 s.set.members.length, s.set.index, s.nextArrays⟩
  else ⟨canonical, s.nextArrays, s.nextEngines, 1, 0, s.nextArrays⟩

/-- What a load under R4 and R492 fixes: P, E, n, maps, costs, paths (R202) and portions. -/
def LoadedReel.load (s : State) (r : LoadedReel) : LoadedReel :=
  let u := s.shapeNow r.content.canonical r.setScope
  { r with
    ready := true, reload := false, arrays := u.arrays, engines := u.engines, chips := max 1 s.set.members.length,
    positions := s.fitBlocks.take u.arrays, engineMap := s.workingEngines.take u.engines,
    cTween := sequenceCost u r.content.beta r.content.tween, cKey := sequenceCost u r.content.beta r.content.key,
    freqTween := r.content.tween.map fun st => choosesFreq u r.content.tween st r.content.beta,
    freqKey := r.content.key.map fun st => choosesFreq u r.content.key st r.content.beta,
    portions := portionsOf r.content u.arrays u.engines }

/-- Cycles per tile that a member of the set owes for the SPLIT and EXPERT steps of other owners' tiles (R395; log 25). -/
def memberShare (r : Reel) (u : LoadShape) : Nat :=
  let owed (steps : List Step) (st : Step) : Nat :=
    (((u.partsRun st).filter fun p => match p with
      | .share | .expert _ => true
      | _ => false).map (stepCycles u steps false st r.beta)).sum
  max (ceilDiv (r.tween.map (owed r.tween)).sum r.beta) (ceilDiv (r.key.map (owed r.key)).sum r.beta)

/-- The steps of a tile of the given kind. -/
def reelSteps (r : Reel) (key : Bool) : List Step := if key then r.key else r.tween

/-! ## The hot set -/

/-- Bytes of a tensor of weights in the stage image: its lines and its scales (R125, R155). -/
def weightBytes (pad : Nat) (t : Tensor) : Nat := elementBytes t.h t.w t.c t.fmt pad + scaleCount t.h t.w t.c t.fmt pad

/-- Weights of a step that a chip keeps (R241, R393): the experts whose home it is, and its range of a split reduction. -/
def stepWeightBytes (u : LoadShape) (st : Step) : Nat :=
  let pad := pairLine st.aFmt st.bFmt
  let all := ((weightsOf st).map (weightBytes pad)).sum
  match st.op with
  | .expert ws _ _ => if u.chips ≤ 1 then all
      else ((u.expertsOf ws.length u.index).map fun e => weightBytes pad (ws.getD e emptyTensor)).sum
  | _ => if u.splits st then ceilDiv (all * (u.partsOf st u.index).2) (u.parts st) else all

/-- A reel's stage image (R236): every weight, scale, bias, table and knot that its takes read on this chip, rounded up to
64 KiB. -/
def LoadedReel.image (r : LoadedReel) (index : Nat) : Nat :=
  let u := r.shape index
  roundUp (r.content.constBytes + ((r.content.tween ++ r.content.key).map (stepWeightBytes u)).sum +
    (r.content.dailies.map fun d => stepWeightBytes { u with chips := 1 } d.step).sum) Config.poolUnit

/-- A reel is pinned while an open DEADLINE stream that is not in PASSTHROUGH names it (R237). -/
def State.pinned (s : State) (h : Nat) : Bool :=
  s.openStreams.any fun i =>
    let x := s.stream i
    x.p.reel == h && !x.p.batch && !(x.p.mode == .passthrough) && !x.downgraded

/-- The frame's start has been processed and it still has takes placed or to be placed (R238). -/
def Frame.busy (f : Frame) (units : Nat) : Bool :=
  f.cold.isSome && f.tiles.any fun t => !t.takes.isEmpty || (decide (t.ended < units) && !t.withdrawn)

/-- The units of a frame's sequence, in the shape of the load that the frame runs under. -/
def State.frameShape (s : State) (r : LoadedReel) (f : Frame) : LoadShape :=
  if f.begun then { r.shape s.set.index with arrays := f.active, split := f.arrays, engines := f.engines,
                                              chips := if r.setScope then f.chips else 1 }
  else r.shape s.set.index

def State.frameUnitsOf (s : State) (r : LoadedReel) (f : Frame) : List (Nat × Part) :=
  (s.frameShape r f).unitsOf (reelSteps r.content f.keySeq)

/-- A reel is in use from a frame start until the frame's takes have ended or been withdrawn (R238). -/
def State.reelInUse (s : State) (h : Nat) : Bool :=
  s.openStreams.any fun i =>
    let x := s.stream i
    x.p.reel == h && x.frames.any fun f => f.busy (match s.reel? h with
      | some r => (s.frameUnitsOf r f).length
      | none => 0)

/-- The image of a loaded reel on this chip. -/
def State.imageOf (s : State) (r : LoadedReel) : Nat := r.image s.set.index

/-- Weight store held by hot reels. -/
def State.hotBytes (s : State) : Nat := ((s.reels.filter fun r => r.hot.isSome).map s.imageOf).sum

/-- The candidate of R239: hot, neither pinned nor in use, least last_use, then lowest handle. -/
def State.evictee (s : State) : Option Nat :=
  (s.reels.foldl (fun (best : Option (Nat × Nat)) r =>
    if r.hot.isSome && !s.pinned r.handle && !s.reelInUse r.handle then
      match best with
      | some (u, h) => if r.lastUse < u ∨ (r.lastUse = u ∧ r.handle < h) then some (r.lastUse, r.handle) else best
      | none => some (r.lastUse, r.handle)
    else best) none).map (·.2)

/-- Evict a reel: nothing moves. -/
def State.evict (s : State) (h : Nat) : State := s.updReel h fun r => { r with hot := none, filled := [] }

/-- The lowest free 64 KiB units of the weight store that hold an image of `len` bytes (R239). Unit `u` lies at the same offset of the
weight store of every region, whose banks are those of `weightStoreBanks` (R235, R236). -/
def State.hotUnits (s : State) (len : Nat) : List Nat :=
  let taken := s.reels.flatMap fun r => r.hot.getD []
  ((List.range (s.weightStore / Config.poolUnit)).filter fun u => !taken.contains u).take (len / Config.poolUnit)

/-- Evict until the image fits; the flag says whether it does (R239). -/
def State.makeRoom (s : State) (len : Nat) : Nat → State × Bool
  | 0 => (s, decide (s.hotBytes + len ≤ s.weightStore))
  | fuel + 1 =>
    if s.hotBytes + len ≤ s.weightStore then (s, true)
    else match s.evictee with
      | none => (s, false)
      | some h => State.makeRoom (s.evict h) len fuel

/-- Make a reel hot if the procedure of R239 allows; the flag says whether it is hot afterwards. -/
def State.makeHot (s : State) (h : Nat) : State × Bool :=
  match s.reel? h with
  | none => (s, false)
  | some r =>
    if r.hot.isSome then (s, true)
    else if s.weightStore < s.imageOf r then (s, false)
    else
      let m := s.makeRoom (s.imageOf r) s.reels.length
      if m.2 then
        (m.1.updReel h fun x => { x with hot := some (m.1.hotUnits (s.imageOf r)), filled := [] }, true)
      else (m.1, false)

/-- Every unit of a hot reel's image has had its fill acknowledged. -/
def LoadedReel.resident (r : LoadedReel) : Bool := match r.hot with
  | some us => us.all r.filled.contains
  | none => false

/-- A frame start of a reel (R238, R239): the next h, last_use, the hot decision; the flag says whether it runs cold. -/
def State.reelFrameStart (s : State) (h : Nat) : State × Bool :=
  let s1 := ({ s with seq := { s.seq with h := s.seq.h + 1 } }).updReel h fun r => { r with lastUse := s.seq.h }
  let m := s1.makeHot h
  (m.1, !m.2)

/-- Images of all pinned reels, with those of `hs` pinned as well. -/
def State.pinnedBytes (s : State) (hs : List Nat) : Nat :=
  ((s.reels.filter fun r => hs.contains r.handle || s.pinned r.handle).map s.imageOf).sum

/-- The reel of the most recently opened DEADLINE stream that pins one (R252). -/
def State.newestPin (s : State) : Option Nat :=
  (s.openStreams.foldl (fun (best : Option (Nat × Nat)) i =>
    let x := s.stream i
    if x.p.batch || x.p.mode == .passthrough || x.downgraded then best
    else match best with
      | some (o, _) => if o < x.opened then some (x.opened, x.p.reel) else best
      | none => some (x.opened, x.p.reel)) none).map (·.2)

/-- The hot set after the weight store has shrunk (R235, R252): where the pinned images no longer fit, the reel of the newest
DEADLINE stream leaves it; a hot reel with units beyond the capacity is placed anew where it is pinned and fits, and is evicted
where it is not. -/
def State.shrinkHot (s : State) : State :=
  let beyond := s.reels.filter fun r => (r.hot.getD []).any fun u => decide (s.weightStore ≤ u * Config.poolUnit)
  let cold := if s.weightStore < s.pinnedBytes [] then s.newestPin else none
  let s1 := (beyond.map (·.handle) ++ cold.toList).foldl State.evict s
  (beyond.filter fun r => s.pinned r.handle && !(cold == some r.handle)).foldl (fun s r => (s.makeHot r.handle).1) s1

end Sys2Proof.Machine
end

