-- ==== Sys2Proof/Machine/Streams.lean ====
section
/-!
DEFINITION. Opening and closing a stream: the checks of Table 2.8, the stream store and rings (R242, R326, R451), the
active-stream table entry (Table 8.2), and what a stream's return to FREE does (R259, R440, R469).
-/
namespace Sys2Proof.Machine

/-! ## Check 2 of Table 2.8 -/

/-- Both scales lie in 0.5 to 1.0, and are 1.0 in TWEEN (R43). -/
def StreamParams.scaleOk (p : StreamParams) : Bool :=
  decide (p.outW ≤ 2 * p.renW) && decide (p.renW ≤ p.outW) && decide (p.outH ≤ 2 * p.renH) && decide (p.renH ≤ p.outH) &&
  (!(p.mode == .tween) || (p.renW == p.outW && p.renH == p.outH))

/-- frames_per_key under Table 2.1; it does not apply to BATCH (R78). -/
def StreamParams.framesOk (p : StreamParams) : Bool :=
  p.batch || (match p.mode with
    | .upscale => p.n == 1
    | .tween => within 2 8 p.n
    | .both | .passthrough => within 1 8 p.n)

/-- Table size of the tile-list area (R326). -/
def StreamParams.recordTable (p : StreamParams) : Nat := roundUp (2 * p.tileCount * 4) Config.poolUnit

/-- overlay_area of R326. -/
def StreamParams.overlayOk (p : StreamParams) : Bool :=
  p.overlayArea == 0 ||
  (p.overlayArea % Config.poolUnit == 0 && decide (roundUp (p.recordTable + 8 * p.columns * 256) Config.poolUnit ≤ p.overlayArea) &&
    decide (p.overlayArea ≤ 0x4000_0000))

/-- A signed field of a row of a tolerance table. -/
def tolField (t : List Byte) (row off n : Nat) : Int := leInt t (16 + 24 * row + off) n

/-- safety_relevant of a table. -/
def tolSafety (t : List Byte) : Bool := bitOf (byteAt t 2).toNat 0

def StreamParams.safety (p : StreamParams) : Bool := p.tolerance.any tolSafety

/-- R405: version, ordered bounds, hist_max. -/
def toleranceOk (t : List Byte) : Bool :=
  leNat t 0 2 == 1 && [0, 1].all fun r =>
    decide (tolField t r 0 2 ≤ tolField t r 2 2) && decide (tolField t r 4 4 ≤ tolField t r 8 4) &&
    decide (tolField t r 0xC 2 ≤ tolField t r 0xE 2) && decide (leNat t (16 + 24 * r + 0x10) 2 ≤ 2048)

/-- Ring depths of Table 14.11 (R468), and tensor_depth_log2: 0 where the reel declares no host-tensor ring. -/
def StreamParams.depthsOk (p : StreamParams) (tensorRings : List (Nat × Nat)) : Bool :=
  ((List.range 7).all fun i => match p.depthRange i with
    | some r => within r.1 r.2 (p.depths.getD i 0)
    | none => p.depths.getD i 0 == 0) &&
  (if tensorRings.isEmpty then p.tensorDepth == 0 else within 1 8 p.tensorDepth)

/-- Every parameter lies in its range: Table 2.2, R41, R43, R326, R405, R406, Table 14.11. -/
def StreamParams.inRange (p : StreamParams) (tensorRings : List (Nat × Nat)) : Bool :=
  within 256 7680 p.outW && p.outW % 8 == 0 && within 256 4320 p.outH && p.outH % 2 == 0 &&
  within 256 7680 p.renW && p.renW % 16 == 0 && within 256 4320 p.renH && p.renH % 8 == 0 &&
  within 1 8 p.leadRows && within 2 32 p.overlayBeats && decide (p.colour ≤ 2) && decide (p.planes ≤ 3) &&
  !(p.batch && p.gate.isSome) && (p.gate.isSome || within 23976 240000 p.outRate) &&
  p.framesOk && p.scaleOk && p.overlayOk && p.tolerance.all toleranceOk &&
  (!p.safety || (!p.batch && p.gate.isSome && decide (p.tileCount ≤ 2048))) && p.depthsOk tensorRings

/-- Check 3: planes, colour format and sequences of the reel (R43). -/
def reelMatches (r : Reel) (p : StreamParams) : Bool :=
  (List.range 2).all (fun b => (!bitOf p.planes b || bitOf r.planesAccept b) && (!bitOf r.planesNeed b || bitOf p.planes b)) &&
  r.colourFormats.contains p.colour &&
  (match p.mode with
    | .upscale => !r.key.isEmpty
    | .tween => !r.tween.isEmpty
    | .both => !r.key.isEmpty && !r.tween.isEmpty
    | .passthrough => true)

/-- Check 4: the gate is configured, not held, and may be a destination (R41, R355). -/
def State.gateFree (s : State) (p : StreamParams) : Bool :=
  match p.gate with
  | none => true
  | some g => (match (s.gate g).cfg with
      | none => false
      | some c => c.enable) && (s.gate g).holder.isNone && !(s.cloneMode && g ≠ 0)

/-- Check 5: out_width and out_height equal the gate's active size (Table 2.2). -/
def State.gateSizeOk (s : State) (p : StreamParams) : Bool :=
  match p.gate with
  | none => true
  | some g => match (s.gate g).cfg with
    | none => false
    | some c => c.hActive == p.outW && c.vActive == p.outH

/-! ## The store of a stream (Table 7.4) and its rings -/

/-- Bytes of one frame of a tile store. -/
def StreamParams.storeBytes (p : StreamParams) : Nat := p.tileCount * (8192 * p.bpp + 128)

/-- Extents of pyramid level l (R91). -/
def levelExtent : Nat → Nat → Nat
  | 0, n => n
  | l + 1, n => ceilDiv (levelExtent l n) 2

/-- Pixels of levels 0 to 4. -/
def StreamParams.pyramidPixels (p : StreamParams) : Nat :=
  ((List.range 5).map fun l => levelExtent l p.renW * levelExtent l p.renH).sum

/-- The parts of a stream store: kind, instance and bytes. -/
def StreamParams.storeParts (p : StreamParams) : List (Nat × Nat × Nat) :=
  let pass := p.mode == .passthrough
  let two (k n : Nat) (on : Bool) : List (Nat × Nat × Nat) := if on then [(k, 0, n), (k, 1, n)] else []
  two 0 (p.tileCount * 8) (!p.batch) ++ two 1 p.storeBytes true ++ two 2 p.storeBytes (!pass) ++
  two 3 p.storeBytes (!p.batch) ++ two 4 (p.renW * p.renH * 8) (!pass) ++
  (if pass then [] else (List.range 3).map fun i => (5, i, 2 * p.pyramidPixels))

/-- The rings that are set up: index, slot size, depth. -/
def StreamParams.ringPlan (p : StreamParams) (tensorRings : List (Nat × Nat)) : List (Nat × Nat × Nat) :=
  ((List.range 7).filterMap fun i => (p.depthRange i).map fun _ => (i, p.ringBytes i, p.depths.getD i 0)) ++
  tensorRings.map fun r => (r.1, roundUp r.2 64, p.tensorDepth)

/-- Bytes after the slots of a BATCH stream's print ring that hold its two tile maps (Table 7.4; log 26). -/
def StreamParams.mapTail (p : StreamParams) : Nat := if p.batch then 2 * roundUp (p.tileCount * 8) Config.poolUnit else 0

/-- Allocate one part of the store and record its address. -/
def State.allocPart (s : State) (st : Nat) (k i len : Nat) : Option State :=
  (s.alloc len (.store st (8 * k + i))).map fun r =>
    (r.1.openWindow r.2 (roundUp len Config.poolUnit) false (.store st (8 * k + i))).updStream st fun x =>
      let h := x.homes
      { x with homes := match k with
          | 0 => { h with tileMap := h.tileMap ++ [r.2] }
          | 1 => { h with fallback := h.fallback ++ [r.2] }
          | 2 => { h with generated := h.generated ++ [r.2] }
          | 3 => { h with composite := h.composite ++ [r.2] }
          | 4 => { h with records := h.records ++ [r.2] }
          | _ => { h with pyramids := h.pyramids ++ [r.2] } }

/-- Write a ring's descriptor with empty indices (Table 14.10). -/
def State.initRing (s : State) (st i base entryBytes depth : Nat) : State :=
  let a := (s.stream st).homes.ringTable + 32 * i
  s.writeBytes a (leBytes 8 base ++ leBytes 4 entryBytes ++ leBytes 1 depth ++ leBytes 1 (bitN (balimRing i)) ++ zeros 18)

/-- Allocate one ring. -/
def State.allocRing (s : State) (st i entryBytes depth tail : Nat) : Option State :=
  let len := entryBytes * 2 ^ depth
  let slots := roundUp len Config.poolUnit
  (s.alloc (slots + tail) (.ring st i)).map fun r =>
    let s1 := (r.1.openWindow r.2 (slots + tail) (!balimRing i) (.ring st i)).initRing st i r.2 entryBytes depth
    if tail = 0 then s1
    else s1.updStream st fun x =>
      { x with homes := { x.homes with tileMap := [r.2 + slots, r.2 + slots + tail / 2] } }

/-- Sum of the rounded sizes of store, rings, ring table and tile-list area (Table 14.21). -/
def StreamParams.totalBytes (p : StreamParams) (tensorRings : List (Nat × Nat)) : Nat :=
  let r (n : Nat) := roundUp n Config.poolUnit
  (p.storeParts.map fun x => r x.2.2).sum + ((p.ringPlan tensorRings).map fun x => r (x.2.1 * 2 ^ x.2.2)).sum + r 8192 +
  p.overlayArea

/-- Allocate everything a stream needs; none when the pool cannot hold it (check 8). -/
def State.allocStream (s : State) (st : Nat) (p : StreamParams) (tensorRings : List (Nat × Nat)) : Option State := do
  let t ← s.alloc 8192 (.ringTable st)
  let s0 := ((t.1.openWindow t.2 Config.poolUnit false (.ringTable st)).writeBytes t.2 (zeros 8192)).updStream st fun x =>
    { x with homes := { Homes.reset with ringTable := t.2, bytes := p.totalBytes tensorRings } }
  let s1 ← p.storeParts.foldlM (fun s q => s.allocPart st q.1 q.2.1 q.2.2) s0
  let s2 ← (p.ringPlan tensorRings).foldlM (fun s q =>
    s.allocRing st q.1 q.2.1 q.2.2 (if q.1 = 5 then p.mapTail else 0)) s1
  if p.overlayArea = 0 then pure s2
  else
    let o ← s2.alloc p.overlayArea (.overlayArea st)
    pure ((o.1.openWindow o.2 p.recordTable false (.overlayArea st)).updStream st fun x =>
      { x with homes := { x.homes with overlay := o.2 } })

/-! ## Opening -/

/-- A response status with its detail. -/
abbrev Refused := Nat × Nat

/-- The loads after the open: those open now and the new stream. -/
def State.loadsWith (s : State) (st : Nat) (p : StreamParams) : List Load :=
  let c := s.reelCosts p.reel
  s.loads ++ [⟨st, p, c.1, c.2⟩]

/-- ΣD fits in C_avail after the open (R74, R75). -/
def State.capacityFits (s : State) (ls : List Load) : Bool := Frac.le (s.totalDemand ls) (cAvail (batchAmong ls))

/-- Safety-relevant streams open (R406). -/
def State.safetyCount (s : State) : Nat := (s.openStreams.filter fun i => (s.stream i).p.safety).length

/-- Every DEADLINE stream keeps Tp ≤ 500 beats (R70). -/
def State.latencyFits (s : State) (ls : List Load) : Bool :=
  ls.all fun l => l.p.batch || decide ((s.figures ls l).tp ≤ 500)

/-- A member of the set refuses a check of a set reel's stream (R395): its share of the stream's cycles alone exceeds C_avail of
check 6, or its other streams and its banks leave no room, which no rule shows to the owner (log 97). -/
def State.memberRefuses (s : State) (r : LoadedReel) (p : StreamParams) (check : Nat) : Bool :=
  r.setScope && (List.range s.set.members.length).any fun i =>
    let share := memberShare r.content { r.shape s.set.index with index := i }
    i != s.set.index &&
    ((check == 6 && !Frac.le (s.demandOf p share share) (cAvail p.batch)) || Config.memberRefuses s.free i check share)

/-- Checks 1 to 9 of Table 2.8 but for the allocation itself; checks 6 and 8 also on every member (R395). -/
def State.openRefused (s : State) (st : Nat) (m : List Byte) : Option Refused :=
  match s.reel? (leNat m 0x10 2) with
  | none => some (eNoReel, 1)
  | some r =>
    match parseOpen m with
    | none => some (eParam, 2)
    | some p =>
      let ls := s.loadsWith st p
      if !p.inRange r.content.tensorRings then some (eParam, 2)
      else if !reelMatches r.content p then some (eFormat, 3)
      else if !s.gateFree p then some (eGateBusy, 4)
      else if !s.gateSizeOk p then some (eParam, 5)
      else if !s.capacityFits ls || (p.safety && decide (2 ≤ s.safetyCount)) || s.memberRefuses r p 6 then some (eCapacity, 6)
      else if !s.motionFits ls then some (eCapacity, 7)
      else if !(p.batch || p.mode == .passthrough) && decide (s.weightStore < s.pinnedBytes [p.reel]) then some (eNoMemory, 8)
      else if (s.allocStream st p r.content.tensorRings).isNone || s.memberRefuses r p 8 then some (eNoMemory, 8)
      else if !s.latencyFits ls then some (eLatency, 9)
      else none

/-- The first gate frame that a new DEADLINE stream can use: the first whose cutoff has not passed (log 27). -/
def State.firstGateFrame (s : State) (g : Gate) (tp : Nat) : Nat :=
  match g.cfg with
  | none => 0
  | some c =>
    let period := lineTime c.hTotal c.vTotal c.nominal
    let need := (s.clock.clap + tp * 500) * subTicks
    let now := g.startOf c 0
    if need ≤ now then g.frame else g.frame + ceilDiv (need - now) (max 1 period)

/-- Put an admitted stream into OPEN: store and rings, gate, tolerance table, pinned reel, figures (R237, R259, R468). -/
def State.openStream (s : State) (st : Nat) (p : StreamParams) (r : LoadedReel) : State :=
  match s.allocStream st p r.content.tensorRings with
  | none => s
  | some s0 =>
    let homes := (s0.stream st).homes
    let ls := s.loadsWith st p
    let fig := s.figures ls ⟨st, p, r.cTween, r.cKey⟩
    let g := match p.gate with
      | some g => s.gate g
      | none => Gate.reset
    let s1 := (s0.updStream st fun _ =>
      { Stream.reset with
        state := .open_, p := p, opened := s.opens, homes := homes, tp := fig.tp, gateBeats := fig.gateBeats,
        gateBase := s.firstGateFrame g fig.tp,
        rasterStart := (s.clock.clap + fig.tp * 500) * subTicks + Config.rasterPhase s.free % max 1 (rasterPeriod p) }).spend
    let s2 := { s1 with opens := s.opens + 1 }
    let s3 := match p.gate with
      | some g => s2.updGate g fun x => { x with holder := some st }
      | none => s2
    let d : Decisions :=
      { stream := st, tolerance := p.tolerance, safety := p.safety, downgraded := false, frames := [], regions := [],
        readback := [], rejects := [], judgedFrames := [], regionFrames := [], rbFrame := none, rbTiles := [], rbCount := 0,
        rbRowTs := none, rbWorst := 0, matched := [] }
    let s4 := { s3 with chk := { s3.chk with streams := s3.chk.streams ++ [d] } }
    let s5 := s4.recompute.updStream st fun x =>
      { x with account := 0, pRow := if p.batch then 0
          else 64 * (s4.frameRaster st 0).num / max 1 (s4.frameRaster st 0).den / beatSub }
    if s5.pinned p.reel then (s5.makeHot p.reel).1 else s5

/-! ## Closing -/

/-- The entry names the stream. -/
def Entry.names (e : Entry) (st : Nat) : Bool := e.tiles.any fun t => t.stream == st

/-- Sealed entries without a final token: those the sequencer still knows (Table 8.1). -/
def State.sealedFor (s : State) (st : Nat) : Bool := s.seq.known.any fun e => e.names st

/-- Doorbells of a stream that turns FREE are ignored, each with its log entry (R261). -/
def State.ignoreDoorbells (s : State) (st : Nat) : State :=
  let mine := s.doorbells.filter fun d => d.stream == st
  mine.foldl (fun (s : State) (d : DoorbellWrite) => s.doorbellIgnored d.stream d.ring d.index)
    { s with doorbells := s.doorbells.filter fun d => d.stream ≠ st }

/-- Drop all that is kept for a stream that returns to FREE. -/
def State.dropStream (s0 : State) (st : Nat) : State :=
  let s := (s0.ignoreDoorbells st).dropHeld fun t => t.stream == st
  { s with
    motion := { s.motion with
      pyramids := s.motion.pyramids.filter (fun p => p.1 ≠ st),
      pairs := s.motion.pairs.filter (fun p => p.stream ≠ st),
      tokens := s.motion.tokens.filter (fun t => t.1 ≠ st) },
    ovl := { s.ovl with
      rows := s.ovl.rows.filter (fun r => r.stream ≠ st),
      regionsSent := s.ovl.regionsSent.filter (fun r => r.1 ≠ st) },
    chk := { s.chk with
      streams := s.chk.streams.filter (fun d => d.stream ≠ st),
      stores := s.chk.stores.filter (fun c => c.stream ≠ st),
      pendingSource := s.chk.pendingSource.filter (fun p => p.stream ≠ st),
      notices := s.chk.notices.filter (fun p => p.1 ≠ st),
      records := s.chk.records.filter (fun r => leNat r 0 2 ≠ st) } }

def Owner.ofStream (st : Nat) : Owner → Bool
  | .ringTable x => x == st
  | .ring x _ => x == st
  | .store x _ => x == st
  | .overlayArea x => x == st
  | _ => false

/-- Pages that were kept in use until a stream closed are retired once no allocation meets them (Table 7.7). -/
def State.retireKept (s : State) : State :=
  let gone := s.pool.candidates.filter fun c => c.untilClose &&
    !(s.pool.allocs.any fun a => decide (a.base < c.page + Config.pageSize) && decide (c.page < a.base + a.len))
  if gone.isEmpty then s
  else
    ({ s with pool := { s.pool with
        candidates := s.pool.candidates.filter (fun c => !gone.contains c),
        retired := (s.pool.retired ++ gone.map (fun (c : PageCandidate) => c.page)).take 512 } }).writeService

/-- The stream returns to FREE: rings, store and windows freed, gate released, budgets recomputed (R259, R440, R469). -/
def State.freeStream (s : State) (st : Nat) : State :=
  let x := s.stream st
  let s1 := (s.release (Owner.ofStream st)).dropStream st
  let s2 := match x.p.gate with
    | some g => if (s1.gate g).holder = some st then s1.updGate g fun y => { y with holder := none } else s1
    | none => s1
  (s2.updStream st fun _ => Stream.reset).retireKept.recompute

/-! ## The active-stream table (Table 8.2) -/

/-- Flags byte of Table 8.2. -/
def Stream.flagByte (x : Stream) : Nat :=
  bitN x.p.batch + 2 * modeCode x.p.mode + 8 * bitN x.downgraded + 16 * bitN x.p.gate.isNone + 32 * x.p.gate.getD 0 +
  128 * bitN x.p.fingerprints

/-- A tile of the row has takes left: it is not withdrawn and not all of the `units` of its sequence have ended. -/
def Frame.rowUnfinished (f : Frame) (columns units r : Nat) : Bool :=
  ((f.tiles.drop (r * columns)).take columns).any fun t => !t.withdrawn && decide (t.ended < units)

/-- Earliest due beat among released, unfinished tiles; all ones if there are none. -/
def State.frontDue (s : State) (st : Nat) : Nat :=
  let x := s.stream st
  match x.p.batch, s.reel? x.p.reel with
  | false, some q =>
    (x.frames.flatMap fun f => (List.range x.p.rows).filterMap fun r =>
      if !f.closed && decide (f.releaseBeat x.p.overlayBeats x.p.leadRows r ≤ s.beat) &&
        f.rowUnfinished x.p.columns (s.frameUnitsOf q f).length r then some (f.dueBeat x.p.overlayBeats r)
      else none).foldl min (2 ^ 64 - 1)
  | _, _ => 2 ^ 64 - 1

/-- The beat and row of the next release; 0 and 0 where none is pending and for BATCH streams (DESIGN CHOICE, log 148). -/
def Stream.nextRelease (x : Stream) (beat : Nat) : Nat × Nat :=
  match (x.frames.flatMap fun f => (List.range x.p.rows).filterMap fun r =>
      let b := f.releaseBeat x.p.overlayBeats x.p.leadRows r
      if beat < b && !x.p.batch then some (b, r) else none) with
  | [] => (0, 0)
  | y :: ys => ys.foldl (fun a b => if b.1 < a.1 then b else a) y

/-- The 64 bytes of an entry. -/
def State.streamEntry (s : State) (st : Nat) : List Byte :=
  let x := s.stream st
  let nr := x.nextRelease s.beat
  leBytes 2 st ++ leBytes 1 (streamStateCode x.state) ++ leBytes 1 x.flagByte ++ leBytes 2 x.p.reel ++
  leBytes 1 x.p.leadRows ++ leBytes 1 x.p.overlayBeats ++ leBytes 4 x.budget ++ leBytes 4 (ofSigned 32 x.account) ++
  leBytes 4 x.demand ++ leBytes 2 x.pRow ++ leBytes 2 x.gateBeats ++ leBytes 8 nr.1 ++ leBytes 8 (s.frontDue st) ++
  leBytes 4 (if x.p.batch then (match x.frames.find? fun f => !f.closed with
      | some f => f.entry
      | none => ((x.retime.head?).map (·.seq)).getD 0)
    else x.nextFrame - 1) ++ leBytes 2 nr.2 ++ leBytes 2 x.p.columns ++ leBytes 8 x.count.charged ++
  leBytes 4 x.count.tilesLate ++ zeros 4

end Sys2Proof.Machine
end

