-- ==== Sys2Proof/Machine/Mailbox.lean ====
section
/-!
DEFINITION. The mailbox (R461 to R464) and the messages of chapter 14 that query, allocate, load and open: DEVICE_INFO,
ERROR_QUERY, STREAM_QUERY (R465), TENSOR_ALLOC, TENSOR_FREE (R466), REEL_LOAD, REEL_DROP (R467), STREAM_OPEN (R468),
STREAM_CLOSE (R469). A command that names a message runs it only when that message is next in mailbox order.
-/
namespace Sys2Proof.Machine

/-- What a command answers. -/
abbrev Result := Host.Outcome State Fault Refusal

/-! ## Taking and answering messages -/

/-- Write the response of channel `c`, set DONE and raise the channel's vector (R461). -/
def State.respond (s : State) (c status detail : Nat) (body : List Byte) : State :=
  let m := s.chanBytes c
  let r := slice (responseHeader m status detail ++ body) 0 (64 * responseUnits (msgOpcode m))
  let bit := BitVec.ofNat 16 (2 ^ c)
  let s1 := s.setChan c (patch m 0 r)
  ({ s1 with dev := { s1.dev with mboxBusy := s1.dev.mboxBusy &&& ~~~ bit, mboxDone := s1.dev.mboxDone ||| bit },
             out := { s1.out with completed := s1.out.completed ++ [c] } }).raise (1 + c)

/-- A response that ends a message with an error: the body is zero. -/
def State.respondError (s : State) (c code : Nat) : State := s.respond c code 0 []

/-- Keep a message waiting (Table 14.16). -/
def State.defer (s : State) (c : Nat) (w : Waits) (tensor : Option Nat) : State :=
  { s with mbox := { s.mbox with deferred := s.mbox.deferred ++ [⟨c, w, tensor⟩] } }

/-- The deferred message that a test names, if any. -/
def State.waiting? (s : State) (p : Waits → Bool) : Option Deferred := s.mbox.deferred.find? fun d => p d.waits

/-- Complete the deferred messages that a test names. -/
def State.completeDeferred (s : State) (p : Waits → Bool) (status : Nat) (body : List Byte) : State :=
  let hit := s.mbox.deferred.filter fun d => p d.waits
  let s1 := { s with mbox := { s.mbox with deferred := s.mbox.deferred.filter fun d => !p d.waits } }
  hit.foldl (fun s d => s.respond d.chan status 0 body) s1

def Waits.isSwitch : Waits → Bool
  | .fwSwitch => true
  | _ => false

def Waits.isLaunch : Waits → Bool
  | .launch => true
  | _ => false

def Waits.isStage : Waits → Bool
  | .fwStage _ => true
  | _ => false

/-- A FW_STAGE without flash write completes once its image has been copied and checked (R473, log 133). -/
def State.completeStage (s : State) (n : Nat) : State :=
  match s.fw.stageDue, s.fw.staged with
  | some b, some i =>
    if b ≤ n then ({ s with fw := { s.fw with stageDue := none } }).completeDeferred Waits.isStage 0 (leBytes 4 i.version ++ leBytes 4 i.rollback)
    else s
  | _, _ => s

/-- A unit kind code of Table 14.24. -/
def unitKindOf : Nat → Option UnitKind
  | 0 => some .block
  | 1 => some .page
  | 2 => some .engine
  | 3 => some .port
  | _ => none

/-- A pending message names the unit. -/
def Waits.onUnit (k : UnitKind) (i : Nat) : Waits → Bool
  | .pageRetire p => k == .page && p == i
  | .unitReturn k' i' _ => k' == k && i' == i
  | _ => false

/-- The message names the stream, gate, reel, unit, set or firmware slot of a pending deferred message (R463). REEL_DROP
of a reel that a pending LAUNCH_AT names is left to R467. -/
def State.namesPending (s : State) (m : List Byte) : Bool :=
  let op := msgOpcode m
  let pend (p : Waits → Bool) : Bool := (s.waiting? p).isSome
  let onStream (w : Waits) : Bool := match w with
    | .streamClose st => st == msgStream m
    | _ => false
  let onGate (g : Nat) (w : Waits) : Bool := match w with
    | .gateReset x => x == g
    | _ => false
  let launchReel (h : Nat) : Bool := pend Waits.isLaunch && (match s.set.launch with
    | some l => l.reels.contains h
    | none => false)
  if op = 0x03 ∨ op = 0x21 then pend onStream
  else if op = 0x20 then
    pend onStream || launchReel (leNat m 0x10 2) || (decide (leNat m 0x14 1 < 4) && pend (onGate (leNat m 0x14 1)))
  else if op = 0x30 then pend (onGate (leNat m 0x10 1))
  else if op = 0x40 ∨ op = 0x41 then pend Waits.isLaunch
  else if op = 0x50 ∨ op = 0x51 then
    (match unitKindOf (leNat m 0x10 1) with
      | some k => pend (Waits.onUnit k (leNat m 0x18 8))
      | none => false)
  else if op = 0x60 ∨ op = 0x61 then pend Waits.isStage
  else false

/-- Drop the head of the mailbox order. -/
def State.takeHead (s : State) : State := { s with mbox := { s.mbox with order := s.mbox.order.drop 1 } }

/-- Run the message at the head of mailbox order when it is `op` (R463, R479). -/
def State.mboxRun (s : State) (op : Nat) (run : State → Nat → List Byte → State) : State :=
  match s.mbox.order with
  | [] => s
  | c :: _ =>
    let m := s.chanBytes c
    let s1 := s.takeHead
    if s.dev.fwPhase = 4 then
      if msgOpcode m = 1 ∨ msgOpcode m = 2 then
        (if msgOpcode m ≠ op then s
         else if !msgKnown m then s1.respondError c eOpcode
         else if !msgStreamOk m then s1.respondError c eParam
         else run s1 c m)
      else s1.respondError c eState
    else if !s.dev.fwReady || (s.waiting? Waits.isSwitch).isSome then s
    else if !msgKnown m then s1.respondError c eOpcode
    else if msgOpcode m ≠ op then s
    else if !msgStreamOk m then s1.respondError c eParam
    else if s.namesPending m then s1.respondError c eBusy
    else run s1 c m

/-! ## Queries (R465, Table 14.18) -/

/-- Body of the DEVICE_INFO response from offset 0x10. -/
def State.deviceInfoBody (s : State) : List Byte :=
  let g := s.fuses.grade
  leBytes 2 (Config.part g) ++ leBytes 1 0xB0 ++ leBytes 1 s.nextArrays ++ leBytes 1 (Config.activeArrays g) ++
  leBytes 1 ((s.fitBlocks.filter fun b => !s.mappedBlock b).length) ++ leBytes 1 (Config.stackCount g) ++
  leBytes 1 s.workingEngines.length ++ leBytes 8 s.fuses.chipId ++ leBytes 8 s.poolBytes ++
  leBytes 2 s.pool.retired.length ++ leBytes 1 s.set.index ++ leBytes 1 (max 1 s.set.members.length) ++
  leBytes 4 s.fwVersionReg ++ leBytes 4 s.fuses.rollback ++ leBytes 4 s.weightStore ++ leBytes 8 s.dev.ring.base ++
  leBytes 8 s.clock.clap

def execDeviceInfo (s : State) : Result :=
  .next (s.fresh.mboxRun 0x01 fun s c _ => s.respond c 0 0 s.deviceInfoBody)

/-- Body of the ERROR_QUERY response. -/
def State.errorQueryBody (s : State) (first count : Nat) : List Byte :=
  let held := s.err.log.reverse
  let got := (if first = 0xFFFF_FFFF then held else held.filter fun e => first ≤ e.seq).take count
  leBytes 4 (match held with
    | [] => 0
    | e :: _ => e.seq) ++ leBytes 4 s.errNewest ++ leBytes 1 got.length ++ zeros 7 ++ got.flatMap LogEntry.bytes

def execErrorQuery (s : State) : Result :=
  .next (s.fresh.mboxRun 0x02 fun s c m =>
    let n := leNat m 0x14 1
    if within 1 7 n then s.respond c 0 0 (s.errorQueryBody (leNat m 0x10 4) n) else s.respondError c eParam)

/-- Body of the STREAM_QUERY response. -/
def Stream.queryBody (x : Stream) : List Byte :=
  let k := x.count
  leBytes 1 (streamStateCode x.state) ++ leBytes 1 x.flagByte ++ leBytes 2 x.p.reel ++ leBytes 2 x.tp ++
  leBytes 2 x.rowWork ++ leBytes 4 k.frames ++ leBytes 4 k.keysAccepted ++ leBytes 4 k.keysRejected ++
  leBytes 4 k.tilesLate ++ leBytes 4 k.tilesRejected ++ leBytes 4 k.tilesFallback ++ leBytes 4 k.convNan ++
  leBytes 4 k.convOver ++ leBytes 4 k.convUnder ++ zeros 4 ++ leBytes 8 k.charged ++ leBytes 4 (ofSigned 32 x.account) ++
  leBytes 4 x.budget ++ leBytes 4 k.printSkipped

def execStreamQuery (s : State) : Result :=
  .next (s.fresh.mboxRun 0x03 fun s c m =>
    let x := s.stream (msgStream m)
    if x.state == .free then s.respondError c eState else s.respond c 0 0 x.queryBody)

/-! ## Tensors (R466) -/

def execTensorAlloc (s : State) : Result :=
  .next (s.fresh.mboxRun 0x10 fun s c m =>
    let n := leNat m 0x10 8
    if !within 1 0x10_0000_0000 n then s.respondError c eParam
    else if 1_048_576 ≤ s.tensors.length then s.respondError c eNoMemory
    else
      match pickHandle (Config.handleHint s.free) (2 ^ 32 - 1) (s.tensors.map (·.handle)) with
      | none => s.respondError c eNoMemory
      | some h =>
        match s.alloc n (.tensor h) with
        | none => s.respondError c eNoMemory
        | some (s1, base) =>
          let len := roundUp n Config.poolUnit
          let s2 := (s1.openWindow base len true (.tensor h)).spend
          let s3 := { s2 with tensors := ⟨h, base, n, len⟩ :: s2.tensors }
          s3.respond c 0 0 (leBytes 4 h ++ zeros 4 ++ leBytes 8 base ++ leBytes 8 len))

/-- The tensor is the card of an enabled gate, or one that a pending message reads (R466). -/
def State.tensorInUse (s : State) (h : Nat) : Bool :=
  ((List.range 4).any fun g => match (s.gate g).cfg with
    | some c => c.enable && c.card == h
    | none => false) || s.mbox.deferred.any fun d => d.tensor == some h

/-- Free a tensor: its window closes now, its space returns at the end of the next beat. -/
def State.freeTensor (s : State) (t : TensorBuf) : State :=
  let s1 := s.release fun o => o == .tensor t.handle
  { s1 with tensors := s1.tensors.filter (fun x => x.handle ≠ t.handle),
            pool := { s1.pool with freeing := (s.beat + 1, t.base, t.len) :: s1.pool.freeing } }

def execTensorFree (s : State) : Result :=
  .next (s.fresh.mboxRun 0x11 fun s c m =>
    match s.tensor? (leNat m 0x10 4) with
    | none => s.respondError c eNoTensor
    | some t => if s.tensorInUse t.handle then s.respondError c eInUse else (s.freeTensor t).respond c 0 0 [])

/-! ## Reels (R467) -/

/-- Reel and weight digests of a binary (R305). -/
def reelDigests (r : Reel) (bs : List Byte) : List Byte × List Byte :=
  (sha3_256 (bs.take r.weightOff ++ bs.drop (r.weightOff + r.weightLen)), sha3_256 (slice bs r.weightOff r.weightLen))

/-- Checks 2 and 3 on the binary's content, which the tensor's `bytes` bytes hold. -/
def State.reelRefused (s : State) (content : Option Reel) (bytes : Nat) (setScope : Bool) : Option Nat :=
  match content with
  | none => some eFormat
  | some r =>
    if bytes < r.binaryLen || !reelFormatOk r then some eFormat
    else if !reelParamOk r (s.shapeNow r.canonical setScope) then some eParam
    else none

def execReelLoad (content : Option Reel) (s : State) : Result :=
  .next (s.fresh.mboxRun 0x12 fun s c m =>
    let scope := leNat m 0x14 1
    match s.tensor? (leNat m 0x10 4) with
    | none => s.respondError c eNoTensor
    | some t => match s.reelRefused content t.bytes (scope == 1), content with
    | some e, _ => s.respondError c e
    | none, none => s.respondError c eFormat
    | none, some r =>
      if 1 < scope then s.respondError c eSet
      else if scope = 1 ∧ !s.set.configured then s.respondError c eSet
      else if 256 ≤ s.reels.length then s.respondError c eNoMemory
      else
        match pickHandle (Config.handleHint s.free) 65535 (s.reels.map (·.handle)) with
        | none => s.respondError c eNoMemory
        | some h =>
          match s.alloc r.binaryLen (.reel h) with
          | none => s.respondError c eNoMemory
          | some (s1, base) =>
            let bs := s.readBytes t.base r.binaryLen
            let d := reelDigests r bs
            let empty : LoadedReel :=
              { handle := h, content := r, setScope := scope == 1, digest := d.1, weightDigest := d.2, base := base,
                ready := false, reload := true, arrays := 0, engines := 0, chips := 1, positions := [], engineMap := [],
                cTween := 0, cKey := 0, portions := [], freqTween := [], freqKey := [], hot := none, filled := [], lastUse := 0, condemned := false,
                clearing := none }
            let figs := LoadedReel.load s empty
            -- the figures are those of this load; the first frame start loads the reel again (R492, log 28)
            let entry := { figs with reload := true }
            let s2 := { (s1.writeBytes base bs).spend with
              reels := s1.reels ++ [entry], units := { s1.units with standby := s1.standbyNow } }
            s2.respond c 0 0 (leBytes 2 h ++ leBytes 2 figs.portions.length ++ leBytes 4 (s.imageOf figs) ++ leBytes 4 figs.cTween ++
              leBytes 4 figs.cKey ++ d.1 ++ slice d.2 0 32 ++
              leBytes 2 (if scope = 1 then Config.setBeats h s.set.members.length else 0) ++
              leBytes 2 (if scope = 1 then memberShare r (figs.shape s.set.index) else 0) ++ leBytes 1 r.beta ++
              leBytes 1 (bitN r.canonical)))

/-- A stream that is not FREE, or a pending LAUNCH_AT, names the reel. -/
def State.reelNamed (s : State) (h : Nat) : Bool :=
  (s.openStreams.any fun i => (s.stream i).p.reel == h) ||
  ((s.waiting? Waits.isLaunch).isSome && (match s.set.launch with
    | some l => l.reels.contains h
    | none => false))

def execReelDrop (s : State) : Result :=
  .next (s.fresh.mboxRun 0x13 fun s c m =>
    let h := leNat m 0x10 2
    match s.reel? h with
    | none => s.respondError c eNoReel
    | some _ =>
      if s.reelNamed h then s.respondError c eInUse
      else
        let s1 := s.release fun o => o == .reel h
        ({ s1 with reels := s1.reels.filter fun r => r.handle ≠ h }).respond c 0 0 [])

/-! ## Streams (R468, R469) -/

/-- Body of the STREAM_OPEN response (Table 14.21). -/
def Stream.openBody (x : Stream) : List Byte :=
  leBytes 2 x.tp ++ leBytes 2 x.rowWork ++ leBytes 2 x.motionBeats ++ leBytes 2 x.gateBeats ++
  leBytes 8 x.homes.ringTable ++ leBytes 8 x.homes.bytes ++ leBytes 4 x.budget ++ leBytes 4 x.demand

def execStreamOpen (s : State) : Result :=
  .next (s.fresh.mboxRun 0x20 fun s c m =>
    let st := msgStream m
    if !((s.stream st).state == .free) then s.respondError c eState
    else
      match s.openRefused st m, parseOpen m, s.reel? (leNat m 0x10 2) with
      | some e, _, _ => s.respond c e.1 e.2 []
      | none, some p, some r =>
        let s1 := s.openStream st p r
        s1.respond c 0 0 (s1.stream st).openBody
      | none, _, _ => s.respondError c eParam)

/-- A close clears cause 0 of a load that did not take place (R493). -/
def State.clearLoadFailed (s : State) : State :=
  s.openStreams.foldl (fun s i => s.updStream i fun x =>
    { x with held := x.held.map fun h =>
        if h.cause = .loadFailed ∧ h.clears = none then { h with clears := some s.beat } else h }) s

/-- Finish a close once no sealed entry names the stream: the stream is FREE and the message completes. -/
def State.finishClose (s : State) (st : Nat) : State :=
  if (s.stream st).state == .closing && !s.sealedFor st then
    ((s.freeStream st).clearLoadFailed).completeDeferred (fun w => match w with
      | .streamClose x => x == st
      | _ => false) 0 []
  else s

/-- The stream enters CLOSING (R257, R281): a run of hold frames ends here (R54), and no further unit is placed. -/
def State.beginClose (s : State) (st : Nat) : State :=
  (s.endHoldRun st).updStream st fun x => { x with state := .closing, held := [] }

def execStreamClose (s : State) : Result :=
  .next (s.fresh.mboxRun 0x21 fun s c m =>
    let st := msgStream m
    let x := (s.stream st).state
    if x == .free || x == .closing then s.respondError c eState
    else ((s.beginClose st).defer c (.streamClose st) none).finishClose st)

end Sys2Proof.Machine
end

