-- ==== Sys2Proof/Machine/Cadence.lean ====
section
/-!
DEFINITION. Doorbells (R261, R455), rushes (R45 to R51), command entries (R78, R79, R112, R113, R457), and the cadence of
output frames (R52 to R58, R64, R80, R527).
-/
namespace Sys2Proof.Machine

/-! ## Keyframes in the rushes ring (R47) -/

/-- The slot address of the slice that holds row `y` of a keyframe whose slice 0 is at ring index `slot`. -/
def State.sliceAt (s : State) (st slot y : Nat) : Nat := (s.ring st 1).slotAt (slot + y / 64)

/-- The bytes of the slices of a keyframe. -/
def State.keyRanges (s : State) (st slot : Nat) : List (Nat × Nat) :=
  let p := (s.stream st).p
  (List.range p.sliceCount).map fun i => (s.sliceAt st slot (64 * i), 64 + p.payload i)

/-- Address of pixel (x, y) in the colour plane. -/
def State.colourAt (s : State) (st slot y x : Nat) : Nat :=
  let p := (s.stream st).p
  s.sliceAt st slot y + 64 + (y % 64 * p.renW + x) * p.bpp

/-- Address of pixel (x, y) in the depth plane. -/
def State.depthAt (s : State) (st slot y x : Nat) : Nat :=
  let p := (s.stream st).p
  s.sliceAt st slot y + 64 + p.sliceRows (y / 64) * p.renW * p.bpp + (y % 64 * p.renW + x) * 4

/-- Address of pixel (x, y) in the motion plane. -/
def State.motionAt (s : State) (st slot y x : Nat) : Nat :=
  let p := (s.stream st).p
  s.sliceAt st slot y + 64 + p.sliceRows (y / 64) * p.renW * (p.bpp + 4 * bitN p.hasDepth) + (y % 64 * p.renW + x) * 4

/-- The colour plane of a keyframe as a picture. -/
def State.slotPicture (s : State) (st slot : Nat) : Picture :=
  let p := (s.stream st).p
  ⟨p.renW, p.renH, fun y x => s.readNat (s.colourAt st slot y x) p.bpp⟩

/-- A keyframe that a stream still keeps. -/
def Stream.key? (x : Stream) (counter : Nat) : Option Key := x.keys.find? fun k => k.counter == counter

def State.keyPicture (s : State) (st counter : Nat) : Picture :=
  match (s.stream st).key? counter with
  | some k => s.slotPicture st k.slot
  | none => ⟨0, 0, fun _ _ => 0⟩

/-- Free the rush slots before the oldest keyframe that is kept, or before the slice to be checked next (R453). -/
def State.trimRushes (s : State) (st : Nat) : State :=
  let x := s.stream st
  let keep := match x.keys, x.rushes.partial_ with
    | k :: _, _ => k.slot
    | [], some k => k.slot
    | [], none => x.rushes.read
  s.setConsumer (s.ring st 1) keep

/-! ## Doorbells -/

/-- The host island accepts a doorbell write (R51, R455). -/
def execDoorbell (stream : Fin 1024) (v : Word32) (s : State) : Result :=
  .next (let s0 := s.fresh
    if s0.host.inReset then s0
    else { s0 with doorbells := s0.doorbells ++ [(⟨stream.val, v.toNat % 256, v.toNat / 256, s0.copy hostIsland⟩ : DoorbellWrite)] })

/-- Apply one doorbell (R261, R452, R455). -/
def State.applyDoorbell (s : State) (d : DoorbellWrite) : State :=
  let x := s.stream d.stream
  let r := s.ring d.stream d.ring
  let range := r.doorbellRange
  if x.state == .free || r.entryBytes == 0 then s.doorbellIgnored d.stream d.ring d.index
  else
    match extendIndex range.1 range.2 d.index with
    | none => s.doorbellIgnored d.stream d.ring d.index
    | some i =>
      if r.byBalim then s.setConsumer r i
      else
        let s1 := s.setProducer r i
        if d.ring = 1 then s1.updStream d.stream fun y =>
          { y with rushes := { y.rushes with announced := y.rushes.announced ++ [(i, d.time)] } }
        else s1

/-- Firmware handles the oldest doorbell, and in the same pass those that have arrived for its ring since (R261). -/
def execDoorbellHandle (s : State) : Result :=
  .next (let s0 := s.fresh
    match s0.doorbells with
    | [] => s0
    | d :: ds =>
      if !s0.firmwareUp then s0
      else
        let same (e : DoorbellWrite) : Bool := e.stream == d.stream && e.ring == d.ring
        (d :: ds.filter same).foldl State.applyDoorbell { s0 with doorbells := ds.filter fun e => !same e })

/-! ## Rush slices (R45 to R50) -/

/-- The header fields of a slice. -/
structure SliceHeader where
  counter : Nat
  ts : Nat
  index : Nat
  cut : Bool

def sliceHeader (h : List Byte) : SliceHeader := ⟨leNat h 4 4, leNat h 8 8, leNat h 0x10 2, bitOf (leNat h 0x1B 1) 2⟩

/-- Check 3 of Table 2.4. -/
def StreamParams.geometryOk (p : StreamParams) (h : List Byte) : Bool :=
  let i := leNat h 0x10 2
  decide (i < p.sliceCount) && leNat h 0x12 2 == p.sliceCount && leNat h 0x14 2 == 64 * i && leNat h 0x16 2 == p.sliceRows i &&
  leNat h 0x18 2 == p.renW && leNat h 0x1A 1 == p.colour && leNat h 0x1B 1 % 4 == p.planes % 4 && leNat h 0x1C 4 == p.payload i

/-- The order of the first check of Table 2.4 that a slice fails. -/
def Stream.sliceFails (x : Stream) (st : Nat) (h payload : List Byte) : Option Nat :=
  let k := sliceHeader h
  let identity : Bool := match x.rushes.partial_ with
    | some p => k.counter == p.counter && k.ts == p.ts && k.cut == p.cut
    | none => match x.rushes.last with
      | some l => after32 k.counter l.1 && decide (l.2 < k.ts)
      | none => true
  if leNat h 0x3C 4 ≠ crc32c (h.take 0x3C) ∨ leNat h 0 2 ≠ 1 then some 1
  else if leNat h 2 2 ≠ st then some 2
  else if !x.p.geometryOk h then some 3
  else if k.index ≠ x.rushes.expected then some 4
  else if !identity then some 5
  else if leNat h 0x20 4 ≠ crc32c payload then some 6
  else none

/-- Slice digest of R306. -/
def sliceDigest (h payload : List Byte) : List Byte := sha3_256 (h.take 2 ++ slice h 4 0x38 ++ payload)

/-- Arrival time of the slot at ring index `i`: that of the doorbell that announced it (R51). -/
def Rushes.arrivalOf (r : Rushes) (i : Nat) : Nat :=
  match r.announced.find? fun a => after32 a.1 i with
  | some a => a.2
  | none => 0

/-- OPEN → RUNNING (Table 8.1); a reel condemned meanwhile holds the stream at once (R432). -/
def State.startRunning (s : State) (st : Nat) : State :=
  let x := s.stream st
  if x.state == .open_ then
    let s1 := s.updStream st fun y => { y with state := .running }
    if (s.reel? x.p.reel).any fun r => r.condemned then s1.holdStream st .condemned none else s1
  else s

/-- A keyframe is accepted (R49, R55, R112). -/
def State.acceptKey (s : State) (st : Nat) (k : Key) : State :=
  let x := s.stream st
  let s1 := match x.rushes.last with
    | some l => if next32 k.counter l.1 then s
        else s.postStream st 0x0002 0 0 [Int.ofNat l.1, Int.ofNat k.counter]
    | none => s
  let s2 := s1.updStream st fun y =>
    { y with keys := y.keys ++ [{ k with proxy := y.proxies.find? fun q => q.counter == k.counter }],
             proxies := y.proxies.filter (fun q => q.counter ≠ k.counter),
             count := { y.count with keysAccepted := satAdd y.count.keysAccepted 1 top32 },
             rushes := { y.rushes with partial_ := none, expected := 0, last := some (k.counter, k.ts) } }
  if x.p.batch then s2 else s2.startRunning st

/-- Reject the keyframe of the slice at hand (R48, R49); MOTION discards what depends on it (R87). -/
def State.rejectKey (s : State) (st order : Nat) (h : SliceHeader) : State :=
  let lost (slot : Nat) : Bool := match (s.stream st).rushes.partial_ with
    | some p => p.slot == slot
    | none => false
  let s1 := { s with motion := { s.motion with
    pyramids := s.motion.pyramids.filter (fun q => !(q.1 == st && lost q.2.1)),
    pairs := s.motion.pairs.filter (fun q => !(q.stream == st && lost q.b)) } }
  (s1.postStream st 0x0001 order 0 [Int.ofNat h.counter, Int.ofNat h.index]).updStream st fun y =>
    { y with count := { y.count with keysRejected := satAdd y.count.keysRejected 1 top32 },
             rushes := { y.rushes with partial_ := none, expected := 0, discarding := true } }

/-- Check the slice at the read index. -/
def State.checkSlice (s : State) (st : Nat) : State :=
  let x := s.stream st
  let r := s.ring st 1
  let at_ := r.slotAt x.rushes.read
  let h := s.readBytes at_ 64
  let k := sliceHeader h
  let next := s.updStream st fun y =>
    { y with rushes := { y.rushes with
        read := (y.rushes.read + 1) % 2 ^ 32,
        announced := y.rushes.announced.filter fun a => after32 a.1 ((x.rushes.read + 1) % 2 ^ 32) } }
  if x.rushes.discarding ∧ k.index ≠ 0 then next.trimRushes st
  else
    let payload := s.readBytes (at_ + 64) (leNat h 0x1C 4)
    match x.sliceFails st h payload with
    | some order => (next.rejectKey st order k).trimRushes st
    | none =>
      let digest := if x.p.slates || x.p.batch then [sliceDigest h payload] else []
      let key : Key := match x.rushes.partial_ with
        | some p => { p with digests := p.digests ++ digest, times := p.times ++ [x.rushes.arrivalOf x.rushes.read] }
        | none => ⟨k.counter, k.ts, k.cut, x.rushes.arrivalOf x.rushes.read, x.rushes.read, digest, none,
            [x.rushes.arrivalOf x.rushes.read]⟩
      if k.index + 1 = x.p.sliceCount then
        ((next.updStream st fun y => { y with rushes := { y.rushes with discarding := false } }).acceptKey st
          { key with arrival := x.rushes.arrivalOf x.rushes.read })
      else
        next.updStream st fun y => { y with rushes := { y.rushes with
          partial_ := some key, expected := k.index + 1, discarding := false } }

def execRushSlice (stream : Fin 1024) (s : State) : Result :=
  .next (let s0 := s.fresh
    let x := s0.stream stream.val
    if !s0.firmwareUp || x.state == .free || x.state == .closing || (s0.ring stream.val 1).entryBytes == 0 ||
        x.rushes.read == (s0.ring stream.val 1).producer then s0
    else s0.checkSlice stream.val)

/-! ## Command entries -/

/-- The entry at the head of a stream's command ring, when there is one (R453, R457). -/
def State.commandHead (s : State) (st : Nat) : Option (List Byte) :=
  let x := s.stream st
  let r := s.ring st 0
  if !s.firmwareUp || x.state == .free || x.state == .closing || r.entryBytes == 0 || x.cmdRead == r.producer then none
  else some (s.readBytes (r.slotAt x.cmdRead) 64)

/-- Go on to the next command entry and free the slot (R453). -/
def State.commandDone (s : State) (st : Nat) : State :=
  let i := ((s.stream st).cmdRead + 1) % 2 ^ 32
  (s.updStream st fun y => { y with cmdRead := i }).setConsumer (s.ring st 0) i

/-- The COMMAND_COMPLETE entry of an entry that is not executed (R458). A BATCH stream waits while its completion ring is full
(R454), and until the entries before it have completed: completion entries follow command order (R527). -/
def State.notExecuted (s : State) (st status : Nat) : State :=
  let x := s.stream st
  if x.p.batch && ((s.ring st 2).full || !x.retime.isEmpty || x.frames.any fun f => !f.closed) then s
  else
    let e := slice (leBytes 2 0x0063 ++ leBytes 2 st ++ leBytes 2 status ++ zeros 2 ++ leBytes 4 x.cmdRead) 0 128
    (s.ringPush st 2 e).1.commandDone st

def execUnknownCommandEntry (stream : Fin 1024) (s : State) : Result :=
  .next (let s0 := s.fresh
    match s0.commandHead stream.val with
    | some e => if entryType e = 0x0021 ∨ entryType e = 0x0023 then s0 else s0.notExecuted stream.val eOpcode
    | none => s0)

/-! ### PROXY (R112, R113) -/

/-- A node of the proxy's hierarchy. -/
structure Node where
  lo : List Nat
  hi : List Nat
  first : Nat
  count : Nat
  leaf : Bool

def State.proxyNode (s : State) (base i : Nat) : Node :=
  let b := s.readBytes (base + 32 * i) 32
  ⟨[leNat b 0 4, leNat b 4 4, leNat b 8 4], [leNat b 12 4, leNat b 16 4, leNat b 20 4], leNat b 24 4, leNat b 28 2,
    bitOf (leNat b 28 4) 31⟩

/-- Children beyond their parent and within the nodes; leaves of 1 to 16 triangles that lie in the tensor. -/
def nodeOk (nodes bytes i : Nat) (n : Node) : Bool :=
  if n.leaf then within 1 16 n.count && decide (nodes * 32 + (n.first + n.count) * 48 ≤ bytes)
  else decide (i < n.first) && decide (n.first + 1 < nodes)

/-- No path from node `i` to a leaf has more than `fuel` nodes. -/
def pathOk (node : Nat → Node) : Nat → Nat → Bool
  | 0, _ => false
  | fuel + 1, i =>
    let n := node i
    n.leaf || (pathOk node fuel n.first && pathOk node fuel (n.first + 1))

/-- The entry is valid (R113): its tensor exists and holds the nodes. R113's list of faults does not name a tensor that is missing or too
small; such an entry counts as invalid (DESIGN CHOICE, log 68). -/
def State.proxyOk (s : State) (e : List Byte) : Bool :=
  let nodes := leNat e 0x0C 3
  match s.tensor? (leNat e 8 4) with
  | none => false
  | some t =>
    within 1 1_048_576 nodes && decide (nodes * 32 ≤ t.bytes) &&
    ((List.range nodes).all fun i => nodeOk nodes t.bytes i (s.proxyNode t.base i)) && pathOk (s.proxyNode t.base) 63 0

def execProxy (stream : Fin 1024) (s : State) : Result :=
  .next (let s0 := s.fresh
    match s0.commandHead stream.val with
    | none => s0
    | some e =>
      if entryType e ≠ 0x0023 then s0
      else
        let c := leNat e 4 4
        let s1 := if s0.proxyOk e then s0.updStream stream.val fun y =>
            { y with proxies := y.proxies.filter (fun q => q.counter ≠ c) ++ [(⟨c, e, leNat e 8 4⟩ : Proxy)] }
          else s0.postStream stream.val 0x0008 0 0 [Int.ofNat c]
        s1.commandDone stream.val)

/-! ## Setting up an output frame (R37, R64) -/

/-- What a frame shows. -/
structure FrameSpec where
  kind : FrameKind
  phase : Nat
  keyA : Option Nat
  keyB : Nat
  nameA : Nat
  nameB : Nat
  tsA : Nat
  tsB : Nat
  hold : Bool
  cut : Bool
  keySeq : Bool

/-- The source that firmware writes at frame start (R64). -/
def FrameKind.source : FrameKind → Nat
  | .tween | .computed => 0
  | .repeat_ => 2
  | .copy => 3
  | .black => 4

/-- A reel computes the tiles. -/
def FrameKind.reelRun : FrameKind → Bool
  | .tween | .computed => true
  | _ => false

/-- Tiles of a new frame. -/
def freshTiles (n : Nat) : List TileWork := List.replicate n ⟨0, 0, [], false, false⟩

/-- Address of the tile map of a frame half. -/
def Stream.mapAt (x : Stream) (half : Nat) : Nat := x.homes.tileMap.getD half 0

/-- Address of byte `b` of a tile's entry. -/
def Stream.entryByte (x : Stream) (half t b : Nat) : Nat := x.mapAt half + 8 * t + b

/-- Byte `b` of a tile's map entry. -/
def State.mapByte (s : State) (st half t b : Nat) : Nat := (s.readByte ((s.stream st).entryByte half t b)).toNat

/-- Write one byte of a tile's map entry (R65). -/
def State.setMapByte (s : State) (st half t b v : Nat) : State :=
  s.writeBytes ((s.stream st).entryByte half t b) [BitVec.ofNat 8 v]

/-- Address of a tile's record in the tile-list area (R326). -/
def Stream.recordAt (x : Stream) (half t : Nat) : Nat := x.homes.overlay + (half * x.p.tileCount + t) * 4

/-- Put output frame `index` in progress: its tile map and tile records take their values of frame start. Its half of the stores is
that of its number modulo 2, written over also where frame index − 2 has not latched its last rows yet (DESIGN CHOICE, log 142). -/
def State.setUpFrame (s : State) (st index : Nat) (k : FrameSpec) (r : Raster) (entry : Option (Nat × Nat × Nat)) :
    State :=
  let x := s.stream st
  let half := index % 2
  let tiles := x.p.tileCount
  let f : Frame :=
    { index := index, kind := k.kind, phase := k.phase, keyA := k.keyA, keyB := k.keyB, nameA := k.nameA,
      nameB := k.nameB, tsA := k.tsA, tsB := k.tsB, hold := k.hold, cut := k.cut, base := r.base, lines := r.lines, lineNum := r.num, lineDen := r.den, gateBeats := x.gateBeats,
      half := half, output := if x.p.batch then x.nextOutput else 0, printSkipped := false,
      entry := (entry.map (·.1)).getD 0, entryPhase := (entry.map (·.2.1)).getD k.phase,
      wantSlate := (entry.map (fun e => bitOf e.2.2 0)).getD x.p.slates,
      wantFinger := (entry.map (fun e => bitOf e.2.2 1)).getD x.p.fingerprints,
      keySeq := k.keySeq, begun := false, positions := [], arrays := 0, active := 0, engines := 0, chips := 1, freq := [], cold := none, skipped := false,
      downgraded := x.downgraded, tiles := if k.kind.reelRun then freshTiles tiles else [], doneRows := [], written := [],
      latched := [], closed := false, poisoned := false, motionLate := 0, overlayLate := 0, passesMax := 0,
      tensorSum := if (s.reel? x.p.reel).any fun r => !r.content.tensorRings.isEmpty then none else some (zeros 32) }
  let s1 := s.updStream st fun y =>
    { y with frames := y.frames ++ [f],
             nextOutput := if y.p.batch then y.nextOutput + 1 else y.nextOutput }
  let s2 := s1.writeBytes (x.mapAt half) ((List.range tiles).flatMap fun _ => leBytes 8 k.kind.source)
  if x.p.overlayArea = 0 then s2 else s2.writeBytes (x.recordAt half 0) (zeros (4 * tiles))

/-! ### DEADLINE frames (R52 to R57, R68) -/

/-- The mode in force: a downgraded stream runs in PASSTHROUGH (R68). -/
def Stream.modeNow (x : Stream) : Mode := if x.downgraded then .passthrough else x.p.mode

/-- What an output frame at phase `p` of an interval shows (R44, R57, R64, R80). A cut frame of a PASSTHROUGH stream with p ≤ 420 shows K
with source 3, as R68 says of that mode, although R57 gives a repeat (DEDUCED, log 93). -/
def kindAt (mode : Mode) (p : Nat) (cut : Bool) : FrameKind × Bool :=
  match mode with
  | .passthrough => (.copy, false)
  | .tween => if cut then (if p ≤ 420 then (.repeat_, false) else (.copy, false))
      else if p < 840 then (.tween, false) else (.copy, false)
  | .both => if cut then (if p ≤ 420 then (.repeat_, false) else (.computed, true))
      else if p < 840 then (.tween, false) else (.computed, true)
  | .upscale => if cut ∧ p ≤ 420 then (.repeat_, false) else (.computed, true)

/-- Frame `f` lies in the interval. -/
def Interval.holds (i : Interval) (f : Nat) : Bool := decide (i.first ≤ f) && decide (f < i.first + i.len)

/-- An interval can begin at the next frame: the one before has run all its frames (R53). -/
def Stream.candidate (x : Stream) : Bool :=
  match x.interval with
  | none => true
  | some i => decide (i.first + i.len ≤ x.nextFrame)

/-- The keyframe that waits first: the first one after the interval's (R56). -/
def Stream.waitingKey (x : Stream) : Option Key :=
  match x.interval with
  | none => x.keys.head?
  | some i => x.keys.find? fun k => after32 k.counter i.key

/-- Spec of frame `f` inside an interval. -/
def Stream.intervalSpec (x : Stream) (i : Interval) (f : Nat) : FrameSpec :=
  let p := 840 * (f - i.first + 1) / max 1 i.len
  let k := x.key? i.key
  let a := i.prev.bind x.key?
  let kd := kindAt x.modeNow p ((k.map (·.cut)).getD false && i.prev.isSome)
  ⟨kd.1, p, i.prev, i.key, i.prev.getD 0, i.key, (a.map (·.ts)).getD 0, (k.map (·.ts)).getD 0, false, false, kd.2⟩

/-- Spec of a frame without an interval: a hold frame, or black before the first keyframe (R54, R55). R64 lists a hold frame of a
PASSTHROUGH stream under source 2 and under source 3; it gets 2 (DEDUCED, log 93). -/
def Stream.emptySpec (x : Stream) : FrameSpec :=
  match x.interval, x.frames.getLast? with
  | some _, some l => ⟨.repeat_, l.phase, l.keyA, l.keyB, l.nameA, l.nameB, l.tsA, l.tsB, true, false, false⟩
  | _, _ => ⟨.black, 840, none, 0, 0, 0, 0, 0, false, false, false⟩

/-- A frame that is not closed uses the keyframe. -/
def Stream.keyInUse (x : Stream) (c : Nat) : Bool := x.frames.any fun f => !f.closed && (f.keyA == some c || f.keyB == c)

/-- An executed RETIME entry whose frames are not all set up names the keyframe. -/
def Stream.keyNamed (x : Stream) (c : Nat) : Bool := x.retime.any fun r => r.keyA == c || r.keyB == c

/-- The counter before which keyframes are no longer wanted: the earlier keyframe of the interval (R56), or key_a of the last entry
executed (R79). -/
def Stream.keyFloor (x : Stream) : Option Nat :=
  if x.p.batch then x.lastKeyA else x.interval.map fun i => i.prev.getD i.key

/-- Keyframes before the floor leave, once no frame in progress and no entry at work reads them (log 64). -/
def State.dropOldKeys (s : State) (st : Nat) : State :=
  match (s.stream st).keyFloor with
  | none => s
  | some floor => (s.updStream st fun y =>
      { y with keys := y.keys.filter fun k => !after32 floor k.counter || y.keyInUse k.counter || y.keyNamed k.counter }).trimRushes st

/-- The frame's host-tensor slots have not been freed yet. -/
def Frame.owesSlots (f : Frame) : Bool := f.kind.reelRun && f.tensorSum.isNone

/-- Frames that are closed and no longer the previous one leave the stream once nothing they read is held for them. -/
def State.dropOldFrames (s : State) (st : Nat) : State :=
  s.updStream st fun y => { y with frames := y.frames.filter fun f => !f.closed || decide (y.nextFrame ≤ f.index + 3) || f.owesSlots }

/-- The clapper value at which work on row 0 of a frame that starts at `start` may be placed (R62). -/
def Stream.firstWork (x : Stream) (start : Nat) : Nat :=
  500 * ((start - x.gateBeats * beatSub) / beatSub - x.p.overlayBeats - 2 - x.p.leadRows * x.pRow)

/-- Put the next frame in progress. A candidate frame whose window has not been opened still owes its cue (R58). -/
def State.placeFrame (s : State) (st : Nat) (k : FrameSpec) (candidate : Bool) : State :=
  let f := (s.stream st).nextFrame
  ((s.setUpFrame st f k (s.frameRaster st f) none).updStream st fun y =>
    { y with nextFrame := f + 1,
             cuesDue := if candidate && y.p.cueEvents && !(y.cued == some f) then y.cuesDue ++ [f] else y.cuesDue }).dropOldFrames st

/-- Post a run of hold frames that has ended and whose cutoff is passed over (R54). -/
def State.closeRun (s : State) (st : Nat) : State :=
  match (s.stream st).runEnds with
  | some t => (s.advanceTo t).endHoldRun st
  | none => s

/-- A frame without a keyframe, at its cutoff: a hold frame, or black (R54, R55). A run that ended before is posted first. -/
def State.holdFrame (s₀ : State) (st : Nat) : State :=
  let s := s₀.closeRun st
  let x := s.stream st
  let f := x.nextFrame
  ((s.advanceTo (s.cutoff st f)).updStream st fun y =>
    { y with holdRun := if y.interval.isSome then y.holdRun + 1 else 0,
             holdFirst := if y.holdRun = 0 then f else y.holdFirst }).placeFrame st x.emptySpec true

/-- The interval of a keyframe begins at the next frame (R53, R55). A run of hold frames ends at the frame's cutoff (R54). -/
def State.beginInterval (s : State) (st : Nat) (k : Key) (early : Nat) : State :=
  let x := s.stream st
  let f := x.nextFrame
  let cut := s.cutoff st f
  let i : Interval := ⟨k.counter, x.interval.map (·.key), f, if x.interval.isNone then 1 else x.p.n, x.interval.isNone⟩
  let s1 := (s.advanceTo early).updStream st fun y =>
    { y with interval := some i, runEnds := if y.runEnds.isSome then y.runEnds else if y.holdRun = 0 then none else some cut }
  let s2 := (if (s1.stream st).runEnds.any (· ≤ s1.clock.clap) then s1.endHoldRun st else s1).dropOldKeys st
  s2.placeFrame st ((s2.stream st).intervalSpec i f) true

/-- The next frame `f`: inside its interval, at the beginning of one, or without a keyframe. -/
def State.frameAt (s : State) (st f cut early : Nat) : State :=
  let x := s.stream st
  match x.interval, x.interval.any fun i => i.holds f with
  | some i, true => (s.advanceTo early).placeFrame st (x.intervalSpec i f) false
  | _, _ =>
    match x.waitingKey with
    | some k => if k.arrival ≤ cut then s.beginInterval st k early else s.holdFrame st
    | none => s.holdFrame st

/-- The next output frame of a DEADLINE stream (R52 to R57), when work on it may be placed or at its cutoff; before that, the end of
a run of hold frames (R54). -/
def State.nextDeadlineFrame (s : State) (st : Nat) : State :=
  let x := s.stream st
  let f := x.nextFrame
  let cut := s.cutoff st f
  let early := min cut (x.firstWork (s.frameStart st f))
  match x.runEnds with
  | some t => if t ≤ max early s.clock.clap then (s.advanceTo t).endHoldRun st else s.frameAt st f cut early
  | none => s.frameAt st f cut early

/-- The cadence of a stream runs: it is DEADLINE, open and not closing. -/
def State.cadenceRuns (s : State) (st : Nat) : Bool :=
  let x := s.stream st
  s.firmwareUp && !x.p.batch && !(x.state == .free) && !(x.state == .closing)

def execKeyframeCutoff (stream : Fin 1024) (s : State) : Result :=
  .next (let s0 := s.fresh
    if s0.cadenceRuns stream.val then s0.nextDeadlineFrame stream.val else s0)

/-- The window of a candidate frame opens: a cue is written when they are on (R58). -/
def State.openWindowOf (s : State) (st f : Nat) : State :=
  let start := match s.frame? st f with
    | some g => g.start / subTicks
    | none => s.frameStart st f / subTicks
  let s1 := s.advanceTo (start - 250_000)
  if (s.stream st).p.cueEvents then
    s1.postStream st 0x0004 0 f [Int.ofNat start, Int.ofNat (start - (s1.stream st).tpOf f * 500)]
  else s1

def execArrivalWindowOpen (stream : Fin 1024) (s : State) : Result :=
  .next (let s0 := s.fresh
    let x := s0.stream stream.val
    if !s0.cadenceRuns stream.val then s0
    else match x.cuesDue with
      | f :: rest => (s0.openWindowOf stream.val f).updStream stream.val fun y => { y with cuesDue := rest }
      | [] =>
        if x.candidate && !(x.cued == some x.nextFrame) then
          (s0.openWindowOf stream.val x.nextFrame).updStream stream.val fun y => { y with cued := some x.nextFrame }
        else s0)

/-! ### BATCH frames (R78 to R80, R527) -/

/-- Spec of the output frame of a RETIME entry with phase code `p`. -/
def Stream.retimeSpec (x : Stream) (r : Retime) (p : Nat) : FrameSpec :=
  let cut := bitOf r.flags 2
  let ts (c : Nat) := ((x.key? c).map (·.ts)).getD 0
  let shown := if cut ∧ p ≤ 420 then r.keyA else r.keyB
  let phase := if x.modeNow = .upscale then 840 else p
  let kd := match x.modeNow with
    | .passthrough => (FrameKind.copy, false)
    | .upscale => (FrameKind.computed, true)
    | .tween => if cut ∨ p = 840 then (FrameKind.copy, false) else (FrameKind.tween, false)
    | .both => if cut ∨ p = 840 then (FrameKind.computed, true) else (FrameKind.tween, false)
  ⟨kd.1, phase, if cut ∧ p ≤ 420 then none else some r.keyA, shown, r.keyA, r.keyB, ts r.keyA, ts r.keyB, false, cut, kd.2⟩

/-- Set up the output frames of the executed RETIME entries, in order, as far as the two halves of the stores are free
(Table 7.4). -/
def State.nextBatchFrames (s : State) (st : Nat) : Nat → State
  | 0 => s
  | n + 1 =>
    let x := s.stream st
    match x.retime with
    | [] => s
    | r :: rest =>
      let index := r.first + r.next
      match r.phases[r.next]? with
      | none => State.nextBatchFrames (s.updStream st fun y => { y with retime := rest }) st n
      | some p =>
        if x.frames.any fun f => !f.closed && f.half == index % 2 then s
        else
          State.nextBatchFrames ((s.setUpFrame st index (x.retimeSpec r p) ⟨0, 0, 0, 1⟩ (some (r.seq, p, r.flags))).updStream st
            fun y => { y with retime := { r with next := r.next + 1 } :: rest }) st n

/-- Print-ring index that follows the last output frame of the last executed entry (R79). -/
def Stream.outputDue (x : Stream) : Nat :=
  match x.retime.getLast? with
  | some r => r.first + r.phases.length
  | none => x.nextOutput

/-- The rules of R79 that a waiting entry cannot come to meet. -/
def Stream.retimeRulesOk (x : Stream) (e : List Byte) : Bool :=
  let n := leNat e 4 2
  let a := leNat e 8 4
  let ph := (List.range n).map fun i => leNat e (0x10 + 2 * i) 2
  within 1 8 n && ph.all (within 1 840) && (ph.zip (ph.drop 1)).all (fun p => decide (p.1 < p.2)) &&
  after32 (leNat e 0xC 4) a && (x.lastKeyA == none || x.lastKeyA == some a || x.lastKeyA.any fun l => after32 a l) &&
  leNat e 0x20 8 == x.outputDue

/-- A keyframe that an entry names: held, still to come, or gone (R79). -/
inductive KeyStands where
  | held | toCome | gone
  deriving DecidableEq, Repr

def Stream.keyStands (x : Stream) (c : Nat) : KeyStands :=
  if (x.key? c).isSome then .held
  else match x.rushes.last with
    | none => .toCome
    | some l => if after32 c l.1 then .toCome else .gone

/-- Execute a RETIME entry: keyframes before key_a are freed, and its frames are set up in their turn. -/
def State.runRetime (s : State) (st : Nat) (e : List Byte) : State :=
  let x := s.stream st
  let a := leNat e 8 4
  let r : Retime := ⟨x.retimes, a, leNat e 0xC 4, (List.range (leNat e 4 2)).map fun i => leNat e (0x10 + 2 * i) 2,
    leNat e 6 2, leNat e 0x20 8, 0⟩
  let s1 := s.updStream st fun y =>
    { y with retime := y.retime ++ [r], retimes := y.retimes + 1, lastKeyA := some a }
  (((s1.dropOldKeys st).commandDone st).startRunning st).nextBatchFrames st 8

def execRetime (stream : Fin 1024) (s : State) : Result :=
  .next (let s0 := s.fresh
    let x := s0.stream stream.val
    match s0.commandHead stream.val with
    | none => s0
    | some e =>
      if entryType e ≠ 0x0021 then s0
      else if !x.p.batch then s0.notExecuted stream.val eState
      else if !x.retimeRulesOk e then s0.notExecuted stream.val eParam
      else
        let a := x.keyStands (leNat e 8 4)
        let b := x.keyStands (leNat e 0xC 4)
        if a = .gone ∨ b = .gone then s0.notExecuted stream.val eParam
        else if a = .held ∧ b = .held then s0.runRetime stream.val e
        else s0)

end Sys2Proof.Machine
end

