-- ==== Sys2Proof/Machine/Lists.lean ====
section
/-!
DEFINITION. Overlay lists (R316 to R321): the checks of Table 10.4, which list applies to a frame, and when the slots of a
list are freed.
-/
namespace Sys2Proof.Machine

/-! ## Regions and primitives -/

/-- A safety region (Table 10.2). -/
structure Region where
  number : Nat
  x0 : Nat
  y0 : Nat
  x1 : Nat
  y1 : Nat
  background : List Nat
  expected : Nat
  deriving DecidableEq, Repr

def parseRegion (e : List Byte) : Region :=
  { number := leNat e 4 1, x0 := leNat e 8 2, y0 := leNat e 10 2, x1 := leNat e 12 2, y1 := leNat e 14 2,
    background := (List.range 4).map fun i => leNat e (0x10 + 2 * i) 2, expected := leNat e 0x18 4 }

/-- The regions share a pixel. -/
def Region.meets (a b : Region) : Bool := decide (a.x0 < b.x1) && decide (b.x0 < a.x1) && decide (a.y0 < b.y1) && decide (b.y0 < a.y1)

/-- No two of the regions have a number or a pixel in common. -/
def regionsApart : List Region → Bool
  | [] => true
  | a :: rs => rs.all (fun b => !(a.number == b.number) && !a.meets b) && regionsApart rs

/-- Check 4 of Table 10.4. -/
def StreamParams.regionsOk (p : StreamParams) (es : List (List Byte)) : Bool :=
  let rs := es.map parseRegion
  es.all (fun e => entryType e == 0x0045) &&
  rs.all (fun r => decide (1 ≤ r.number) && decide (r.number ≤ es.length) && decide (r.x0 < r.x1) && decide (r.y0 < r.y1) &&
    decide (r.x1 ≤ p.outW) && decide (r.y1 ≤ p.outH)) && regionsApart rs

/-- A vertex coordinate is in the range of Table 10.3. -/
def vertexOk (v : Int) : Bool := decide (-524_288 ≤ v) && decide (v ≤ 524_287)

/-- Check 5 of Table 10.4 for one entry. -/
def primitiveOk (regions : Nat) (atlas : Bool) (e : List Byte) : Bool :=
  let ty := entryType e
  (ty == 0x42 || ty == 0x43 || ty == 0x44) && decide (leNat e 4 1 ≤ 1) && decide (leNat e 5 1 ≤ regions) &&
  (ty != 0x42 || (List.range 6).all fun i => vertexOk (leInt e (0x10 + 4 * i) 4)) &&
  (ty != 0x44 || (atlas && decide (1 ≤ leNat e 0x14 2) && decide (leNat e 0x14 2 ≤ 256) && decide (1 ≤ leNat e 0x16 2) &&
    decide (leNat e 0x16 2 ≤ 256) && decide (leNat e 0x18 2 ≤ 4095) && decide (leNat e 0x1A 2 ≤ 4095) &&
    decide (1 ≤ leNat e 0x1C 1) && decide (leNat e 0x1C 1 ≤ 4)))

/-! ## Checking a list (R319) -/

/-- Check 1 fails for the header. -/
def Stream.headerFails (x : Stream) (st : Nat) (h : List Byte) : Bool :=
  entryType h != 0x0041 || entryStream h != st ||
  (match x.ovlLast with
    | some l => !after32 (leNat h 4 4) l
    | none => false) || decide (65_536 < leNat h 8 4) || decide (16 < leNat h 0x18 1)

/-- Check 3 passes. -/
def State.atlasOk (s : State) (h : List Byte) : Bool :=
  let a := leNat h 0x10 4
  let w := leNat h 0x14 2
  let t := leNat h 0x16 2
  if a = 0 then w == 0 && t == 0
  else within 1 4096 w && within 1 4096 t && (match s.tensor? a with
    | some b => decide (w * t ≤ b.bytes)
    | none => false)

/-- The order of the first of checks 2 to 5 that fails. -/
def State.listFails (s : State) (st : Nat) (h : List Byte) (regions prims : List (List Byte)) : Option Nat :=
  if leNat h 0x3C 4 ≠ crc32c (h.take 0x3C ++ regions.flatten ++ prims.flatten) then some 2
  else if !s.atlasOk h then some 3
  else if !(s.stream st).p.regionsOk regions then some 4
  else if !prims.all (primitiveOk regions.length (leNat h 0x10 4 != 0)) then some 5
  else none

/-- Free the slots of ring 6 before the oldest list that is kept, or before the next entry to read (R321). -/
def State.trimOverlay (s : State) (st : Nat) : State :=
  let x := s.stream st
  s.setConsumer (s.ring st 6) (match x.lists with
    | l :: _ => l.firstSlot
    | [] => x.ovlRead)

/-- Go on past `n` entries of ring 6. -/
def State.skipOverlay (s : State) (st n : Nat) : State :=
  (s.updStream st fun y => { y with ovlRead := (y.ovlRead + n) % 2 ^ 32 }).trimOverlay st

/-- A list is rejected: OVERLAY_REJECTED names the check and the list_seq. -/
def State.rejectList (s : State) (st order seq n : Nat) : State :=
  (s.postStream st 0x0009 order 0 [Int.ofNat seq]).skipOverlay st n

/-- Check the list at the head of ring 6, once all the entries that its header counts are in the ring. A list longer than the ring is
never all there and is never checked (DEDUCED, log 124). -/
def State.checkList (s : State) (st : Nat) : State :=
  let x := s.stream st
  let r := s.ring st 6
  let entry (i : Nat) : List Byte := s.readBytes (r.slotAt (x.ovlRead + i)) 64
  let waiting := (r.producer + 2 ^ 32 - x.ovlRead) % 2 ^ 32
  let h := entry 0
  let nr := leNat h 0x18 1
  let np := leNat h 8 4
  if waiting < 1 + nr + np then s
  else if x.headerFails st h then s.rejectList st 1 (leNat h 4 4) 1
  else
    let regions := (List.range nr).map fun i => entry (1 + i)
    let prims := (List.range np).map fun i => entry (1 + nr + i)
    match s.listFails st h regions prims with
    | some k => s.rejectList st k (leNat h 4 4) (1 + nr + np)
    | none =>
      let l : OverlayList :=
        { seq := leNat h 4 4, minFrame := leNat h 0x0C 4, accepted := s.clock.clap, firstSlot := x.ovlRead, regions := nr,
          prims := np, atlas := (s.tensor? (leNat h 0x10 4)).map (·.base), atlasW := leNat h 0x14 2, atlasH := leNat h 0x16 2 }
      (s.updStream st fun y => { y with lists := y.lists ++ [l], ovlLast := some l.seq }).skipOverlay st (1 + nr + np)

def execOvlList (stream : Fin 1024) (s : State) : Result :=
  .next (let s0 := s.fresh
    let st := stream.val
    let x := s0.stream st
    if !s0.firmwareUp || x.state == .free || x.state == .closing || x.p.batch || x.p.overlayArea == 0 then s0
    else s0.checkList st)

/-! ## Which list applies (R320) and when one is freed (R321) -/

/-- The beat of the overlay cutoff: the release beat of tile row 0. -/
def Stream.overlayCutoff (x : Stream) (f : Frame) : Nat := f.releaseBeat x.p.overlayBeats x.p.leadRows 0

/-- The list that applies to a frame, once its cutoff has begun. -/
def Stream.listFor (x : Stream) (f : Frame) : Option OverlayList :=
  let i := f.index % 2 ^ 32
  (x.lists.filter fun l => decide (l.accepted < 500 * x.overlayCutoff f) && (l.minFrame == i || after32 i l.minFrame)).getLast?

/-- A later list has applied to some frame, and every frame that used this one has latched its last tile row. -/
def Stream.listDone (x : Stream) (now : Nat) (l : OverlayList) : Bool :=
  (x.frames.any fun f => decide (500 * x.overlayCutoff f ≤ now) && (match x.listFor f with
    | some m => after32 m.seq l.seq
    | none => false)) &&
  x.frames.all fun f => f.closed || f.latched.contains (x.p.rows - 1) || !(x.listFor f == some l)

/-- Free the lists that are done, oldest first. -/
def State.freeLists (s : State) (st : Nat) : State :=
  let x := s.stream st
  if x.lists.isEmpty then s
  else (s.updStream st fun y => { y with lists := y.lists.dropWhile (x.listDone s.clock.clap) }).trimOverlay st

/-- What OVERLAY does when a frame closes: OVERLAY_FLUSH and OVERLAY_LATE once per frame (R329, R333), and its rows leave. -/
def State.closeOverlay (s : State) (st : Nat) (f : Frame) : State :=
  let s1 := if 1 < f.passesMax then s.postStream st 0x000A f.passesMax f.index [] else s
  let s2 := if f.overlayLate = 0 then s1 else s1.postStream st 0x000B (min f.overlayLate 0xFFFF) f.index []
  { s2 with ovl := { s2.ovl with
      rows := s2.ovl.rows.filter (fun r => !(r.stream == st && r.frame == f.index)),
      regionsSent := s2.ovl.regionsSent.filter (fun r => !(r.1 == st && r.2.1 == f.index)) } }

/-- The entries of a list, as they stand in the ring: regions and primitives. -/
def State.listRegions (s : State) (st : Nat) (l : OverlayList) : List Region :=
  let r := s.ring st 6
  (List.range l.regions).map fun i => parseRegion (s.readBytes (r.slotAt (l.firstSlot + 1 + i)) 64)
def State.listPrim (s : State) (st : Nat) (l : OverlayList) (i : Nat) : List Byte :=
  s.readBytes ((s.ring st 6).slotAt (l.firstSlot + 1 + l.regions + i)) 64

end Sys2Proof.Machine
end

