-- ==== Sys2Proof/Machine/Planes.lean ====
section
/-!
DEFINITION. What the MOTION engines compute, as functions of pictures: the luma pyramid (R90, R91), block matching (R92 to
R95), census refinement (R96 to R99), occlusion and confidence (R101 to R104), ray traversal (R112 to R117) and the warp
unit's samples (R106 to R110).
-/
namespace Sys2Proof.Machine

/-! ## Luma planes -/

/-- A plane of values with extents, rows top to bottom. -/
structure Plane where
  w : Nat
  h : Nat
  px : Array Nat

/-- The value at a clamped coordinate. -/
def Plane.at_ (p : Plane) (x y : Int) : Nat := p.px.getD (clampCoord p.h y * p.w + clampCoord p.w x) 0

def Plane.build (w h : Nat) (f : Nat → Nat → Nat) : Plane :=
  ⟨w, h, ((List.range (w * h)).map fun i => f (i / max 1 w) (i % max 1 w)).toArray⟩

/-- The pixel lies inside the plane. -/
def Plane.inside (p : Plane) (x y : Int) : Bool := insideAxis p.w x && insideAxis p.h y

/-- Level 0: the luma of a picture (R90). -/
def lumaPlane (colour : Nat) (p : Picture) : Plane := Plane.build p.w p.h fun y x => luma colour (p.px y x)

/-- The next level of the pyramid (R91). -/
def Plane.next (p : Plane) : Plane :=
  Plane.build (ceilDiv p.w 2) (ceilDiv p.h 2) fun y x =>
    let w (i : Int) : Nat := if i = 0 then 2 else 1
    let sum := ([-1, 0, 1].flatMap fun (j : Int) => [-1, 0, 1].map fun (i : Int) =>
      w i * w j * p.at_ (2 * Int.ofNat x + i) (2 * Int.ofNat y + j)).sum
    (sum + 8) / 16

/-- Levels 0 to 4. -/
def pyramid (p : Plane) : List Plane :=
  let l1 := p.next
  let l2 := l1.next
  let l3 := l2.next
  [p, l1, l2, l3, l3.next]

/-! ## Block matching -/

/-- Comparison of two keys in order. -/
def keyLess : List Int → List Int → Bool
  | a :: as, b :: bs => decide (a < b) || (decide (a = b) && keyLess as bs)
  | _, _ => false

/-- The element with the least key, the first one on equal keys. -/
def leastBy {α : Type} (key : α → List Int) : List α → Option α
  | [] => none
  | x :: xs => match leastBy key xs with
    | none => some x
    | some y => if keyLess (key y) (key x) then some y else some x

/-- Without duplicates, first ones kept. -/
def unique {α : Type} [BEq α] (xs : List α) : List α := xs.foldl (fun acc x => if acc.contains x then acc else acc ++ [x]) []

abbrev Vec := Int × Int

def l1 (a b : Vec) : Int := Int.ofNat ((a.1 - b.1).natAbs + (a.2 - b.2).natAbs)

/-- Cost of a candidate (R93). -/
def blockCost (m : MotionParams) (src ref : Plane) (bx by_ : Nat) (p v : Vec) : Int :=
  let terms := (List.range 64).map fun i =>
    let x := Int.ofNat (8 * bx + i % 8)
    let y := Int.ofNat (8 * by_ + i / 8)
    if ref.inside (x + v.1) (y + v.2) then Int.ofNat (absDiff (src.at_ x y) (ref.at_ (x + v.1) (y + v.2)))
    else Int.ofNat m.oobCost
  terms.foldl (· + ·) 0 + Int.ofNat m.matchLambda * l1 v p

/-- The 1,089 vectors around the predictor. -/
def searchWindow (p : Vec) : List Vec :=
  (List.range 33).flatMap fun j => (List.range 33).map fun i => (p.1 + Int.ofNat i - 16, p.2 + Int.ofNat j - 16)

/-- Choice of a block (R94, R95): the vector, and whether it is the hint. -/
def matchBlock (m : MotionParams) (level : Nat) (src ref : Plane) (bx by_ : Nat) (p : Vec) (hint : Option Vec)
    (near : List Vec) : BlockVec :=
  let limit := Int.ofNat (512 / 2 ^ level)
  let ok (v : Vec) : Bool := decide (v.1.natAbs ≤ limit.toNat) && decide (v.2.natAbs ≤ limit.toNat)
  let cands := (searchWindow p ++ [((0, 0) : Vec)] ++ hint.toList ++ near).filter ok
  match leastBy (fun v => [blockCost m src ref bx by_ p v, l1 v p, v.2, v.1]) cands with
  | some v => ⟨v.1, v.2, hint == some v⟩
  | none => ⟨0, 0, false⟩

/-- Blocks across and down a plane (R92). -/
def Plane.blocksW (p : Plane) : Nat := ceilDiv p.w 8
def Plane.blocksH (p : Plane) : Nat := ceilDiv p.h 8

/-- Vectors of level `l` from those of level `l + 1`, for the block rows that a test names. -/
def matchLevel (m : MotionParams) (level : Nat) (src ref : Plane) (hint : Nat → Nat → Option Vec)
    (parent : Option (Nat × Nat × Array BlockVec)) (rows : Nat → Bool) : Array BlockVec :=
  let w := src.blocksW
  ((List.range (w * src.blocksH)).map fun i =>
    let bx := i % max 1 w
    let by_ := i / max 1 w
    if !rows by_ then (⟨0, 0, false⟩ : BlockVec)
    else match parent with
      | none => matchBlock m level src ref bx by_ (0, 0) (hint bx by_) []
      | some (pw, ph, vs) =>
        let get (x y : Nat) : Vec := let v := vs.getD (y * pw + x) ⟨0, 0, false⟩; (2 * v.vx, 2 * v.vy)
        let px := bx / 2
        let py := by_ / 2
        let near := (if 0 < px then [get (px - 1) py] else []) ++ (if px + 1 < pw then [get (px + 1) py] else []) ++
          (if 0 < py then [get px (py - 1)] else []) ++ (if py + 1 < ph then [get px (py + 1)] else [])
        matchBlock m level src ref bx by_ (get px py) (hint bx by_) near).toArray

/-- A rounded hint component: half away from zero. -/
def roundAway (x : FNum) : Int :=
  let r := ((x.abs.add (.fin false 1 (-1)))).floor
  if x.isNeg then -r else r

/-- The hint of a block at a level (R94): a motion vector in FP16 codes, absent when a component is not finite. -/
def hintOf (level : Nat) (mx my : Nat) : Option Vec :=
  let x := elemValue .fp16 mx
  let y := elemValue .fp16 my
  if x.isFin && y.isFin then some (roundAway (x.scale2 (-Int.ofNat level)), roundAway (y.scale2 (-Int.ofNat level))) else none

/-- Block vectors of block row `row` at level 0, matched from level 4 down. `hint level bx by` is the hint. -/
def matchRow (m : MotionParams) (src ref : List Plane) (hint : Nat → Nat → Nat → Option Vec) (row : Nat) : List BlockVec :=
  let pl (ps : List Plane) (l : Nat) : Plane := ps.getD l ⟨0, 0, #[]⟩
  let level (l : Nat) (parent : Option (Nat × Nat × Array BlockVec)) (rows : Nat → Bool) : Nat × Nat × Array BlockVec :=
    ((pl src l).blocksW, (pl src l).blocksH, matchLevel m l (pl src l) (pl ref l) (hint l) parent rows)
  let v4 := level 4 none fun _ => true
  let v3 := level 3 (some v4) fun _ => true
  let v2 := level 2 (some v3) fun _ => true
  let v1 := level 1 (some v2) fun _ => true
  let v0 := level 0 (some v1) fun r => r == row
  (v0.2.2.toList.drop (row * v0.1)).take v0.1

/-- Rows of level 0 that block row `row` at level `l` depends on, from the rows of its own block and those of the parent
and the parent's neighbours (R91, R92, R94). -/
def dependRows : Nat → Nat → Nat → Nat → Nat × Nat
  | 0, l, lo, hi => (8 * lo * 2 ^ l - (2 ^ l - 1), (8 * hi + 7) * 2 ^ l + (2 ^ l - 1))
  | fuel + 1, l, lo, hi =>
    let own := (8 * lo * 2 ^ l - (2 ^ l - 1), (8 * hi + 7) * 2 ^ l + (2 ^ l - 1))
    let up := dependRows fuel (l + 1) (lo / 2 - 1) (hi / 2 + 1)
    (min own.1 up.1, max own.2 up.2)

/-! ## Census -/

/-- The 24 neighbour offsets in raster order. -/
def ring24 : List Vec :=
  ((List.range 25).map fun i => ((Int.ofNat (i % 5) - 2, Int.ofNat (i / 5) - 2) : Vec)).filter fun o => o != (0, 0)

/-- The census word of a pixel (R96). -/
def censusWord (noise : Nat) (p : Plane) (x y : Int) : Nat :=
  let cx := Int.ofNat (clampCoord p.w x)
  let cy := Int.ofNat (clampCoord p.h y)
  let c := p.at_ cx cy
  (ring24.zip (List.range 24)).foldl (fun v o => v + (if c + noise < p.at_ (cx + o.1.1) (cy + o.1.2) then 2 ^ o.2 else 0)) 0

/-- Cost of a candidate at a pixel (R97). -/
def censusCost (noise : Nat) (k a : Plane) (x y : Int) (v : Vec) : Int :=
  if !a.inside (x + v.1) (y + v.2) then 600
  else
    Int.ofNat (((List.range 25).map fun i =>
      let ox := Int.ofNat (i % 5) - 2
      let oy := Int.ofNat (i / 5) - 2
      popcount 24 (censusWord noise k (x + ox) (y + oy) ^^^
        censusWord noise a (x + ox + v.1) (y + oy + v.2))).sum)

/-- One axis of the sub-pixel fit (R98). -/
def subPixel (c0 cm cp : Int) : Int :=
  let den := cm - 2 * c0 + cp
  if den ≤ 0 then 0 else clampInt (divRound (8 * (cm - cp)) den.toNat) (-8) 8

/-- Census refinement of a pixel: vector in 1/16 px, c0, and the c2 of R104. The pseudocode of R104 takes c2 over 'r95 candidates';
R95 lists none of the pixel, so these are read as the census candidates of R97, `cands` (DEDUCED, log 94). -/
def refinePixel (noise : Nat) (k a : Plane) (x y : Nat) (own : Vec) (cands : List Vec) : CensusPx :=
  let xi := Int.ofNat x
  let yi := Int.ofNat y
  let cost := censusCost noise k a xi yi
  match leastBy (fun v => [cost v, l1 v own, v.2, v.1]) cands with
  | none => ⟨0, 0, 600, 600⟩
  | some v =>
    let c0 := cost v
    let fx := subPixel c0 (cost (v.1 - 1, v.2)) (cost (v.1 + 1, v.2))
    let fy := subPixel c0 (cost (v.1, v.2 - 1)) (cost (v.1, v.2 + 1))
    let far := cands.filter fun u => decide (1 < max (u.1 - v.1).natAbs (u.2 - v.2).natAbs)
    let c2 := (far.map cost).foldl min 600
    ⟨16 * v.1 + fx, 16 * v.2 + fy, c0.toNat, c2.toNat⟩

/-! ## Motion records (Table 3.3) -/

/-- A motion record. -/
structure Record where
  vx : Int
  vy : Int
  conf : Nat
  flat : Bool
  hiddenFwd : Bool
  hiddenBwd : Bool
  out : Bool
  hint : Bool
  rayTested : Bool
  rayVisible : Bool
  edge : Bool
  cost : Nat
  deriving DecidableEq, Repr

def Record.word (r : Record) : Nat :=
  ofSigned 16 r.vx + 2 ^ 16 * ofSigned 16 r.vy + 2 ^ 32 * r.conf + 2 ^ 40 * bitN r.flat + 2 ^ 41 * bitN r.hiddenFwd +
  2 ^ 42 * bitN r.hiddenBwd + 2 ^ 43 * bitN r.out + 2 ^ 44 * bitN r.hint + 2 ^ 45 * bitN r.rayTested +
  2 ^ 46 * bitN r.rayVisible + 2 ^ 47 * bitN r.edge + 2 ^ 48 * r.cost

def Record.ofWord (w : Nat) : Record :=
  ⟨toSigned 16 w, toSigned 16 (w / 2 ^ 16), w / 2 ^ 32 % 256, bitOf w 40, bitOf w 41, bitOf w 42, bitOf w 43, bitOf w 44,
    bitOf w 45, bitOf w 46, bitOf w 47, w / 2 ^ 48 % 1024⟩

/-- nearest of R99. -/
def nearest (z : Int) : Int := Int.fdiv (z + 8) 16

/-- The window around a pixel is flat (R103). -/
def flatAt (span : Nat) (p : Plane) (x y : Nat) : Bool :=
  let vs := (List.range 25).map fun i => p.at_ (Int.ofNat x + Int.ofNat (i % 5) - 2) (Int.ofNat y + Int.ofNat (i / 5) - 2)
  decide (vs.foldl max 0 - vs.foldl min 4095 ≤ span)

/-- Within 2 px of the border. -/
def edgeAt (w h x y : Nat) : Bool := decide (x < 2) || decide (y < 2) || decide (w ≤ x + 2) || decide (h ≤ y + 2)

/-- Where a K pixel lands (R101). -/
def landing (w i : Nat) (c : CensusPx) : Int × Int :=
  (nearest (16 * Int.ofNat (i % max 1 w) + c.vx), nearest (16 * Int.ofNat (i / max 1 w) + c.vy))

/-- The winners on the grid of K − 1: for each pixel the index of the K pixel that wins it. -/
def winners (w h : Nat) (census : Array CensusPx) : Array (Option Nat) :=
  (List.range (w * h)).foldl (fun (acc : Array (Option Nat)) i =>
    let c := census.getD i ⟨0, 0, 600, 600⟩
    let n := landing w i c
    if insideAxis w n.1 && insideAxis h n.2 then
      let j := n.2.toNat * w + n.1.toNat
      match acc.getD j none with
      | none => acc.setIfInBounds j (some i)
      | some b => if c.c0 < (census.getD b ⟨0, 0, 600, 600⟩).c0 then acc.setIfInBounds j (some i) else acc
    else acc) (List.replicate (w * h) none).toArray

/-- The K-plane record of pixel `i` (R101, R103, R104). -/
def kRecord (m : MotionParams) (k : Plane) (census : Array CensusPx) (win : Array (Option Nat)) (hint : Bool) (i : Nat) : Record :=
  let c := census.getD i ⟨0, 0, 600, 600⟩
  let x := i % max 1 k.w
  let y := i / max 1 k.w
  let n := landing k.w i c
  let out := !(insideAxis k.w n.1 && insideAxis k.h n.2)
  let flat := flatAt m.flatSpan k x y
  let lost : Bool := match (if out then none else win.getD (n.2.toNat * k.w + n.1.toNat) none) with
    | none => false
    | some b => let o := census.getD b ⟨0, 0, 600, 600⟩
      b ≠ i && decide (Int.ofNat m.occTol < l1 (c.vx, c.vy) (o.vx, o.vy))
  let hidden := out || lost
  let mm := 255 - 17 * c.c0 / 40
  let u := min 255 (4 * (c.c2 - c.c0))
  { vx := c.vx, vy := c.vy, conf := if hidden then 0 else if flat then min mm 128 else min mm u, flat := flat,
    hiddenFwd := false, hiddenBwd := hidden, out := out, hint := hint, rayTested := false, rayVisible := false,
    edge := edgeAt k.w k.h x y, cost := c.c0 }

/-- The eight neighbours of a pixel in raster order. -/
def ring8 : List Vec :=
  ((List.range 9).map fun i => ((Int.ofNat (i % 3) - 1, Int.ofNat (i / 3) - 1) : Vec)).filter fun o => o != (0, 0)

/-- The K − 1-plane record of pixel `j` (R102, R103); `kr` gives the K-plane record of a pixel. -/
def aRecord (m : MotionParams) (a : Plane) (win : Array (Option Nat)) (kr : Nat → Record) (j : Nat) : Record :=
  let x := j % max 1 a.w
  let y := j / max 1 a.w
  let flat := flatAt m.flatSpan a x y
  let edge := edgeAt a.w a.h x y
  let make (r : Record) (conf : Nat) : Record :=
    { vx := -r.vx, vy := -r.vy, conf := conf, flat := flat, hiddenFwd := false, hiddenBwd := false, out := false,
      hint := false, rayTested := false, rayVisible := false, edge := edge, cost := r.cost }
  match win.getD j none with
  | some i => make (kr i) (kr i).conf
  | none =>
    match ring8.findSome? fun o =>
        if a.inside (Int.ofNat x + o.1) (Int.ofNat y + o.2) then
          win.getD ((Int.ofNat y + o.2).toNat * a.w + (Int.ofNat x + o.1).toNat) none
        else none with
    | some i => make (kr i) ((kr i).conf / 2)
    | none => ⟨0, 0, 0, flat, true, false, false, false, false, false, edge, 600⟩

/-- The record of a pair whose later keyframe carries the cut bit (R83): K plane or K − 1 plane; the edge flag is that of every plane
(R105), and the flat bit, which no rule gives it, is 0 (DESIGN CHOICE, log 123). -/
def cutRecord (kPlane edge : Bool) : Record := ⟨0, 0, 0, false, !kPlane, kPlane, false, false, false, false, edge, 600⟩

/-! ## Rays (R112 to R117) -/

abbrev V3 := List FNum

def v3 (v : V3) (i : Nat) : FNum := v.getD i FNum.zero
def sub3 (a b : V3) : V3 := (List.range 3).map fun i => fsub (v3 a i) (v3 b i)
def dot3 (a b : V3) : FNum :=
  fadd (fadd (fmul (v3 a 0) (v3 b 0)) (fmul (v3 a 1) (v3 b 1))) (fmul (v3 a 2) (v3 b 2))
def cross3 (a b : V3) : V3 :=
  [fsub (fmul (v3 a 1) (v3 b 2)) (fmul (v3 a 2) (v3 b 1)), fsub (fmul (v3 a 2) (v3 b 0)) (fmul (v3 a 0) (v3 b 2)),
   fsub (fmul (v3 a 0) (v3 b 1)) (fmul (v3 a 1) (v3 b 0))]

/-- tmin = 2^−10 and tmax = 1 − 2^−10 (R115). -/
def tMin : FNum := .fin false 1 (-10)
def tMax : FNum := .fin false 1023 (-10)

/-- The box test: entry and exit after each axis; none for a miss. -/
def boxHit (o d : V3) (lo hi : List Nat) : Bool :=
  let go := (List.range 3).foldl (fun (acc : Option (FNum × FNum)) i =>
    match acc with
    | none => none
    | some (enter, exit) =>
      let bl := f32c (lo.getD i 0)
      let bh := f32c (hi.getD i 0)
      let oi := v3 o i
      if FNum.eq (v3 d i) FNum.zero then (if FNum.lt oi bl || FNum.lt bh oi then none else acc)
      else
        let t0 := fdiv (fsub bl oi) (v3 d i)
        let t1 := fdiv (fsub bh oi) (v3 d i)
        let p := if FNum.lt t1 t0 then (t1, t0) else (t0, t1)
        some (if FNum.lt enter p.1 then p.1 else enter, if FNum.lt p.2 exit then p.2 else exit)) (some (tMin, tMax))
  match go with
  | none => false
  | some (enter, exit) => FNum.le enter exit

/-- The triangle test. -/
def triangleHit (o d : V3) (t : List V3) : Bool :=
  let p (i : Nat) : V3 := t.getD i []
  let e1 := sub3 (p 1) (p 0)
  let e2 := sub3 (p 2) (p 0)
  let pv := cross3 d e2
  let det := dot3 e1 pv
  let z := FNum.zero
  let tv := sub3 o (p 0)
  let u := dot3 tv pv
  let qv := cross3 tv e1
  let v := dot3 d qv
  let tt := dot3 e2 qv
  let s := fadd u v
  let lo := fmul tMin det
  let hi := fmul tMax det
  if FNum.lt z det then FNum.le z u && FNum.le z v && FNum.le s det && FNum.le lo tt && FNum.le tt hi
  else if FNum.lt det z then FNum.le u z && FNum.le v z && FNum.le det s && FNum.le tt lo && FNum.le hi tt
  else false

/-- What a ray came to. -/
inductive RayEnd where
  | hit | clear | stopped
  deriving DecidableEq, Repr

/-- Traversal (R116): the stack holds nodes (true) and triangles (false); `fuel` is the tests that remain. -/
def traverse (node : Nat → Node) (tri : Nat → List V3) (o d : V3) : Nat → List (Bool × Nat) → RayEnd
  | _, [] => .clear
  | 0, _ :: _ => .stopped
  | fuel + 1, (true, i) :: rest =>
    let n := node i
    if boxHit o d n.lo n.hi then
      (if n.leaf then traverse node tri o d fuel (((List.range n.count).map fun k => (false, n.first + k)) ++ rest)
       else traverse node tri o d fuel ((true, n.first) :: (true, n.first + 1) :: rest))
    else traverse node tri o d fuel rest
  | fuel + 1, (false, i) :: rest =>
    if triangleHit o d (tri i) then .hit else traverse node tri o d fuel rest
termination_by structural fuel => fuel

/-- The surface point of a pixel at a depth (R112). -/
def surface (e : List Byte) (x y : Nat) (depth : FNum) : V3 :=
  let m (i : Nat) : FNum := f32c (leNat e (0x1C + 4 * i) 4)
  let half (v : Nat) : FNum := .fin false (2 * v + 1) (-1)
  (List.range 3).map fun i =>
    let dir := fadd (fadd (fmul (m (3 * i)) (half x)) (fmul (m (3 * i + 1)) (half y))) (m (3 * i + 2))
    fadd (f32c (leNat e (0x10 + 4 * i) 4)) (fmul depth dir)

/-- The origin of a camera. -/
def origin (e : List Byte) : V3 := (List.range 3).map fun i => f32c (leNat e (0x10 + 4 * i) 4)

/-! ## The warp unit (R106 to R110) -/

/-- A vector scaled by a phase (R107). -/
def scaleVec (r : Record) (k : Int) : Vec := (divRound (r.vx * k) 840, divRound (r.vy * k) 840)

/-- A warp candidate: its record, and the positions of the samples of K − 1 and K, where they apply. -/
structure WarpCand where
  rec_ : Record
  hidden : Bool
  inA : Option Vec
  inK : Option Vec

/-- Candidate a, from the K plane. -/
def candA (rk : Int → Int → Record) (q : Vec) (p : Int) : WarpCand :=
  let v0 := scaleVec (rk (nearest q.1) (nearest q.2)) (840 - p)
  let x0 := (q.1 - v0.1, q.2 - v0.2)
  let r := rk (nearest x0.1) (nearest x0.2)
  let vk := scaleVec r (840 - p)
  let va := scaleVec r p
  ⟨r, r.hiddenBwd, if r.hiddenBwd then none else some (q.1 + va.1, q.2 + va.2), some (q.1 - vk.1, q.2 - vk.2)⟩

/-- Candidate b, from the K − 1 plane. -/
def candB (ra : Int → Int → Record) (q : Vec) (p : Int) : WarpCand :=
  let u0 := scaleVec (ra (nearest q.1) (nearest q.2)) p
  let x0 := (q.1 - u0.1, q.2 - u0.2)
  let r := ra (nearest x0.1) (nearest x0.2)
  let ua := scaleVec r p
  let uk := scaleVec r (840 - p)
  ⟨r, r.hiddenFwd, some (q.1 - ua.1, q.2 - ua.2), if r.hiddenFwd then none else some (q.1 + uk.1, q.2 + uk.2)⟩

def WarpCand.settled (c : WarpCand) : Bool := !c.hidden || (c.rec_.rayTested && c.rec_.rayVisible)

/-- The selection of R108. -/
def pickCand (p : Nat) (a b : WarpCand) : WarpCand :=
  if a.settled && b.settled then (if b.rec_.conf ≤ a.rec_.conf then a else b)
  else if a.settled then a
  else if b.settled then b
  else if 420 ≤ p then a else b

/-- The candidate that gives the pixel at render position `q`. -/
def tweenCand (p : Nat) (ra rk : Int → Int → Record) (q : Vec) : WarpCand :=
  pickCand p (candA rk q (Int.ofNat p)) (candB ra q (Int.ofNat p))

/-- The positions, to the nearest pixel, whose records the two candidates read: in the K − 1 plane and in the K plane. -/
def tweenRecords (p : Nat) (ra rk : Int → Int → Record) (q : Vec) : List Vec × List Vec :=
  let near (z : Vec) : Vec := (nearest z.1, nearest z.2)
  let n := near q
  let v0 := scaleVec (rk n.1 n.2) (840 - Int.ofNat p)
  let u0 := scaleVec (ra n.1 n.2) (Int.ofNat p)
  ([n, near (q.1 - u0.1, q.2 - u0.2)], [n, near (q.1 - v0.1, q.2 - v0.2)])

/-- The tween pixel at render position `q` (R107 to R109). -/
def tweenPixel (colour p : Nat) (pa pk : Picture) (ra rk : Int → Int → Record) (q : Vec) : Nat :=
  let c := tweenCand p ra rk q
  match c.inA.map (fun z => bilinear colour pa z.1 z.2), c.inK.map (fun z => bilinear colour pk z.1 z.2) with
  | some a, some k => blend colour p a k
  | some a, none => a
  | none, some k => k
  | none, none => 0

end Sys2Proof.Machine
end

