-- ==== Sys2Proof/Machine/Motion.lean ====
section
/-!
DEFINITION. The MOTION commands (R82 to R88): each lets one engine process one row group of 4 rows of level 0, or the warp
unit write one tile row. A row group is processed where a lane takes it under R84. The pyramids are kept as functions of the
keyframes' pixels (log 30).
-/
namespace Sys2Proof.Machine

/-! ## Keyframes and pairs -/

/-- MOTION works for the stream: it takes work, and the stream's mode runs the chain (R83). -/
def State.motionRuns (s : State) (st : Nat) : Bool :=
  let x := s.stream st
  !s.motion.stopped && !(x.state == .free) && !(x.state == .closing) && !(x.modeNow == .passthrough)

/-- A keyframe as MOTION sees it: ring index of slice 0, slices checked, cut bit, proxy. -/
structure MotionKey where
  slot : Nat
  slices : Nat
  cut : Bool
  proxy : Option Proxy
  deriving DecidableEq, Repr

/-- Accepted keyframes and the one being assembled, in order. -/
def Stream.motionKeys (x : Stream) : List MotionKey :=
  (x.keys.map fun k => ⟨k.slot, x.p.sliceCount, k.cut, k.proxy⟩) ++
  (x.rushes.partial_.map fun k => (⟨k.slot, x.rushes.expected, k.cut, none⟩ : MotionKey)).toList

/-- An accepted keyframe as MOTION sees it. -/
def Stream.motionKey (x : Stream) (c : Nat) : Option MotionKey :=
  (x.key? c).map fun k => ⟨k.slot, x.p.sliceCount, k.cut, k.proxy⟩

/-- The keyframes that executed RETIME entries name, of the frames in progress and then of the entries behind them. An entry with the
cut flag uses no motion (R527). -/
def Stream.namedPairs (x : Stream) : List (Nat × Nat) :=
  unique (((x.frames.filter fun f => !f.closed && !f.cut).map fun f => (f.nameA, f.nameB)) ++
    ((x.retime.filter fun r => !bitOf r.flags 2).map fun r => (r.keyA, r.keyB)))

/-- The pairs to analyse, in order (R83): earlier and later keyframe. -/
def Stream.motionPairs (x : Stream) : List (MotionKey × MotionKey) :=
  if x.p.batch then x.namedPairs.filterMap fun q => match x.motionKey q.1, x.motionKey q.2 with
    | some a, some b => some (a, b)
    | _, _ => none
  else x.motionKeys.zip (x.motionKeys.drop 1)

/-- Row groups of a keyframe. -/
def StreamParams.groups (p : StreamParams) : Nat := ceilDiv p.renH 4

/-- Row groups whose pyramid is built. -/
def State.pyramidDone (s : State) (st slot : Nat) : List Nat :=
  match s.motion.pyramids.find? fun q => q.1 == st && q.2.1 == slot with
  | some q => q.2.2
  | none => []

/-- Every row group that meets rows lo … hi is in the list. -/
def coversRows (p : StreamParams) (done : List Nat) (lo hi : Nat) : Bool :=
  (List.range p.groups).all fun g => decide (4 * g + 3 < lo) || decide (hi < 4 * g) || done.contains g

/-- The pair's record, new where MOTION has not begun it. -/
def State.pair (s : State) (st a b : Nat) : Pair :=
  match s.motion.pairs.find? fun p => p.stream == st && p.a == a && p.b == b with
  | some p => p
  | none => ⟨st, a, b, [], [], [], [], [], [], [], false, false, 0⟩

/-- Store a pair's record; pairs whose keyframes are gone leave. -/
def State.setPair (s : State) (p : Pair) : State :=
  let live := (s.stream p.stream).motionKeys.map (·.slot)
  let rest := s.motion.pairs.filter fun q => !(q.stream == p.stream) ||
    (live.contains q.a && live.contains q.b && !(q.a == p.a && q.b == p.b))
  { s with motion := { s.motion with pairs := p :: rest } }

/-- MOTION begins the pairs of a keyframe with its pyramid (Table 3.1, R87). -/
def State.beginPairs (s : State) (st slot : Nat) : State :=
  ((s.stream st).motionPairs.filter fun q => q.1.slot == slot || q.2.slot == slot).foldl
    (fun s q => s.setPair (s.pair st q.1.slot q.2.slot)) s

/-! ## What each engine can take up (R82) -/

/-- The pyramid builder can build a row group of the keyframe: its rows have arrived, and no pair of it waits for a response (R87). -/
def State.pyramidReady (s : State) (st group : Nat) (k : MotionKey) : Bool :=
  let p := (s.stream st).p
  !(s.pyramidDone st k.slot).contains group && decide (min (4 * group + 3) (p.renH - 1) < 64 * k.slices) &&
  s.motion.pairs.all fun q => !(q.stream == st && (q.a == k.slot || q.b == k.slot)) || decide (q.resumeAt ≤ s.clock.clap)

/-- MOTION works on the pair: no error has ended it, and none of its responses is awaited (R87). -/
def State.pairLive (s : State) (p : Pair) : Bool := !p.failed && decide (p.resumeAt ≤ s.clock.clap)

/-- The block matcher can take a row group of the pair. -/
def State.matchReady (s : State) (st group : Nat) (a b : MotionKey) (p : Pair) : Bool :=
  let x := s.stream st
  let need := dependRows 4 0 (group / 2) (group / 2)
  !b.cut && s.pairLive p && !p.blockDone.contains group &&
  coversRows x.p (s.pyramidDone st a.slot) 0 x.p.renH && coversRows x.p (s.pyramidDone st b.slot) need.1 need.2

/-- Census refinement can take it. -/
def State.censusReady (s : State) (st group : Nat) (_ b : MotionKey) (p : Pair) : Bool :=
  let by_ := group / 2
  !b.cut && s.pairLive p && !p.censusDone.contains group && coversRows (s.stream st).p p.blockDone (8 * (by_ - 1)) (8 * by_ + 15)

/-- Frames of the pair whose later keyframe is at ring index `slot` still need its records: one in progress that the reel computes has a
tile row without its done token, the keyframe's interval has such frames left to set up, or has not begun. -/
def State.slotNeeded (s : State) (st slot : Nat) : Bool :=
  let x := s.stream st
  let is (c : Nat) : Bool := (x.key? c).any fun k => k.slot == slot
  let whole (f : Frame) : Bool := (List.range x.p.rows).all fun r => f.doneRows.contains r || s.motion.tokens.contains (st, f.index, r)
  (x.frames.any fun f => !f.closed && f.kind.reelRun && is f.keyB && !whole f) ||
  (match x.interval with
    | none => x.keys.any fun k => k.slot == slot
    | some i => (is i.key && decide (x.nextFrame + bitN (x.modeNow == .tween) < i.first + i.len)) ||
        x.keys.any fun k => k.slot == slot && after32 k.counter i.key)

/-- The record planes may be given to the pair: no frame of another pair needs them any more (R88; log 33). -/
def State.planesFree (s : State) (st a b : Nat) : Bool :=
  let x := s.stream st
  if x.p.batch then (x.motionPairs.head?).any fun q => q.1.slot == a && q.2.slot == b
  else s.motion.pairs.all fun p => !(p.stream == st) || !p.owns || (p.a == a && p.b == b) || !s.slotNeeded st p.b

/-- The occlusion and confidence unit can take it. -/
def State.occlusionReady (s : State) (st group : Nat) (a b : MotionKey) (p : Pair) : Bool :=
  s.pairLive p && !p.occDone.contains group && s.planesFree st a.slot b.slot &&
  (b.cut || coversRows (s.stream st).p p.censusDone (4 * group - 1028) (4 * group + 3 + 1028))

/-- The ray-traversal unit can take it. -/
def State.rayReady (s : State) (st group : Nat) (_ _ : MotionKey) (p : Pair) : Bool :=
  s.pairCasts p && s.pairLive p && p.owns && !p.rayDone.contains group && coversRows (s.stream st).p p.occDone 0 (4 * group + 3)

/-! ## Lanes (R84) -/

/-- An engine can take a row group of the pair. -/
def State.pairReady (s : State) (st : Nat) (q : MotionKey × MotionKey) : Bool :=
  let p := s.pair st q.1.slot q.2.slot
  (List.range (s.stream st).p.groups).any fun g =>
    s.matchReady st g q.1 q.2 p || s.censusReady st g q.1 q.2 p || s.occlusionReady st g q.1 q.2 p || s.rayReady st g q.1 q.2 p

/-- A row group of the keyframe's pyramid can be built. -/
def State.keyReady (s : State) (st : Nat) (k : MotionKey) : Bool :=
  (List.range (s.stream st).p.groups).any fun g => s.pyramidReady st g k

/-- Row groups of an accepted keyframe, or of a pair whose later keyframe is accepted, are ready: the tail of R84. -/
def State.tailReady (s : State) (st : Nat) : Bool :=
  let x := s.stream st
  let accepted (k : MotionKey) : Bool := x.keys.any fun q => q.slot == k.slot
  x.motionKeys.any (fun k => accepted k && s.keyReady st k) || x.motionPairs.any fun q => accepted q.2 && s.pairReady st q

/-- Any row group of the stream is ready. -/
def State.anyReady (s : State) (st : Nat) : Bool :=
  let x := s.stream st
  x.motionKeys.any (s.keyReady st) || x.motionPairs.any (s.pairReady st)

/-- Work of the keyframe with counter `c`, or of the pair whose later keyframe it is, is ready. -/
def State.tailOf (s : State) (st c : Nat) : Bool :=
  let x := s.stream st
  (x.key? c).any fun k => x.motionKeys.any (fun q => q.slot == k.slot && s.keyReady st q) ||
    x.motionPairs.any fun q => q.2.slot == k.slot && s.pairReady st q

/-- Frame f_K of each accepted keyframe (R53, R55): the first frame of the interval that runs, and for those that wait the frames at which
their intervals can begin, one after the other. -/
def Stream.firstFrames (x : Stream) : List (Nat × Nat) :=
  match x.interval with
  | none => x.keys.zipIdx.map fun k => (k.1.counter, x.nextFrame + if k.2 = 0 then 0 else 1 + (k.2 - 1) * x.p.n)
  | some i => (i.key, i.first) :: ((x.keys.filter fun k => after32 k.counter i.key).zipIdx.map fun k =>
      (k.1.counter, max x.nextFrame (i.first + i.len) + k.2 * x.p.n))

/-- Start time of frame f_K of the tail that the stream takes up next: the earliest of its keyframes with a tail that is ready. -/
def State.tailStart (s : State) (st : Nat) : Nat :=
  let ready := (s.stream st).firstFrames.filter fun k => s.tailOf st k.1
  ready.foldl (fun m k => min m (s.frameStart st k.2)) (s.frameStart st ((ready.head?.map (·.2)).getD (s.stream st).nextFrame))

/-- Arrival time of the earliest slice whose row groups are ready in the keyframe being assembled (R84). -/
def State.sliceArrival (s : State) (st : Nat) : Nat :=
  let x := s.stream st
  let ready (g : Nat) : Bool := x.motionKeys.getLast?.any fun k => s.pyramidReady st g k || x.motionPairs.getLast?.any fun q =>
    let p := s.pair st q.1.slot q.2.slot
    s.matchReady st g q.1 q.2 p || s.censusReady st g q.1 q.2 p || s.occlusionReady st g q.1 q.2 p || s.rayReady st g q.1 q.2 p
  let times := (x.rushes.partial_.map (·.times)).getD []
  times.getD ((((List.range x.p.groups).find? ready).getD 0) / 16) 0

/-- Where the stream stands in the order of R84; none where it has no row group ready. -/
def State.laneOrder (s : State) (st : Nat) : Option (List Int) :=
  let x := s.stream st
  if !s.motionRuns st then none
  else if x.p.batch then
    (if s.anyReady st then some [2, Int.ofNat ((st + 2047 - s.motion.lastBatch) % 1024), Int.ofNat st] else none)
  else if s.tailReady st then some [0, Int.ofNat (s.tailStart st), Int.ofNat st]
  else if s.anyReady st then some [1, Int.ofNat (s.sliceArrival st), Int.ofNat st]
  else none

/-- A lane takes the stream's next row group: of the streams with work, fewer than four come before it (R76, R84, R86). -/
def State.laneFree (s : State) (st : Nat) : Bool :=
  match s.laneOrder st with
  | none => false
  | some me => decide ((s.openStreams.filter fun i => !(i == st) && (s.laneOrder i).any fun o => keyLess o me).length < 4)

/-- A stream takes its tail before other work (R84): the keyframe at ring index `slot` is the one that the row group belongs to. -/
def State.laneTakes (s : State) (st slot : Nat) : Bool :=
  let x := s.stream st
  s.laneFree st && (x.p.batch || !s.tailReady st || x.keys.any fun k => k.slot == slot)

/-- A row group of the stream was processed: the turn of the BATCH streams passes it (R84). -/
def State.laneServed (s : State) (st : Nat) : State :=
  if (s.stream st).p.batch then { s with motion := { s.motion with lastBatch := st } } else s

/-! ## Pyramid builder (R91) -/

def execPyramidBuild (stream : Fin 1024) (group : Nat) (s : State) : Result :=
  .next (let s0 := s.fresh
    let st := stream.val
    let x := s0.stream st
    match x.motionKeys.find? (s0.pyramidReady st group) with
    | none => s0
    | some k =>
      if s0.laneTakes st k.slot && decide (group < x.p.groups) then
        s0.screen .motion (s0.keyRanges st k.slot) [] fun s0 =>
          let live := x.motionKeys.map (·.slot)
          let done := s0.pyramidDone st k.slot
          let rest := s0.motion.pyramids.filter fun q => !(q.1 == st) || (live.contains q.2.1 && !(q.2.1 == k.slot))
          ({ s0 with motion := { s0.motion with pyramids := (st, k.slot, group :: done) :: rest } }.beginPairs st k.slot).laneServed st
      else s0)

/-! ## Block matcher (R92 to R95) -/

/-- Luma of a keyframe. -/
def State.keyLuma (s : State) (st slot : Nat) : Plane := lumaPlane (s.stream st).p.colour (s.slotPicture st slot)

def State.motionParams (s : State) (st : Nat) : MotionParams :=
  match s.reel? (s.stream st).p.reel with
  | some r => r.content.motion
  | none => ⟨0, 0, 0, 0, 0, 0, 0⟩

/-- The hint of a block at a level (R94). -/
def State.blockHint (s : State) (st slot : Nat) (m : MotionParams) (level bx by_ : Nat) : Option Vec :=
  let p := (s.stream st).p
  if m.hintUse = 0 ∨ !p.hasMotion then none
  else
    let a := s.motionAt st slot (min (2 ^ level * (8 * by_ + 4)) (p.renH - 1)) (min (2 ^ level * (8 * bx + 4)) (p.renW - 1))
    hintOf level (s.readNat a 2) (s.readNat (a + 2) 2)

/-- The bytes of both keyframes of a pair. -/
def State.pairRanges (s : State) (st : Nat) (q : MotionKey × MotionKey) : List (Nat × Nat) :=
  s.keyRanges st q.1.slot ++ s.keyRanges st q.2.slot

/-- The first pair of the stream that a test names. -/
def State.firstPair (s : State) (st : Nat) (ok : MotionKey → MotionKey → Pair → Bool) : Option (MotionKey × MotionKey) :=
  (s.stream st).motionPairs.find? fun q => ok q.1 q.2 (s.pair st q.1.slot q.2.slot)

def execBlockMatch (stream : Fin 1024) (group : Nat) (s : State) : Result :=
  .next (let s0 := s.fresh
    let st := stream.val
    let x := s0.stream st
    let row := group / 2
    match s0.firstPair st (s0.matchReady st group) with
    | none => s0
    | some q =>
      if s0.laneTakes st q.2.slot && decide (group < x.p.groups) then
        s0.screen .motion (s0.pairRanges st q) [] fun s0 =>
          let m := s0.motionParams st
          let p := s0.pair st q.1.slot q.2.slot
          let w := ceilDiv x.p.renW 8
          let vs := matchRow m (pyramid (s0.keyLuma st q.2.slot)) (pyramid (s0.keyLuma st q.1.slot))
            (s0.blockHint st q.2.slot m) row
          let have_ : Bool := p.blocks.any fun b => b.1 / max 1 w == row
          (s0.setPair { p with
            blockDone := group :: p.blockDone,
            blocks := if have_ then p.blocks
              else p.blocks ++ (vs.zip (List.range vs.length)).map fun v => (row * w + v.2, v.1) }).laneServed st
      else s0)

/-! ## Census refinement (R96 to R99) -/

/-- The candidates of a pixel (R97): block vectors of its own block and of the blocks around it. -/
def Pair.candidates (p : Pair) (w h bx by_ : Nat) : List Vec :=
  unique ((List.range 9).filterMap fun i =>
    let x := Int.ofNat bx + (Int.ofNat (i % 3) - 1)
    let y := Int.ofNat by_ + (Int.ofNat (i / 3) - 1)
    if insideAxis w x && insideAxis h y then
      ((p.blocks.find? fun b => b.1 == y.toNat * w + x.toNat).map fun b => ((b.2.vx, b.2.vy) : Vec))
    else none)

def Pair.blockAt (p : Pair) (w bx by_ : Nat) : BlockVec :=
  match p.blocks.find? fun b => b.1 == by_ * w + bx with
  | some b => b.2
  | none => ⟨0, 0, false⟩

def execCensusRefine (stream : Fin 1024) (group : Nat) (s : State) : Result :=
  .next (let s0 := s.fresh
    let st := stream.val
    let x := s0.stream st
    match s0.firstPair st (s0.censusReady st group) with
    | none => s0
    | some q =>
      if s0.laneTakes st q.2.slot && decide (group < x.p.groups) then
        s0.screen .motion (s0.pairRanges st q) [] fun s0 =>
        let m := s0.motionParams st
        let p := s0.pair st q.1.slot q.2.slot
        let w := ceilDiv x.p.renW 8
        let h := ceilDiv x.p.renH 8
        let k := s0.keyLuma st q.2.slot
        let a := s0.keyLuma st q.1.slot
        let out := ((List.range 4).filter fun j => decide (4 * group + j < x.p.renH)).flatMap fun j =>
          (List.range x.p.renW).map fun xx =>
            let y := 4 * group + j
            let own := p.blockAt w (xx / 8) (y / 8)
            (y * x.p.renW + xx,
              refinePixel m.censusNoise k a xx y (own.vx, own.vy) (p.candidates w h (xx / 8) (y / 8)))
        (s0.setPair { p with censusDone := group :: p.censusDone, census := p.census ++ out }).laneServed st
      else s0)

/-! ## Occlusion and confidence (R100 to R104) -/

/-- Address of a motion record: plane 0 is the K plane. -/
def Stream.motionRecordAt (x : Stream) (plane i : Nat) : Nat := x.homes.records.getD plane 0 + 8 * i

/-- The bytes of both records of every pixel of a row group. -/
def Stream.groupRecords (x : Stream) (group : Nat) : List (Nat × Nat) :=
  (List.range 2).map fun plane => (x.motionRecordAt plane (4 * group * x.p.renW), 8 * (min 4 (x.p.renH - 4 * group) * x.p.renW))

def State.readRecord (s : State) (st plane i : Nat) : Record := Record.ofWord (s.readNat ((s.stream st).motionRecordAt plane i) 8)

/-- A motion record is written by itself, 8 bytes at a time, so that a poisoned sector is clean again only as a whole sector is written
(DESIGN CHOICE, log 147). -/
def State.writeRecord (s : State) (st plane i : Nat) (r : Record) : State :=
  s.writeNat ((s.stream st).motionRecordAt plane i) 8 r.word

/-- A pair loses the record planes. Its analysis is gone with them on a BATCH stream, where only the pair of the entry before is reused
and a later entry may name it again (R83). -/
def Pair.lose (q : Pair) (batch : Bool) : Pair :=
  if batch && q.owns then { q with owns := false, blockDone := [], censusDone := [], occDone := [], rayDone := [], blocks := [], census := [] }
  else { q with owns := false }

/-- Make the pair the owner of the record planes. -/
def State.ownPlanes (s : State) (p : Pair) : State :=
  let others := s.motion.pairs.map fun (q : Pair) =>
    if q.stream = p.stream && !(q.a == p.a && q.b == p.b) then q.lose (s.stream p.stream).p.batch else q
  let s1 := { s with motion := { s.motion with pairs := others } }
  s1.setPair { p with owns := true }

/-- What the records of a row group are made from holds poison: a row of either keyframe that its analysis can reach, or such a row of
the later keyframe's motion plane where hints are used (R82, R94, R253; DESIGN CHOICE, log 122). -/
def State.keysPoisoned (s : State) (st group a b : Nat) : Bool :=
  let x := s.stream st
  let hints := x.p.hasMotion && (s.motionParams st).hintUse ≠ 0
  let near (y : Nat) : Bool := decide (4 * group ≤ y + 1028) && decide (y ≤ 4 * group + 3 + 1028)
  !s.poison.isEmpty && (List.range x.p.renH).any fun y => near y &&
    ([a, b].any (fun slot => s.poisonedAt (s.colourAt st slot y 0) (x.p.renW * x.p.bpp)) ||
      (hints && s.poisonedAt (s.motionAt st b y 0) (4 * x.p.renW)))

/-- Census results as an array. -/
def Pair.censusArray (p : Pair) (n : Nat) : Array CensusPx :=
  p.census.foldl (fun (acc : Array CensusPx) c => acc.setIfInBounds c.1 c.2) (List.replicate n ⟨0, 0, 600, 600⟩).toArray

def execOcclusionConfidence (stream : Fin 1024) (group : Nat) (s : State) : Result :=
  .next (let s0 := s.fresh
    let st := stream.val
    let x := s0.stream st
    let w := x.p.renW
    match s0.firstPair st (s0.occlusionReady st group) with
    | none => s0
    | some q =>
      if s0.laneTakes st q.2.slot && decide (group < x.p.groups) then
        s0.screen .motion (s0.pairRanges st q) (x.groupRecords group) fun s0 =>
        let p := s0.pair st q.1.slot q.2.slot
        let cells := ((List.range 4).filter fun j => decide (4 * group + j < x.p.renH)).flatMap fun j =>
          (List.range w).map fun xx => (4 * group + j) * w + xx
        let s1 := (s0.ownPlanes { p with occDone := group :: p.occDone }).laneServed st
        if q.2.cut then
          cells.foldl (fun s i =>
            let edge := edgeAt w x.p.renH (i % max 1 w) (i / max 1 w)
            (s.writeRecord st 0 i (cutRecord true edge)).writeRecord st 1 i (cutRecord false edge)) s1
        else
          let m := s0.motionParams st
          let k := s0.keyLuma st q.2.slot
          let a := s0.keyLuma st q.1.slot
          let census := p.censusArray (w * x.p.renH)
          let win := winners w x.p.renH census
          let hint (i : Nat) : Bool := (p.blockAt (ceilDiv w 8) (i % max 1 w / 8) (i / max 1 w / 8)).hint
          let kr (i : Nat) : Record := kRecord m k census win (hint i) i
          let s2 := cells.foldl (fun s i => (s.writeRecord st 0 i (kr i)).writeRecord st 1 i (aRecord m a win kr i)) s1
          if s0.keysPoisoned st group q.1.slot q.2.slot then cells.foldl (fun s i =>
              (s.poisonRange (x.motionRecordAt 0 i) 8).poisonRange (x.motionRecordAt 1 i) 8) s2
          else s2
      else s0)

/-! ## Ray traversal (R114 to R117) -/

/-- MOTION casts rays for the pair (R114). -/
def State.castsRays (s : State) (st : Nat) (a b : MotionKey) : Bool := s.pairCasts (s.pair st a.slot b.slot)

/-- Depth of a pixel. -/
def State.depthOf (s : State) (st slot i : Nat) : FNum :=
  let w := max 1 (s.stream st).p.renW
  f32c (s.readNat (s.depthAt st slot (i / w) (i % w)) 4)

/-- The record is eligible for a ray, with its depth (R114). -/
def rayEligible (kPlane : Bool) (r : Record) (d : FNum) : Bool :=
  d.isFin && FNum.lt FNum.zero d && (if kPlane then r.hiddenBwd && !r.out else r.hiddenFwd)

/-- The triangle at an index of a proxy's tensor. -/
def State.proxyTriangle (s : State) (base nodes i : Nat) : List V3 :=
  let b := s.readBytes (base + 32 * nodes + 48 * i) 36
  (List.range 3).map fun v => (List.range 3).map fun c => f32c (leNat b (12 * v + 4 * c) 4)

/-- Cast the ray of a pixel: its own camera gives the surface point, the other keyframe's proxy blocks it (R115). A proxy whose tensor
was freed between its acceptance and the ray blocks nothing: the manual gives the ray no result there (DESIGN CHOICE, log 68). -/
def State.castRay (s : State) (own other : Proxy) (w i : Nat) (d : FNum) : RayEnd :=
  match s.tensor? other.tensor with
  | none => .clear
  | some t =>
    let o := origin other.entry
    let p := surface own.entry (i % max 1 w) (i / max 1 w) d
    traverse (s.proxyNode t.base) (s.proxyTriangle t.base (leNat other.entry 0x0C 3)) o (sub3 p o) 64 [(true, 0)]

/-- What the ray flags of a pixel are made from holds poison: its depth, or the proxy that its ray is cast against (R253; DESIGN CHOICE,
log 122). -/
def State.rayPoison (s : State) (st slot w i : Nat) (cast : Bool) (other : Proxy) : Bool :=
  !s.poison.isEmpty && (s.poisonedAt (s.depthAt st slot (i / max 1 w) (i % max 1 w)) 4 ||
    (cast && (s.tensor? other.tensor).any fun t => s.poisonedAt t.base t.bytes))

/-- Set the ray flags of the pixels of a group in one plane; poison goes to the record. -/
def State.rayPlane (s : State) (st plane slot : Nat) (own other : Proxy) (cells : List Nat) : State :=
  let x := s.stream st
  let w := x.p.renW
  let share := w * x.p.renH * (s.motionParams st).rayShare / 64
  let ok (i : Nat) : Bool := rayEligible (plane == 0) (s.readRecord st plane i) (s.depthOf st slot i)
  let before := ((List.range (cells.headD 0)).filter ok).length
  (cells.foldl (fun (acc : State × Nat) i =>
    let cast := ok i && decide (acc.2 < share)
    let t := if !ok i then acc.1 else
      let e := if cast then s.castRay own other w i (s.depthOf st slot i) else .stopped
      acc.1.writeRecord st plane i { s.readRecord st plane i with rayTested := e ≠ .stopped, rayVisible := e = .clear }
    (if s.rayPoison st slot w i cast other then t.poisonRange (x.motionRecordAt plane i) 8 else t, acc.2 + bitN (ok i))) (s, before)).1

def execRayTraversal (stream : Fin 1024) (group : Nat) (s : State) : Result :=
  .next (let s0 := s.fresh
    let st := stream.val
    let x := s0.stream st
    match s0.firstPair st (s0.rayReady st group) with
    | none => s0
    | some q =>
      if s0.laneTakes st q.2.slot && decide (group < x.p.groups) then
        s0.screen .motion (s0.pairRanges st q ++ x.groupRecords group) (x.groupRecords group) fun s0 =>
        let p := s0.pair st q.1.slot q.2.slot
        let cells := ((List.range 4).filter fun j => decide (4 * group + j < x.p.renH)).flatMap fun j =>
          (List.range x.p.renW).map fun xx => (4 * group + j) * x.p.renW + xx
        match q.1.proxy, q.2.proxy with
        | some pa, some pb =>
          (((s0.rayPlane st 0 q.2.slot pb pa cells).rayPlane st 1 q.1.slot pa pb cells).setPair
            { p with rayDone := group :: p.rayDone }).laneServed st
        | _, _ => s0
      else s0)

/-! ## The warp unit (R66, R88, R106 to R111) -/

/-- The frame's tiles come from the warp unit: those of R66 and R110, and keyframe copies, which it writes into the same
store (log 32). -/
def Frame.warped (f : Frame) : Bool := !(f.kind == .repeat_) && !(f.kind == .black)

/-- The pair whose records a frame uses; none for frames without motion. -/
def Stream.pairOf (x : Stream) (f : Frame) : Option (MotionKey × MotionKey) :=
  if f.cut then none
  else match f.keyA.bind x.key?, x.key? f.keyB with
  | some a, some b => x.motionPairs.find? fun q => q.1.slot == a.slot && q.2.slot == b.slot
  | _, _ => none

/-- Render rows of a tile row's footprint (R106). -/
def StreamParams.footprint (p : StreamParams) (row : Nat) : Nat × Nat :=
  let y (o : Nat) : Nat := (Int.fdiv (mapPos (min o (p.outH - 1)) p.renH p.outH) 16).toNat
  (y (64 * row), min (p.renH - 1) (y (64 * row + 63) + 1))

/-- Every motion record within 514 rows of the tile row's footprint is final (R88). -/
def State.recordsFinal (s : State) (st : Nat) (f : Frame) (row : Nat) : Bool :=
  let x := s.stream st
  let foot := x.p.footprint row
  match x.pairOf f with
  | none => !(f.kind == .tween)
  | some q =>
    let p := s.pair st q.1.slot q.2.slot
    let done := if s.castsRays st q.1 q.2 then p.rayDone else p.occDone
    p.owns && !p.failed && coversRows x.p done (foot.1 - 514) (foot.2 + 514)

/-- The render position of an output pixel (R106); one outside the frame takes the edge pixel's (log 31). -/
def StreamParams.renderAt (p : StreamParams) (xo yo : Nat) : Vec :=
  (mapPos (min xo (p.outW - 1)) p.renW p.outW, mapPos (min yo (p.outH - 1)) p.renH p.outH)

/-- Index of the motion record at a position, clamped to the frame. -/
def StreamParams.recordIndex (p : StreamParams) (nx ny : Int) : Nat := clampCoord p.renH ny * p.renW + clampCoord p.renW nx

/-- A pixel of the frame's warped picture (R107 to R110). -/
def State.warpPixel (s : State) (st : Nat) (f : Frame) (xo yo : Nat) : Nat :=
  let p := (s.stream st).p
  let q := p.renderAt xo yo
  let pk := s.keyPicture st f.keyB
  if f.kind = .tween then
    let rec_ (plane : Nat) (nx ny : Int) : Record := s.readRecord st plane (p.recordIndex nx ny)
    tweenPixel p.colour f.phase (s.keyPicture st (f.keyA.getD f.keyB)) pk (rec_ 1) (rec_ 0) q
  else bilinear p.colour pk q.1 q.2

/-- A sample of a keyframe at a render position reads poison (R253). -/
def State.samplePoison (s : State) (st counter : Nat) (z : Vec) : Bool :=
  let p := (s.stream st).p
  match (s.stream st).key? counter with
  | some k => (corners z.1 z.2).any fun c => s.poisonedAt (s.colourAt st k.slot (clampCoord p.renH c.2.1) (clampCoord p.renW c.2.2)) p.bpp
  | none => false

/-- What a pixel of the warped picture is made from is poisoned: a motion record or a sample. -/
def State.warpPoison (s : State) (st : Nat) (f : Frame) (xo yo : Nat) : Bool :=
  let x := s.stream st
  let p := x.p
  let q := p.renderAt xo yo
  if f.kind = .tween then
    let rec_ (plane : Nat) (nx ny : Int) : Record := s.readRecord st plane (p.recordIndex nx ny)
    let read := tweenRecords f.phase (rec_ 1) (rec_ 0) q
    let bad (plane : Nat) (v : Vec) : Bool := s.poisonedAt (x.motionRecordAt plane (p.recordIndex v.1 v.2)) 8
    let c := tweenCand f.phase (rec_ 1) (rec_ 0) q
    read.1.any (bad 1) || read.2.any (bad 0) || c.inA.any (s.samplePoison st (f.keyA.getD f.keyB)) ||
      c.inK.any (s.samplePoison st f.keyB)
  else s.samplePoison st f.keyB q

/-- Pixels of a tile of the warped picture. -/
def State.warpTile (s : State) (st : Nat) (f : Frame) (t : Nat) : List Nat :=
  let c := max 1 (s.stream st).p.columns
  (List.range 64).flatMap fun y => (List.range 128).map fun x => s.warpPixel st f (128 * (t % c) + x) (64 * (t / c) + y)

/-- The edge_step of a stream's reel (R216). -/
def State.edgeStepOf (s : State) (st : Nat) : Nat :=
  match s.reel? (s.stream st).p.reel with
  | some r => r.content.edgeStep
  | none => 0

/-- CRC of a tile's pixels inside the frame, in raster order (R350). -/
def StreamParams.tileCrc (p : StreamParams) (t : Nat) (px : List Nat) : Nat :=
  let n := p.tileInside t
  crc32c (((chunks 128 px).take n.2).flatMap fun r => pixelBytes p.bpp (r.take n.1))

/-- A store record (R418). -/
def storeRecordBytes (stream kind frame tile crc : Nat) : List Byte :=
  let body := leBytes 2 stream ++ leBytes 1 kind ++ zeros 1 ++ leBytes 4 frame ++ leBytes 2 tile ++ zeros 2 ++ leBytes 4 crc ++
    zeros 12
  body ++ leBytes 4 (crc32c body)

/-- Fallback records of BATCH streams that hold a slot or are on their way (R407). -/
def State.batchRecords (s : State) : Nat :=
  let batch (r : List Byte) : Bool := (s.stream (leNat r 0 2)).p.batch
  (s.chk.records.filter batch).length + (s.chk.fromFabric.filter fun r => r.2.1 == 0 && batch r.1).length

/-- The warp unit can write one more tile of the stream: its records find room (R407, Table 1.4). -/
def State.warpRoom (s : State) (st : Nat) : Bool :=
  s.chk.fabricWait.isEmpty && decide (1 ≤ s.creditsLeft .fabricContinuity false false) && decide (2 ≤ s.creditsLeft .fabricContinuity false true) && (!(s.stream st).p.batch || decide (s.batchRecords < Config.recordSlotsBatch))

/-- The blocks of 8 × 8 pixels of a tile of the warped picture that are made from poisoned data. -/
def State.warpBad (s : State) (st : Nat) (f : Frame) (t : Nat) : List Nat :=
  let c := max 1 (s.stream st).p.columns
  if s.poison.isEmpty then []
  else (List.range 128).filter fun i => (List.range 64).any fun k =>
    s.warpPoison st f (128 * (t % c) + 8 * (i % 16) + k % 8) (64 * (t / c) + 8 * (i / 16) + k / 8)

/-- Write one tile: the store, its statistics and store record, then fallback_ready (R111, R418). Poison goes with the data, and no
statistic is written from it (R253). -/
def State.warpOne (s : State) (st : Nat) (f : Frame) (t : Nat) : State :=
  let x := s.stream st
  let px := s.warpTile st f t
  let n := x.p.tileInside t
  let bad := s.warpBad st f t
  let base := x.homes.fallback.getD f.half 0
  let s1 := bad.foldl (fun s i => s.poisonRange (tileSlotAt base x.p.tileCount x.p.bpp t + i * 64 * x.p.bpp) (64 * x.p.bpp))
    (s.writeTile base x.p.tileCount x.p.colour t px)
  let judged := bad.isEmpty && (!(f.kind == .copy) || x.modeNow == .passthrough)
  let s2 := if judged then
      s1.sendFabric (recordBytes st 1 (f.index % 2 ^ 32) t (tileStats x.p.colour (s.edgeStepOf st) n.1 n.2 px)) 0
    else s1
  let s3 := if x.p.safety then
      s2.sendFabric (storeRecordBytes st (if f.kind = .copy then 3 else 1) (f.index % 2 ^ 32) t (x.p.tileCrc t px)) 2
    else s2
  s3.setMapByte st f.half t 1 1

/-- Tiles of a row. -/
def StreamParams.rowTiles (p : StreamParams) (row : Nat) : List Nat := (List.range p.columns).map fun c => row * p.columns + c

/-- A keyframe copy of a stream in TWEEN: the warp unit writes it, but it is no fallback tile (log 32). -/
def Stream.plainCopy (x : Stream) (f : Frame) : Bool := f.kind == .copy && !(f.downgraded || x.p.mode == .passthrough)

/-- The warp unit's order of fallback tiles: every earlier row of this frame and of earlier frames is written (R88). -/
def Stream.warpTurn (x : Stream) (f : Frame) (row : Nat) : Bool :=
  x.frames.all fun g => !g.warped || g.closed || x.plainCopy g ||
    (if g.index < f.index then (List.range x.p.rows).all fun r => g.written.contains r
     else if g.index = f.index then (List.range row).all fun r => g.written.contains r
     else true)

/-- The warp unit can write a tile row of a frame (R88). -/
def State.warpReady (s : State) (st : Nat) (f : Frame) (row : Nat) : Bool :=
  let x := s.stream st
  !s.motion.stopped && f.warped && !f.closed && decide (row < x.p.rows) && !f.written.contains row && x.warpTurn f row &&
  !(x.state == .free) && (x.key? f.keyB).isSome && (!(f.kind == .tween) || s.recordsFinal st f row)

/-- What the warp unit reads for a frame: its keyframes, and for a TWEEN both record planes. -/
def State.warpReads (s : State) (st : Nat) (f : Frame) : List (Nat × Nat) :=
  let x := s.stream st
  let keys := ((f.keyA.toList ++ [f.keyB]).filterMap x.key?).flatMap fun k => s.keyRanges st k.slot
  if f.kind = .tween then keys ++ (List.range 2).map fun plane => (x.motionRecordAt plane 0, 8 * (x.p.renW * x.p.renH)) else keys

/-- What it writes for a tile row: the tiles in the fallback store, and their map entries. -/
def Stream.warpWrites (x : Stream) (f : Frame) (row : Nat) : List (Nat × Nat) :=
  (x.p.rowTiles row).flatMap fun t => (x.entryByte f.half t 1, 1) :: storeRanges (x.homes.fallback.getD f.half 0) x.p.tileCount x.p.bpp t

/-- A DEADLINE stream has a tile row that the warp unit can write: BATCH rows wait behind it (R76, R81). -/
def State.deadlineRow (s : State) : Bool :=
  s.openStreams.any fun i => !(s.stream i).p.batch && (s.stream i).frames.any fun f =>
    (List.range (s.stream i).p.rows).any fun row => s.warpReady i f row

def execWarpFallback (stream : Fin 1024) (frame : Nat) (row : Nat) (s : State) : Result :=
  .next (let s0 := s.fresh
    let st := stream.val
    let x := s0.stream st
    match s0.frame? st frame with
    | none => s0
    | some f =>
      if s0.warpReady st f row && !(x.p.batch && s0.deadlineRow) then
        s0.screen .warp (s0.warpReads st f) (x.warpWrites f row) fun s0 =>
        let s1 := (x.p.rowTiles row).foldl (fun s t =>
          if s.mapByte st f.half t 1 = 0 ∧ s.warpRoom st then s.warpOne st f t else s) s0
        if (x.p.rowTiles row).all fun t => s1.mapByte st f.half t 1 == 1 then
          s1.updFrame st frame fun g => { g with written := row :: g.written }
        else s1
      else s0)

def execWarpDoneToken (stream : Fin 1024) (frame : Nat) (row : Nat) (s : State) : Result :=
  .next (let s0 := s.fresh
    let st := stream.val
    match s0.frame? st frame with
    | none => s0
    | some f =>
      let failed := match (s0.stream st).pairOf f with
        | some q => (s0.pair st q.1.slot q.2.slot).failed
        | none => false
      if !s0.motion.stopped && f.kind.reelRun && f.written.contains row && !failed && !f.doneRows.contains row &&
          !s0.motion.tokens.contains (st, frame, row) && s0.recordsFinal st f row then
        { s0 with motion := { s0.motion with tokens := s0.motion.tokens ++ [(st, frame, row)] } }
      else s0)

end Sys2Proof.Machine
end

