-- ==== Sys2Proof/Machine/Present.lean ====
section
/-!
DEFINITION. The end of an output frame: latching a tile row (R37, R60, R67, R332, R347, R407), closing a frame with its
slate, completion entry and judgement (R63, R307 to R309, R412, R413, R454, R458), completing a BATCH frame (R80), and a
tile that misses its due beat (R63).
-/
namespace Sys2Proof.Machine

/-! ## Latched sources -/

/-- The latched tile of the previous frame, where there is one. -/
def LatchedFrame.tile? (l : LatchedFrame) (t : Nat) : Option Latched := l.tiles.find? fun x => x.tile == t

/-- What stands for the previous frame's source (R67): its location with shown = 2, or a black tile. -/
def heldTile (prev : Option Latched) (t : Nat) : Latched :=
  match prev with
  | some p => if p.from_ = 4 then ⟨t, 4, none, 4, 0, 0⟩ else { p with shown := 2, composite := none }
  | none => ⟨t, 4, none, 4, 0, 0⟩

/-- The source code `c` of a tile in the frame's own stores. -/
def ownTile (t c half key : Nat) : Latched := ⟨t, c, none, c, half, key⟩

/-- The base or source of a tile by R37 and R67, and whether R67 applied. -/
def State.sourceOf (s : State) (st : Nat) (f : Frame) (prev : Option Latched) (t : Nat) : Latched × Bool :=
  let src := s.mapByte st f.half t 0 % 8
  let ready := s.mapByte st f.half t 1 % 2 = 1
  if src = 0 ∨ src = 1 then
    (if ready then (ownTile t src f.half f.keyB, false) else (heldTile prev t, true))
  else if src = 2 then (heldTile prev t, false)
  else (ownTile t src f.half f.keyB, false)

/-- The latched source of a tile: the frame's own composite, with its base, where OVERLAY has drawn it (R332). -/
def State.latchTile (s : State) (st : Nat) (f : Frame) (prev : Option Latched) (t : Nat) : Latched × Bool :=
  let x := s.stream st
  if s.mapByte st f.half t 5 % 2 = 1 then
    let base := (s.readByte (x.recordAt f.half t)).toNat % 8
    let l := if base = 2 then heldTile prev t else ownTile t base f.half f.keyB
    -- MOTION_LATE also counts a tile whose base was a substitute (R331)
    ({ l with shown := base, composite := some f.half }, decide (s.mapByte st f.half t 0 % 8 < 2 ∧ 2 ≤ base))
  else s.sourceOf st f prev t

/-- Pixels of a latched tile, 128 by 64. -/
def State.latchedPixels (s : State) (st : Nat) (l : Latched) : List Nat :=
  let x := s.stream st
  let read (bases : List Nat) (h : Nat) : List Nat := s.readTile (bases.getD h 0) x.p.tileCount x.p.colour l.tile
  match l.composite, l.from_ with
  | some half, _ => read x.homes.composite half
  | none, 0 => read x.homes.fallback l.half
  | none, 1 => read x.homes.generated l.half
  | none, 3 =>
    let c := max 1 x.p.columns
    let pk := s.keyPicture st l.key
    (List.range 64).flatMap fun y => (List.range 128).map fun xx =>
      let q := x.p.renderAt (128 * (l.tile % c) + xx) (64 * (l.tile / c) + y)
      bilinear x.p.colour pk q.1 q.2
  | none, _ => List.replicate 8192 0

/-- The bytes that the pixels of a latched tile come from. -/
def State.latchedRanges (s : State) (st : Nat) (l : Latched) : List (Nat × Nat) :=
  let x := s.stream st
  let at_ (bases : List Nat) (h : Nat) : List (Nat × Nat) := storeRanges (bases.getD h 0) x.p.tileCount x.p.bpp l.tile
  match l.composite, l.from_ with
  | some half, _ => at_ x.homes.composite half
  | none, 0 => at_ x.homes.fallback l.half
  | none, 1 => at_ x.homes.generated l.half
  | none, 3 => (x.key? l.key).toList.flatMap fun k => s.keyRanges st k.slot
  | none, _ => []

/-- A latched tile reads poisoned data (R253). -/
def State.latchedPoison (s : State) (st : Nat) (l : Latched) : Bool :=
  let x := s.stream st
  let c := max 1 x.p.columns
  let bad (bases : List Nat) (h : Nat) : Bool := s.tilePoisoned (bases.getD h 0) x.p.tileCount x.p.colour l.tile
  !s.poison.isEmpty && (match l.composite, l.from_ with
  | some half, _ => bad x.homes.composite half
  | none, 0 => bad x.homes.fallback l.half
  | none, 1 => bad x.homes.generated l.half
  | none, 3 => (List.range 8192).any fun i =>
    s.samplePoison st l.key (x.p.renderAt (128 * (l.tile % c) + i % 128) (64 * (l.tile / c) + i / 128))
  | none, _ => false)

/-! ## Printing (R71, R246) -/

/-- Copy a tile's pixels inside the frame into the print ring's slot, uncompressed; poison goes with them. -/
def State.printTile (s : State) (st slot : Nat) (l : Latched) : State :=
  let x := s.stream st
  let px := s.latchedPixels st l
  let bad := s.latchedPoison st l
  let n := x.p.tileInside l.tile
  let c := max 1 x.p.columns
  (List.range n.2).foldl (fun s y =>
    let a := slot + ((64 * (l.tile / c) + y) * x.p.outW + 128 * (l.tile % c)) * x.p.bpp
    let s1 := s.writeBytes a (pixelBytes x.p.bpp ((px.drop (128 * y)).take n.1))
    if bad then s1.poisonRange a (n.1 * x.p.bpp) else s1) s

/-- The frame that was latched before the one in hand, on the stream's own list. -/
def State.previousLatched (s : State) (st : Nat) (f : Frame) : Option LatchedFrame :=
  (s.stream st).shown.find? fun l => l.index + 1 == f.index

/-- Record the latched tiles of a row; the stream keeps those of the last two frames. -/
def Stream.keepLatched (x : Stream) (f : Frame) (ls : List Latched) : Stream :=
  let mine := match x.shown.find? fun l => l.index == f.index with
    | some l => l.tiles
    | none => []
  { x with shown := ⟨f.index, mine ++ ls⟩ :: (x.shown.filter fun l => !(l.index == f.index)).take 1 }

/-! ## TILE_ROW_LATCH -/

/-- Tiles of a frame are latched: the fallback records held for them are released (R407). -/
def State.releaseRecords (s : State) (st : Nat) (f : Frame) (tiles : List Nat) : State :=
  { s with chk := { s.chk with records := s.chk.records.filter fun r =>
    !(leNat r 0 2 == st && leNat r 4 4 == f.index % 2 ^ 32 && tiles.contains (leNat r 8 2)) } }

/-- Latch a row of a frame: sources fixed, latched and shown written, fallback records of the row released (R407). -/
def State.latchRow (s : State) (st : Nat) (f : Frame) (row : Nat) : State :=
  let x := s.stream st
  let prev := s.previousLatched st f
  let got := (x.p.rowTiles row).map fun t => s.latchTile st f (prev.bind fun l => l.tile? t) t
  let ls := got.map (·.1)
  let s1 := ls.foldl (fun s l => s.setMapByte st f.half l.tile 6 (1 + 2 * l.shown)) s
  let s2 := s1.releaseRecords st f (ls.map (·.tile))
  let s3 := (s2.updStream st fun y => y.keepLatched f ls).updFrame st f.index fun g =>
    { g with latched := row :: g.latched, motionLate := g.motionLate + (got.filter (·.2)).length }
  if x.p.gate.isSome then s3
  else
    let r := s3.ring st 5
    let skip := if row = 0 then r.full else f.printSkipped
    let out := if row = 0 then r.producer else f.output
    let s4 := s3.updFrame st f.index fun g => { g with printSkipped := skip, output := out }
    if skip then s4
    else
      let s5 := ls.foldl (fun s l => s.printTile st (r.slotAt out) l) s4
      if row + 1 = x.p.rows then (s5.setProducer r ((out + 1) % 2 ^ 32)).raiseStream st else s5

def execTileRowLatch (stream : Fin 1024) (frame : Nat) (row : Nat) (s : State) : Result :=
  .next (let s0 := s.fresh
    let st := stream.val
    let x := s0.stream st
    match s0.frame? st frame with
    | none => s0
    | some f =>
      if x.p.batch || x.state == .free || f.closed || f.latched.contains row || !decide (row < x.p.rows) ||
          !((List.range row).all fun r => f.latched.contains r) then s0
      else (((s0.advanceTo (500 * f.latchBeat row)).latchRow st f row).releaseSlots fun h => h.hold == .latch st frame row).freeLists st)

/-! ## Slates (R306 to R309) -/

/-- Digest of a keyframe: that of its slice digests (R306). -/
def Key.digest (k : Key) : List Byte := sha3_256 k.digests.flatten

def State.keyDigest (s : State) (st : Nat) (c : Option Nat) : List Byte :=
  match c.bind (s.stream st).key? with
  | some k => k.digest
  | none => zeros 32

/-- Proxy digest (R307). -/
def State.proxyDigest (s : State) (st : Nat) (f : Frame) : List Byte :=
  match (s.stream st).pairOf f with
  | some q =>
    let part (p : Option Proxy) : List Byte := match p with
      | some p => p.entry ++ (match s.tensor? p.tensor with
          | some t => s.readBytes t.base t.bytes
          | none => [])
      | none => []
    if s.castsRays st q.1 q.2 && !f.downgraded && !((s.stream st).p.mode == .passthrough) then sha3_256 (part q.1.proxy ++ part q.2.proxy) else zeros 32
  | none => zeros 32

/-- Insert a ring in ascending index, each once. -/
def insertRing (q : Nat × Nat) : List (Nat × Nat) → List (Nat × Nat)
  | [] => [q]
  | r :: rs => if q.1 < r.1 then q :: r :: rs else if q.1 = r.1 then r :: rs else r :: insertRing q rs

/-- The host-tensor rings that a stream's reel reads, in ascending index. -/
def State.tensorRingsOf (s : State) (st : Nat) : List (Nat × Nat) :=
  match s.reel? (s.stream st).p.reel with
  | some r => r.content.tensorRings.foldl (fun acc q => insertRing q acc) []
  | none => []

/-- Frames of the stream before `f` whose host-tensor slots have not been freed. -/
def Stream.slotsAhead (x : Stream) (f : Frame) : Nat :=
  (x.frames.filter fun g => g.owesSlots && decide (g.index < f.index)).length

/-- Tensor digest of a frame (R307): frame after frame reads the next slot of each host-tensor ring, the oldest first. -/
def State.tensorDigest (s : State) (st : Nat) (f : Frame) : List Byte :=
  let rs := s.tensorRingsOf st
  if rs.isEmpty then zeros 32
  else f.tensorSum.getD (sha3_256 (rs.flatMap fun q =>
    let r := s.ring st q.1
    s.readBytes (r.slotAt (r.consumer + (s.stream st).slotsAhead f)) q.2))

/-- The 272 bytes of Table 9.5. -/
def State.slatePreimage (s : State) (st : Nat) (f : Frame) : List Byte :=
  let x := s.stream st
  let p := x.p
  let r := s.reel? p.reel
  let canonical := (r.map fun r => r.content.canonical).getD false
  let load := (r.map fun r => if f.begun then (f.arrays, f.chips, r.setScope) else (r.arrays, r.chips, r.setScope)).getD (0, 1, false)
  let chips := if load.2.2 then load.2.1 else 1
  let kind := if f.kind = .tween then 0 else if f.kind = .computed then 1 else 2
  let ran := kind ≠ 2
  leBytes 2 1 ++ leBytes 1 (bitN canonical) ++ leBytes 1 (if canonical then 0 else chips) ++
  leBytes 1 (if canonical then 0 else load.1) ++ leBytes 1 kind ++ leBytes 2 f.phase ++
  leBytes 8 (stepCounter f.keyB f.phase) ++ slice p.seed 0 16 ++
  (match r with
    | some r => if ran then r.digest ++ r.weightDigest else zeros 64
    | none => zeros 64) ++
  s.keyDigest st f.keyA ++ s.keyDigest st (some f.keyB) ++ s.proxyDigest st f ++
  (if ran then s.tensorDigest st f else zeros 32) ++
  (match p.tolerance with
    | some t => sha3_256 t
    | none => zeros 32) ++
  leBytes 2 p.outW ++ leBytes 2 p.outH ++ leBytes 2 p.renW ++ leBytes 2 p.renH ++ leBytes 1 p.colour ++
  leBytes 1 (p.planes % 4) ++ leBytes 1 (if f.downgraded then 3 else modeCode p.mode) ++ zeros 5

/-- The sources of the frame's tiles: those latched for it, else those that the tile map names. -/
def State.framePicture (s : State) (st : Nat) (f : Frame) : List Latched :=
  let x := s.stream st
  match x.shown.find? fun l => l.index == f.index with
  | some l => l.tiles
  | none => (List.range x.p.tileCount).map fun t => (s.sourceOf st f none t).1

/-- One of the frame's tiles holds poisoned data, in the frame's own stores or in the source that it shows (R253, R309). -/
def State.framePoison (s : State) (st : Nat) (f : Frame) : Bool :=
  let x := s.stream st
  let stores := [x.homes.fallback.getD f.half 0] ++ (if f.kind.reelRun then [x.homes.generated.getD f.half 0] else [])
  !s.poison.isEmpty &&
  ((f.warped && (List.range x.p.tileCount).any fun t => stores.any fun b => s.tilePoisoned b x.p.tileCount x.p.colour t) ||
    (s.framePicture st f).any (s.latchedPoison st))

/-- The slate of a frame, empty where none is written (R309): black frames have no keyframe, poison forbids it, and a hold
frame repeats the last one. -/
def State.slateOf (s : State) (st : Nat) (f : Frame) : List Byte :=
  if !f.wantSlate || f.poisoned || s.framePoison st f || f.kind == .black then []
  else if f.hold then (s.stream st).lastSlate
  else sha3_256 (s.slatePreimage st f)

/-! ## Completion entries (R458) -/

/-- Tiles of a frame that show a source code, and tiles with late set. -/
def State.shownCount (s : State) (st half code : Nat) : Nat :=
  ((List.range (s.stream st).p.tileCount).filter fun t => s.mapByte st half t 6 / 2 == code).length
def State.lateCount (s : State) (st half : Nat) : Nat :=
  ((List.range (s.stream st).p.tileCount).filter fun t => s.mapByte st half t 4 % 2 == 1).length

/-- The 128 bytes of a frame's completion entry. -/
def State.completionBytes (s : State) (st : Nat) (f : Frame) (slate : List Byte) (start : Nat) : List Byte :=
  let x := s.stream st
  let printed := x.p.gate.isNone && !f.printSkipped
  let flags := bitN (!slate.isEmpty) + 2 * bitN f.hold + 4 * bitN printed + 8 * bitN f.printSkipped + 16 * bitN x.downgraded
  slice (leBytes 2 (if x.p.batch then 0x0062 else 0x0061) ++ leBytes 2 st ++ leBytes 2 0 ++ leBytes 2 flags ++
    leBytes 4 f.index ++ leBytes 2 f.entryPhase ++ zeros 2 ++ leBytes 8 (if printed then f.output else 2 ^ 64 - 1) ++
    leBytes 4 f.nameA ++ leBytes 4 f.nameB ++ leBytes 8 f.tsA ++ leBytes 8 f.tsB ++
    leBytes 4 (s.shownCount st f.half 0) ++ leBytes 4 (s.lateCount st f.half) ++ leBytes 8 start ++ slice slate 0 32) 0 128

/-- Units of the frame's sequence up to the last one that reads an input slot: only those can read a host tensor. -/
def State.slotUnits (s : State) (st : Nat) (f : Frame) : Nat :=
  match s.reel? (s.stream st).p.reel with
  | none => 0
  | some r =>
    let us := s.frameUnitsOf r f
    let steps := reelSteps r.content f.keySeq
    let reads (k : Nat) : Bool := (us[k]?).any fun u => (steps[u.1]?).any fun st => st.inputs.any fun i => match i with
      | .slot _ => true
      | _ => false
    ((List.range us.length).filter reads).foldl (fun m k => max m (k + 1)) 0

/-- Every take of the frame that reads a host tensor has ended: none is known to the sequencer, and none is to be placed. -/
def State.slotsRead (s : State) (st : Nat) (f : Frame) : Bool :=
  let n := s.slotUnits st f
  (f.closed || f.tiles.all fun t => t.withdrawn || decide (n ≤ t.ended)) &&
  !(s.seq.known.any fun e => decide (e.unit < n) && e.tiles.any fun t => t.stream == st && t.frame == f.index)

/-- Free the slots of the host-tensor rings that the frame read; its digest is kept (R453). -/
def State.freeTensorSlots (s : State) (st : Nat) (f : Frame) : State :=
  let sum := s.tensorDigest st f
  ((s.tensorRingsOf st).foldl (fun s q =>
    let r := s.ring st q.1
    if r.used = 0 then s else s.setConsumer r ((r.consumer + 1) % 2 ^ 32)) s).updFrame st f.index fun g =>
      { g with tensorSum := some sum }

/-- Free slots of the host-tensor rings in order, frame after frame as far as every take that reads them has ended. -/
def State.freeTensors (s : State) (st : Nat) : State :=
  let waiting := (s.stream st).frames.filter fun f => f.owesSlots
  if (s.tensorRingsOf st).isEmpty then s
  else (waiting.takeWhile (s.slotsRead st)).foldl (fun s f => s.freeTensorSlots st f) s

/-- Write the completion entry, count the frame and close it. -/
def State.completeFrame (s : State) (st : Nat) (f : Frame) (start : Nat) : State :=
  let slate := s.slateOf st f
  let fb := s.shownCount st f.half 0
  let s1 := (s.ringPush st 2 (s.completionBytes st f slate start)).1
  let s2 := s1.updStream st fun y =>
    { y with lastSlate := slate,
             count := { y.count with frames := satAdd y.count.frames 1 top32,
                                     tilesFallback := satAdd y.count.tilesFallback fb top32,
                                     printSkipped := satAdd y.count.printSkipped (bitN f.printSkipped) top32 } }
  let s3 := (s2.updFrame st f.index fun g => { g with closed := true }).freeTensors st
  s3.dropHeld fun t => t.stream == st && t.frame == f.index

/-! ## The checker's decision at a close (R412, R413) -/

/-- A history makes a decision due: three in a row, or 8 in 64 (R412); the value is the detail of R415. -/
def historyTrips (h : List Bool) : Option Nat :=
  if 3 ≤ h.length ∧ (h.take 3).all id then some 0
  else if 8 ≤ ((h.take 64).filter id).length then some 1
  else none

/-- A reason counts as disagreement (Table 13.3). -/
def reasonCounts (code : Nat) : Bool := within 1 6 code

/-- The rejected tile with the lowest index. -/
def firstReject (rs : List (Nat × Nat × Nat)) : Option (Nat × Nat × Nat) :=
  rs.foldl (fun best r => match best with
    | none => some r
    | some b => if r.2.1 < b.2.1 then some r else some b) none

/-- The checker judges a closing frame: history, events, downgrade. A BATCH stream has no history and is never downgraded (R414). -/
def State.judgeFrame (s : State) (st : Nat) (f : Frame) : State :=
  match s.decisions? st with
  | none => s
  | some d =>
    let idx := f.index % 2 ^ 32
    let rejects := d.rejects.filter fun r => r.1 == idx
    let judged := d.judgedFrames.contains idx
    let bad := rejects.any fun r => reasonCounts r.2.2
    let noRef := (rejects.filter fun r => r.2.2 == 7).length
    let d1 := { d with rejects := d.rejects.filter (fun r => !(r.1 == idx)),
                       judgedFrames := d.judgedFrames.filter (fun i => !(i == idx)),
                       frames := if judged && d.tolerance.isSome && !d.downgraded && !(s.stream st).p.batch then (bad :: d.frames).take 64 else d.frames }
    let s1 := s.updDecisions st fun _ => d1
    let s2 := if noRef = 0 then s1 else s1.checkerEvent (some st) 0x09 (min noRef 255) idx
    if s.chk.phase ≠ .run ∨ d.tolerance.isNone ∨ d.downgraded ∨ !judged then s2
    else
      let s3 := if bad then s2.checkerEvent (some st) 0x01 ((firstReject rejects).map (·.2.2) |>.getD 0) idx else s2
      match (if bad && !(s.stream st).p.batch then historyTrips d1.frames else none) with
      | none => s3
      | some why =>
        let s4 := s3.updDecisions st fun x => { x with downgraded := true }
        let s5 := { s4 with chk := { s4.chk with downgrades := satAdd s4.chk.downgrades 1 (2 ^ 32 - 1),
                                                 notices := s4.chk.notices ++ [(st, s4.beat)] } }
        let s6 := s5.checkerEvent (some st) 0x02 why idx
        if d.safety then s6.assertSafe 0 else s6

def execFrameClose (stream : Fin 1024) (frame : Nat) (s : State) : Result :=
  .next (let s0 := s.fresh
    let st := stream.val
    let x := s0.stream st
    match s0.frame? st frame with
    | none => s0
    | some f =>
      if x.p.batch || f.closed || !((List.range x.p.rows).all fun r => f.latched.contains r) then s0
      else
        let s1 := s0.advanceTo (500 * f.latchBeat (x.p.rows - 1) + 64)
        let late := s1.lateCount st f.half
        let s2 := if late = 0 then s1 else s1.postStream st 0x0005 (min late 0xFFFF) f.index []
        let s3 := if f.motionLate = 0 then s2 else s2.postStream st 0x0006 (min f.motionLate 0xFFFF) f.index []
        ((((s3.closeOverlay st f).judgeFrame st f).completeFrame st f (f.start / subTicks)).freeLists st).dropOldFrames st)

/-! ## BATCH frames (R80) -/

/-- Every tile of the frame has its verdict and its fallback tile, or its source is fixed. -/
def State.batchFrameReady (s : State) (st : Nat) (f : Frame) : Bool :=
  !f.poisoned && (!f.kind.reelRun || (List.range (s.stream st).p.tileCount).all fun t =>
    s.mapByte st f.half t 2 % 2 == 1 && s.mapByte st f.half t 1 == 1) &&
  !(s.chk.pendingSource.any fun p => p.stream == st && p.frame == f.index)

def execBatchFrameComplete (stream : Fin 1024) (s : State) : Result :=
  .next (let s0 := s.fresh
    let st := stream.val
    let x := s0.stream st
    match x.frames.find? fun f => !f.closed with
    | none => s0
    | some f =>
      if !x.p.batch || x.state == .free || (s0.ring st 5).full || (s0.ring st 2).full || !s0.batchFrameReady st f then s0
      else
        let r := s0.ring st 5
        let s1 := ((List.range x.p.tileCount).foldl (fun s t =>
          let l := (s.sourceOf st f none t).1
          (s.printTile st (r.slotAt f.output) l).setMapByte st f.half t 6 (1 + 2 * l.shown)) s0).releaseRecords st f
            (List.range x.p.tileCount)
        let s2 := (s1.setProducer r ((f.output + 1) % 2 ^ 32)).raiseStream st
        let s3 := (s2.judgeFrame st f).completeFrame st f s2.clock.clap
        ((s3.updStream st fun y => { y with frames := y.frames.filter fun g => !g.closed || g.owesSlots }).nextBatchFrames st 8).dropOldKeys st)

/-! ## Tiles past their due beat (R63) -/

def execDueBeatPassed (stream : Fin 1024) (frame : Nat) (tile : Nat) (s : State) : Result :=
  .next (let s0 := s.fresh
    let st := stream.val
    let x := s0.stream st
    match s0.frame? st frame with
    | none => s0
    | some f =>
      let t := f.tiles.getD tile ⟨0, 0, [], true, true⟩
      let steps := match s0.reel? x.p.reel with
        | some r => (s0.frameUnitsOf r f).length
        | none => 0
      let due := f.dueBeat x.p.overlayBeats (tile / max 1 x.p.columns)
      let inTime (k : Token) : Bool := k.status == 0 && decide (k.finish ≤ s0.beatCycle (due + 1)) &&
        !k.lost.contains ⟨st, frame, tile⟩ && t.takes.contains (steps - 1, k.takeId)
      if x.p.batch || f.closed || t.late || decide (f.tiles.length ≤ tile) || decide (steps ≤ t.ended) ||
          (s0.seq.tokens ++ s0.seq.received).any inTime then s0
      else
        let s1 := s0.advanceTo (500 * (due + 1))
        let s2 := s1.updFrame st frame fun g => { g with tiles := g.tiles.set tile { t with withdrawn := true, late := true } }
        let s3 := s2.setMapByte st f.half tile 4 1
        s3.updStream st fun y => { y with count := { y.count with tilesLate := satAdd y.count.tilesLate 1 top32 } })

end Sys2Proof.Machine
end

