-- ==== Sys2Proof/Machine/Overlay.lean ====
section
/-!
DEFINITION. The overlay rasteriser of chapter 10: coverage (R322, R323), colour (R324, R325), binning with its blocks (R326
to R329), drawing passes (R330, R331), abandoned passes (R333), and region records (R334, R335).
-/
namespace Sys2Proof.Machine

/-! ## Coverage (R322) -/

/-- A rectangle of output pixels, half open. -/
structure PixelBox where
  x0 : Int
  y0 : Int
  x1 : Int
  y1 : Int
  deriving DecidableEq, Repr

def PixelBox.meet (a b : PixelBox) : PixelBox := ⟨max a.x0 b.x0, max a.y0 b.y0, min a.x1 b.x1, min a.y1 b.y1⟩
def PixelBox.empty (a : PixelBox) : Bool := decide (a.x1 ≤ a.x0) || decide (a.y1 ≤ a.y0)
def PixelBox.has (a : PixelBox) (x y : Int) : Bool := decide (a.x0 ≤ x) && decide (x < a.x1) && decide (a.y0 ≤ y) && decide (y < a.y1)

/-- Vertex `i` of a triangle entry, in 1/16 px. -/
def vertex (e : List Byte) (i : Nat) : Int × Int := (leInt e (0x10 + 8 * i) 4, leInt e (0x14 + 8 * i) 4)

def min3 (a b c : Int) : Int := min a (min b c)
def max3 (a b c : Int) : Int := max a (max b c)

/-- The bounding box of a primitive before clipping (R328). -/
def primBox (e : List Byte) : PixelBox :=
  if entryType e = 0x42 then
    let a := vertex e 0
    let b := vertex e 1
    let c := vertex e 2
    let lo (v : Int) : Int := -(Int.fdiv (-(v - 8)) 16)
    let hi (v : Int) : Int := Int.fdiv (v - 8) 16 + 1
    ⟨lo (min3 a.1 b.1 c.1), lo (min3 a.2 b.2 c.2), hi (max3 a.1 b.1 c.1), hi (max3 a.2 b.2 c.2)⟩
  else if entryType e = 0x43 then ⟨leInt e 0x10 2, leInt e 0x12 2, leInt e 0x14 2, leInt e 0x16 2⟩
  else
    let k := leNat e 0x1C 1
    let dx := leInt e 0x10 2
    let dy := leInt e 0x12 2
    ⟨dx, dy, dx + Int.ofNat (leNat e 0x14 2 * k), dy + Int.ofNat (leNat e 0x16 2 * k)⟩

/-- `e(i, j, p)` of R322. -/
def crossAt (a b p : Int × Int) : Int := (b.1 - a.1) * (p.2 - a.2) - (b.2 - a.2) * (p.1 - a.1)

/-- A point is inside an edge or on an inclusive one. -/
def insideEdge (a b p : Int × Int) : Bool :=
  let v := crossAt a b p
  decide (0 < v) || (v == 0 && (decide (b.2 < a.2) || (b.2 == a.2 && decide (a.1 < b.1))))

/-- The triangle covers the centre of pixel (x, y). -/
def triangleCovers (e : List Byte) (x y : Int) : Bool :=
  let a := vertex e 0
  let area := crossAt a (vertex e 1) (vertex e 2)
  let b := if area < 0 then vertex e 2 else vertex e 1
  let c := if area < 0 then vertex e 1 else vertex e 2
  let p : Int × Int := (16 * x + 8, 16 * y + 8)
  area != 0 && insideEdge a b p && insideEdge b c p && insideEdge c a p

/-- Address of the atlas texel that a glyph run reads at a pixel, none outside the atlas. -/
def atlasTexel (l : OverlayList) (e : List Byte) (x y : Int) : Option Nat :=
  let k := max 1 (leNat e 0x1C 1)
  let u := leNat e 0x18 2 + ((x - leInt e 0x10 2).toNat) / k
  let v := leNat e 0x1A 2 + ((y - leInt e 0x12 2).toNat) / k
  match l.atlas with
  | some base => if u < l.atlasW ∧ v < l.atlasH then some (base + v * l.atlasW + u) else none
  | none => none

/-- Effective alpha of a primitive at a pixel, none where it does not cover it (R322, R324). -/
def State.coverage (s : State) (l : OverlayList) (e : List Byte) (x y : Int) : Option Nat :=
  let alpha := leNat e 0x0E 2
  if entryType e = 0x42 then (if triangleCovers e x y then some alpha else none)
  else if !(primBox e).has x y then none
  else if entryType e = 0x43 then some alpha
  else
    let g := match atlasTexel l e x y with
      | some a => (s.readByte a).toNat
      | none => 0
    if g = 0 then none else some (divRound (Int.ofNat (alpha * g)) 255).toNat

/-- The region that holds a pixel. -/
def regionAt (rs : List Region) (x y : Nat) : Nat :=
  match rs.find? fun r => decide (r.x0 ≤ x) && decide (x < r.x1) && decide (r.y0 ≤ y) && decide (y < r.y1) with
  | some r => r.number
  | none => 0

/-! ## Colour (R324, R325) -/

/-- A 16-bit normalised value as a channel of the colour format; `i` is the channel. -/
def normalised (colour i c : Nat) : Nat :=
  if colour = 2 then (convert .fp16 none false (fdiv (FNum.ofInt (Int.ofNat c)) (FNum.ofInt 65535))).1
  else
    let top := 2 ^ ((chanWidths colour).getD i 8) - 1
    (divRound (Int.ofNat (c * top)) 65535).toNat

/-- The background of a region as a pixel. -/
def backgroundPixel (colour : Nat) (r : Region) : Nat :=
  ofChannels colour ((List.range 4).map fun i => normalised colour i (r.background.getD i 0))

/-- One channel of a fragment over a destination value. -/
def blendChannel (colour i c a d : Nat) (opaqueBlend : Bool) : Nat :=
  if opaqueBlend || a == 65535 then normalised colour i c
  else if colour = 2 then
    let one := FNum.ofInt 1
    let sf := fdiv (FNum.ofInt (Int.ofNat c)) (FNum.ofInt 65535)
    let af := fdiv (FNum.ofInt (Int.ofNat a)) (FNum.ofInt 65535)
    (convert .fp16 none false (fadd (fmul sf af) (fmul (elemValue .fp16 d) (fsub one af)))).1
  else (divRound (Int.ofNat (normalised colour i c * a + d * (65535 - a))) 65535).toNat

/-- A fragment drawn on a pixel; its alpha channel stays. -/
def drawFragment (colour : Nat) (e : List Byte) (a px : Nat) : Nat :=
  if a = 0 then px
  else
    let d := channels colour px
    ofChannels colour (((List.range 3).map fun i =>
      blendChannel colour i (leNat e (8 + 2 * i) 2) a (d.getD i 0) (leNat e 4 1 == 0)) ++ [d.getD 3 0])

/-! ## Bins (R328) -/

/-- The box of a primitive clipped to the frame or to its region. -/
def clippedBox (p : StreamParams) (rs : List Region) (e : List Byte) : PixelBox :=
  let frame : PixelBox := ⟨0, 0, Int.ofNat p.outW, Int.ofNat p.outH⟩
  let k := leNat e 5 1
  let clip : PixelBox := if k = 0 then frame else match rs.find? fun r => r.number == k with
    | some r => ⟨Int.ofNat r.x0, Int.ofNat r.y0, Int.ofNat r.x1, Int.ofNat r.y1⟩
    | none => ⟨0, 0, 0, 0⟩
  (primBox e).meet (clip.meet frame)

/-- The bins of a tile row that a primitive touches: bin number within the row, upper bins first. -/
def touchedBins (p : StreamParams) (rs : List Region) (row : Nat) (e : List Byte) : List Nat :=
  let b := (clippedBox p rs e).meet ⟨0, Int.ofNat (64 * row), Int.ofNat p.outW, Int.ofNat (64 * row + 64)⟩
  if b.empty then []
  else
    let x0 := b.x0.toNat / 32
    let x1 := (b.x1 - 1).toNat / 32
    let y0 := b.y0.toNat / 32 - 2 * row
    let y1 := (b.y1 - 1).toNat / 32 - 2 * row
    (List.range (y1 - y0 + 1)).flatMap fun j => (List.range (x1 - x0 + 1)).map fun i => (y0 + j) * (4 * p.columns) + x0 + i

/-- The tile of the row that a bin lies in. -/
def binTile (p : StreamParams) (row b : Nat) : Nat := row * p.columns + b % max 1 (4 * p.columns) / 4

/-- Tiles of a row that share a pixel with a region. -/
def regionTiles (p : StreamParams) (rs : List Region) (row : Nat) : List Nat :=
  (p.rowTiles row).filter fun t => rs.any fun r =>
    let c := t % max 1 p.columns
    decide (r.x0 < 128 * c + 128) && decide (128 * c < r.x1) && decide (r.y0 < 64 * row + 64) && decide (64 * row < r.y1)

/-- Numbers of the blocks that a row holds. -/
def RowBins.blocks (r : RowBins) : List Nat := (r.chains.flatMap fun c => c.2) ++ r.sealedBlocks

/-- Blocks of the stream's area (R326). -/
def StreamParams.blocks (p : StreamParams) : Nat := (p.overlayArea - p.recordTable) / 256

/-- Append an index to a bin's chain. -/
def putEntry (b i : Nat) : List (Nat × List Nat) → List (Nat × List Nat)
  | [] => [(b, [i])]
  | (c, is) :: rest => if c = b then (c, is ++ [i]) :: rest else (c, is) :: putEntry b i rest

/-- Entries of a bin so far. -/
def entriesOf (bins : List (Nat × List Nat)) (b : Nat) : List Nat :=
  match bins.find? fun x => x.1 == b with
  | some x => x.2
  | none => []

/-- The lowest block of a stream's area that neither the rows in progress nor row `r` holds (log 69). -/
def State.freeBlock (s : State) (r : RowBins) : Option Nat :=
  let used := r.blocks ++ (s.ovl.rows.filter fun q => q.stream == r.stream && !(q.frame == r.frame && q.row == r.row)).flatMap RowBins.blocks
  leastWith (fun k => decide (k < (s.stream r.stream).p.blocks) && !used.contains k) (0 :: used.map (· + 1))

/-- Address of a block of a stream's area (R326). -/
def State.blockAddress (s : State) (st k : Nat) : Nat := (s.stream st).homes.overlay + (s.stream st).p.recordTable + 256 * k

/-- Write one entry into a block: its count, and the index in its place. -/
def State.writeEntry (s : State) (st k place i : Nat) : State :=
  let a := s.blockAddress st k
  (s.writeNat (a + 2) 2 (place + 1)).writeNat (a + 8 + 4 * place) 4 i

/-- Begin a block of a bin's chain: bin number, no entry, the end of the chain, and the link of the block before (R326). -/
def State.beginBlock (s : State) (st k b : Nat) (before : Option Nat) : State :=
  let s1 := s.writeBytes (s.blockAddress st k) (leBytes 2 b ++ leBytes 2 0 ++ leBytes 4 Config.chainEnd.toNat)
  match before with
  | some p => s1.writeNat (s1.blockAddress st p + 4) 4 k
  | none => s1

/-- Append primitive `i` to the chain of bin `b`; none where it needs a block and none is free (R328, R329). -/
def State.binEntry (s : State) (r : RowBins) (b i : Nat) : Option (State × RowBins) :=
  let n := (entriesOf r.open_ b).length
  let chain := entriesOf r.chains b
  let put (s : State) (r : RowBins) (k : Nat) : State × RowBins :=
    (s.writeEntry r.stream k (n % 62) i, { r with open_ := putEntry b i r.open_ })
  if n % 62 = 0 then
    (s.freeBlock r).map fun k => put (s.beginBlock r.stream k b chain.getLast?) { r with chains := putEntry b k r.chains } k
  else chain.getLast?.map (put s r)

/-- Append entries while blocks are free: entries still to write as (primitive, its bin's place, bin). -/
def State.fillBins (s : State) (r : RowBins) : List (Nat × Nat × Nat) → State × RowBins × Bool
  | [] => (s, r, true)
  | (i, k, b) :: rest =>
    match s.binEntry r b i with
    | none => (s, { r with nextPrim := i, nextBin := k }, false)
    | some t => State.fillBins t.1 t.2 rest

/-- Seal the entries of the row as its next pass. -/
def RowBins.seal (r : RowBins) : RowBins :=
  { r with sealed := some r.open_, sealedBlocks := r.chains.flatMap (fun c => c.2), open_ := [], chains := [] }

/-! ## Tile records (R327) -/

def State.tileRecord (s : State) (st half t : Nat) : Nat := s.readNat ((s.stream st).recordAt half t) 4
def State.setTileRecord (s : State) (st half t v : Nat) : State := s.writeNat ((s.stream st).recordAt half t) 4 v

/-- Set a bit of a tile record. -/
def State.markRecord (s : State) (st half t bit : Nat) : State :=
  let v := s.tileRecord st half t
  s.setTileRecord st half t (if bitOf v bit then v else v + 2 ^ bit)

/-! ## Rows in progress -/

def State.rowBins? (s : State) (st frame row : Nat) : Option RowBins :=
  s.ovl.rows.find? fun r => r.stream == st && r.frame == frame && r.row == row

def State.setRowBins (s : State) (r : RowBins) : State :=
  let others := s.ovl.rows.filter fun x => !(x.stream == r.stream && x.frame == r.frame && x.row == r.row)
  { s with ovl := { s.ovl with rows := r :: others } }

/-- The row's binning has ended, one way or another. -/
def State.rowBinned (s : State) (st : Nat) (f : Frame) (row : Nat) : Bool :=
  f.latched.contains row || (match s.rowBins? st f.index row with
    | some r => r.binned || r.failed
    | none => false)

/-- It is this row's turn: frames in order, rows in order. -/
def State.binTurn (s : State) (st : Nat) (f : Frame) (row : Nat) : Bool :=
  let x := s.stream st
  (x.frames.all fun g => !decide (g.index < f.index) || g.closed || (List.range x.p.rows).all fun r => s.rowBinned st g r) &&
  (List.range row).all fun r => s.rowBinned st f r

/-- An earlier row of the stream still holds blocks. -/
def State.earlierBlocks (s : State) (st frame row : Nat) : Bool :=
  s.ovl.rows.any fun r => r.stream == st && (decide (r.frame < frame) || (r.frame == frame && decide (r.row < row))) &&
    !r.blocks.isEmpty

/-! ## Region records (R334, R335) -/

/-- A region's pixels in the composited store, in raster order. -/
def State.regionPixels (s : State) (st : Nat) (f : Frame) (r : Region) : List Nat :=
  let x := s.stream st
  (List.range (r.y1 - r.y0)).flatMap fun j =>
    let y := r.y0 + j
    (List.range x.p.columns).flatMap fun c =>
      let lo := max r.x0 (128 * c)
      let hi := min r.x1 (128 * c + 128)
      if hi ≤ lo then []
      else ((s.readTile (x.homes.composite.getD f.half 0) x.p.tileCount x.p.colour (y / 64 * x.p.columns + c)).drop
        (128 * (y % 64) + lo - 128 * c)).take (hi - lo)

/-- Tiles that share a pixel with one region. -/
def regionAllTiles (p : StreamParams) (r : Region) : List Nat :=
  (List.range p.rows).flatMap fun row => regionTiles p [r] row

/-- The 32 bytes of a region record. -/
def regionBytes (stream region status frame seq drawn expected : Nat) : List Byte :=
  let body := leBytes 2 stream ++ leBytes 1 region ++ leBytes 1 status ++ leBytes 4 frame ++ leBytes 4 seq ++ leBytes 4 drawn ++
    leBytes 4 expected ++ zeros 8
  body ++ leBytes 4 (crc32c body)

/-- Send the record of every region whose rows have all ended. -/
def State.sendRegions (s : State) (st : Nat) (f : Frame) (l : OverlayList) : State :=
  let x := s.stream st
  (s.listRegions st l).foldl (fun s r =>
    let ended (row : Nat) : Bool := match s.rowBins? st f.index row with
      | some b => b.finished
      | none => false
    let rows := (List.range x.p.rows).filter fun q => decide (r.y0 < 64 * q + 64) && decide (64 * q < r.y1)
    if s.ovl.regionsSent.contains (st, f.index, r.number) || !rows.all ended then s
    else
      let missing := (regionAllTiles x.p r).any fun t => bitOf (s.tileRecord st f.half t) 4
      let drawn := if missing then 0 else crc32c (pixelBytes x.p.bpp (s.regionPixels st f r))
      let s1 := s.sendFabric (regionBytes st r.number (bitN missing) (f.index % 2 ^ 32) l.seq drawn r.expected) 1
      { s1 with ovl := { s1.ovl with regionsSent := (st, f.index, r.number) :: s1.ovl.regionsSent } }) s

/-! ## OVERLAY_BIN_ROW -/

/-- The row has ended: drawn and overlay_drawn are set, store and region records sent (R331, R334, R418). -/
def State.finishRow (s : State) (st : Nat) (f : Frame) (l : OverlayList) (r : RowBins) : State :=
  let x := s.stream st
  let base := x.homes.composite.getD f.half 0
  let s1 := r.tiles.foldl (fun s t =>
    let s1 := s.markRecord st f.half t 3
    let s2 := if x.p.safety then s1.sendFabric (storeRecordBytes st 2 (f.index % 2 ^ 32) t
        (x.p.tileCrc t (s1.readTile base x.p.tileCount x.p.colour t))) 2
      else s1
    s2.setMapByte st f.half t 5 1) s
  (s1.setRowBins { r with finished := true }).sendRegions st f l

/-- Entries of a row still to be written: primitive, place among its bins, bin. -/
def State.binWork (s : State) (st : Nat) (l : OverlayList) (rs : List Region) (r : RowBins) : List (Nat × Nat × Nat) :=
  (List.range (l.prims - r.nextPrim)).flatMap fun j =>
    let i := r.nextPrim + j
    let bins := touchedBins (s.stream st).p rs r.row (s.listPrim st l i)
    let ks := (List.range bins.length).map fun k => (i, k, bins.getD k 0)
    if j = 0 then ks.drop r.nextBin else ks

/-- Bin a row as far as its blocks go (R328, R329). -/
def State.binRow (s : State) (st : Nat) (f : Frame) (l : OverlayList) (r : RowBins) : State :=
  let p := (s.stream st).p
  let rs := s.listRegions st l
  let got := s.fillBins r (s.binWork st l rs r)
  let s1 := got.1
  let r1 := got.2.1
  if got.2.2 then
    let last := !r1.open_.isEmpty || (r1.drawn == 0 && !(regionTiles p rs r.row).isEmpty)
    if last then s1.setRowBins { r1.seal with binned := true } else s1.finishRow st f l { r1 with binned := true }
  else if s1.earlierBlocks st f.index r.row then s1.setRowBins r1
  -- the row needs this pass and at least one more
  else (s1.setRowBins r1.seal).updFrame st f.index fun g => { g with passesMax := max g.passesMax (r1.drawn + 2) }

/-- The frame and row are open to OVERLAY at the clapper's value. -/
def State.overlayOpen (s : State) (st : Nat) (f : Frame) (row : Nat) : Bool :=
  let x := s.stream st
  !s.ovl.stopped && !x.p.batch && x.p.overlayArea != 0 && !f.closed && decide (row < x.p.rows) && !f.latched.contains row &&
  decide (s.clock.clap < 500 * f.latchBeat row)

/-- OVERLAY's own area of a stream, and the tiles of a row in the composited store. -/
def Stream.overlayRanges (x : Stream) : List (Nat × Nat) := [(x.homes.overlay, x.p.overlayArea)]
def Stream.compositeRanges (x : Stream) (f : Frame) (row : Nat) : List (Nat × Nat) :=
  (x.p.rowTiles row).flatMap fun t => storeRanges (x.homes.composite.getD f.half 0) x.p.tileCount x.p.bpp t

def execOverlayBinRow (stream : Fin 1024) (frame : Nat) (row : Nat) (s : State) : Result :=
  .next (let s0 := s.fresh
    let st := stream.val
    let x := s0.stream st
    match s0.frame? st frame with
    | none => s0
    | some f =>
      let s1 := s0.advanceTo (500 * f.releaseBeat x.p.overlayBeats x.p.leadRows row)
      if !s1.overlayOpen st f row || !s1.binTurn st f row then s0
      else
        s1.screen .overlay x.overlayRanges x.overlayRanges fun s1 =>
        let empty := RowBins.begin st frame row
        match x.listFor f, s1.rowBins? st frame row with
        | none, none => s1.setRowBins { empty with binned := true, finished := true }
        | none, some _ => s1
        | some l, none =>
          ((regionTiles x.p (s1.listRegions st l) row).foldl (fun s t => s.markRecord st f.half t 5) s1).binRow st f l empty
        | some l, some r => if r.binned || r.failed || r.sealed.isSome then s1 else s1.binRow st f l r)

/-! ## OVERLAY_PASS (R330, R331) -/

/-- A tile's pixels after the background of its regions. -/
def withBackground (p : StreamParams) (rs : List Region) (t : Nat) (px : List Nat) : List Nat :=
  let c := max 1 p.columns
  px.mapIdx fun i v =>
    let k := regionAt rs (128 * (t % c) + i % 128) (64 * (t / c) + i / 128)
    match (if k = 0 then none else rs.find? fun r => r.number == k) with
    | some r => backgroundPixel p.colour r
    | none => v

/-- The entries of one pass in the eight bins of a tile, in list order. -/
def State.tileEntries (s : State) (st : Nat) (l : OverlayList) (t : Nat) (bins : List (Nat × List Nat)) : List (List (List Byte)) :=
  let p := (s.stream st).p
  let c := max 1 p.columns
  (List.range 2).flatMap fun j => (List.range 4).map fun i =>
    (entriesOf bins (j * (4 * p.columns) + 4 * (t % c) + i)).map fun k => s.listPrim st l k

/-- A glyph run of the pass reads a poisoned texel for the tile, or a block of the pass is poisoned (R253). -/
def State.atlasPoison (s : State) (st : Nat) (l : OverlayList) (t : Nat) (r : RowBins) (bins : List (Nat × List Nat)) : Bool :=
  let c := max 1 (s.stream st).p.columns
  let all := s.tileEntries st l t bins
  !s.poison.isEmpty && ((r.sealedBlocks.any fun k => s.poisonedAt (s.blockAddress st k) 256) || (List.range 8192).any fun i =>
    let x := Int.ofNat (128 * (t % c) + i % 128)
    let y := Int.ofNat (64 * (t / c) + i / 128)
    (all.getD (i / 128 / 32 * 4 + i % 128 / 32) []).any fun e =>
      entryType e == 0x44 && (primBox e).has x y && (atlasTexel l e x y).any fun a => s.poisonedAt a 1)

/-- A tile's pixels after the entries of one pass, in list order at every pixel. -/
def State.drawTile (s : State) (st : Nat) (l : OverlayList) (rs : List Region) (t : Nat) (bins : List (Nat × List Nat))
    (px : List Nat) : List Nat :=
  let p := (s.stream st).p
  let c := max 1 p.columns
  let all := s.tileEntries st l t bins
  px.mapIdx fun i v =>
    let x := 128 * (t % c) + i % 128
    let y := 64 * (t / c) + i / 128
    if p.outW ≤ x ∨ p.outH ≤ y then v
    else
      let k := regionAt rs x y
      (all.getD (i / 128 / 32 * 4 + i % 128 / 32) []).foldl (fun v e =>
        if leNat e 5 1 ≠ k then v
        else match s.coverage l e (Int.ofNat x) (Int.ofNat y) with
          | some a => drawFragment p.colour e a v
          | none => v) v

/-- Draw one tile of a pass: base and background on its first pass, the composite on a later one. -/
def State.passTile (s : State) (st : Nat) (f : Frame) (l : OverlayList) (rs : List Region) (r : RowBins)
    (bins : List (Nat × List Nat)) (t : Nat) : State :=
  let x := s.stream st
  let base := x.homes.composite.getD f.half 0
  let old := s.tileRecord st f.half t
  let passes := min 255 (old / 256 % 256 + 1)
  let put (s : State) (px : List Nat) (bad : Bool) (code : Nat) : State :=
    let s1 := s.writeTile base x.p.tileCount x.p.colour t (s.drawTile st l rs t bins px)
    let s2 := if bad || s.atlasPoison st l t r bins then s1.poisonRange (tileSlotAt base x.p.tileCount x.p.bpp t) (8192 * x.p.bpp) else s1
    s2.setTileRecord st f.half t (code + old / 8 % 32 * 8 + 256 * passes + old / 0x1_0000 * 0x1_0000)
  if r.tiles.contains t then
    put s (s.readTile base x.p.tileCount x.p.colour t) (s.tilePoisoned base x.p.tileCount x.p.colour t) (old % 8)
  else
    let b := (s.sourceOf st f ((s.previousLatched st f).bind fun q => q.tile? t) t).1
    put s (withBackground x.p rs t (s.latchedPixels st b)) (s.latchedPoison st b) b.shown

def execOverlayPass (stream : Fin 1024) (frame : Nat) (row : Nat) (s : State) : Result :=
  .next (let s0 := s.fresh
    let st := stream.val
    let x := s0.stream st
    match s0.frame? st frame, s0.rowBins? st frame row with
    | some f, some r =>
      let s1 := s0.advanceTo (500 * (f.dueBeat x.p.overlayBeats row + 2))
      match r.sealed, x.listFor f with
      | some bins, some l =>
        if !s1.overlayOpen st f row || r.failed then s0
        else
          s1.screen .overlay x.overlayRanges (x.overlayRanges ++ x.compositeRanges f row) fun s1 =>
          let rs := s1.listRegions st l
          let drawn := (x.p.rowTiles row).filter fun t =>
            bins.any (fun b => binTile x.p row b.1 == t) || (r.drawn == 0 && (regionTiles x.p rs row).contains t)
          let s2 := drawn.foldl (fun s t => s.passTile st f l rs r bins t) s1
          let r1 := { r with sealed := none, sealedBlocks := [], drawn := r.drawn + 1, tiles := r.tiles ++ drawn.filter fun t => !r.tiles.contains t }
          let s3 := (s2.setRowBins r1).updFrame st frame fun g => { g with passesMax := max g.passesMax r1.drawn }
          if r.binned then s3.finishRow st f l r1 else s3
      | _, _ => s0
    | _, _ => s0)

/-! ## OVERLAY_PASS_ABANDON (R333) -/

/-- Tiles of a row that some applying primitive or region touches. -/
def State.touchedTiles (s : State) (st : Nat) (l : OverlayList) (row : Nat) : List Nat :=
  let p := (s.stream st).p
  let rs := s.listRegions st l
  let bins := (List.range l.prims).flatMap fun i => touchedBins p rs row (s.listPrim st l i)
  (p.rowTiles row).filter fun t => bins.any (fun b => binTile p row b == t) || (regionTiles p rs row).contains t

def execOverlayPassAbandon (stream : Fin 1024) (frame : Nat) (row : Nat) (s : State) : Result :=
  .next (let s0 := s.fresh
    let st := stream.val
    let x := s0.stream st
    match s0.frame? st frame with
    | none => s0
    | some f =>
      let s1 := s0.advanceTo (500 * f.latchBeat row)
      let r := (s1.rowBins? st frame row).getD (RowBins.begin st frame row)
      match x.listFor f with
      | none => s0
      | some l =>
        if x.p.batch || x.p.overlayArea == 0 || f.closed || f.latched.contains row || !decide (row < x.p.rows) || r.finished ||
            decide (s1.clock.clap < 500 * f.latchBeat row) then s0
        else
          let late := s1.touchedTiles st l row
          let s2 := late.foldl (fun s t => s.markRecord st f.half t 4) s1
          let s3 := s2.setRowBins { r with sealed := none, sealedBlocks := [], open_ := [], chains := [], binned := true, finished := true, tiles := [] }
          (s3.updFrame st frame fun g => { g with overlayLate := g.overlayLate + late.length }).sendRegions st f l)

end Sys2Proof.Machine
end

