-- ==== Sys2Proof/Machine/Tokens.lean ====
section
/-!
DEFINITION. What the sequencer and firmware do with take-done tokens (R253, R269, R277 to R281, R394), substitutions and
retirements of blocks, engines and stage banks at a take and at a frame start (R20, R201, R234, R252, R494), and the outcome
of dailies (R428, R431, R432, R498).
-/
namespace Sys2Proof.Machine

/-! ## Tiles of an entry -/

def Entry.tile? (e : Entry) (t : TileRef) : Bool := e.tiles.contains t

/-- The stream of an entry's tiles where there is only one; the stream field of a log entry. -/
def Entry.oneStream (e : Entry) : Option Nat :=
  match e.tiles.map (·.stream) with
  | [] => none
  | i :: is => if is.all (· == i) && !e.dailies then some i else none

def Entry.streams (e : Entry) : List Nat := unique (e.tiles.map (·.stream))

/-- The streams that go to HELD with the entry's final token where it FAILS (R279). -/
def Entry.ownStreams (e : Entry) : List Nat := if e.dailies || e.owner.isSome then [] else e.streams

/-- The stream is HELD and a cause under which outputs are discarded was among those that held it (R279); a page copy is none. -/
def Stream.heldHard (x : Stream) : Bool := x.state == .held && x.reload

/-- A tile's output is discarded: it is late or withdrawn, its work has been restarted, its stream closes, is downgraded
or HELD (R279 to R281, R253). -/
def State.discards (s : State) (e : Entry) (t : TileRef) : Bool :=
  let x := s.stream t.stream
  match s.work? t with
  | none => true
  | some w => w.withdrawn || !w.holds e.unit e.takeId || x.state == .closing || x.state == .free || x.downgraded || x.heldHard

/-! ## Dailies (R428, R431, R432, R498) -/

/-- The checker downgrades a stream (R413): counter, notice to firmware, event. SAFE_STATE is the caller's. -/
def State.downgradeBy (s : State) (st why frame : Nat) : State :=
  match s.decisions? st with
  | none => s
  | some d =>
    if d.downgraded then s
    else
      let s1 := s.updDecisions st fun x => { x with downgraded := true }
      let s2 := { s1 with chk := { s1.chk with downgrades := satAdd s1.chk.downgrades 1 (2 ^ 32 - 1),
                                               notices := s1.chk.notices ++ [(st, s1.beat)] } }
      s2.checkerEvent (some st) 0x02 why frame

/-- The search of R498 ends, and the reel is to be cleared. -/
def State.endSearch (s : State) (h : Nat) : State :=
  ({ s with dailies := { s.dailies with search := none } }).updReel h fun x => { x with clearing := some x.portions.length }

/-- The next position of the search of R498: a free spare takes the place of its block at the next frame start, and the
block removed is tested; without a spare, or past the last position, the search ends and the reel is to be cleared. -/
def State.searchNext (s : State) (h pos : Nat) : State :=
  match s.reel? h with
  | none => { s with dailies := { s.dailies with search := none } }
  | some r =>
    match r.positions[pos]?, s.spares with
    | some b, sp :: _ =>
      { s with dailies := { s.dailies with search := some (h, pos, some b) },
               units := { s.units with substs := s.units.substs ++ [(⟨b, some sp, false⟩ : Subst)] } }
    | _, _ => s.endSearch h

/-- A reel is condemned (R432): DEADLINE streams downgraded, BATCH streams HELD, SAFE_STATE if any of them is
safety-relevant, and the search of R498 begins. -/
def State.condemn (s : State) (h portion : Nat) : State :=
  let mine := s.openStreams.filter fun i => (s.stream i).p.reel == h && !((s.stream i).state == .closing)
  let safety := mine.any fun i => (s.stream i).p.safety
  let s1 := s.updReel h fun r => { r with condemned := true }
  let s2 := mine.foldl (fun s i =>
    if (s.stream i).p.batch then s.holdStream i .condemned none else s.downgradeBy i 2 0) s1
  let s3 := if safety then s2.assertSafe 3 else s2
  let s4 := (s3.checkerEvent none 0x06 (portion % 256) 0).logMore (.region 19) .dailiesMismatch 8 none
  s4.searchNext h 0

/-- A condemned reel is cleared: its BATCH streams may resume (R432, R493). -/
def State.clearReel (s : State) (h : Nat) : State :=
  let s1 := s.updReel h fun r => { r with condemned := false, clearing := none }
  s1.openStreams.foldl (fun s i => if (s.stream i).p.reel == h then s.updStream i fun x =>
    { x with held := x.held.map fun c => if c.cause = .condemned then { c with clears := some s1.beat } else c } else s) s1

/-- A portion that passed counts towards clearing a condemned reel whose search has ended; any other starts it again. -/
def State.countClearing (s : State) (h : Nat) (pass : Bool) : State :=
  match s.reel? h with
  | none => s
  | some r =>
    match r.clearing with
    | none => s
    | some n =>
      if !pass then s.updReel h fun x => { x with clearing := some x.portions.length }
      else if n ≤ 1 then s.clearReel h
      else s.updReel h fun x => { x with clearing := some (n - 1) }

/-- The portion has ended: all its takes have their tokens, and its records have been compared or cannot come. -/
def State.concludeDailies (s : State) : State :=
  let d := s.dailies
  if !d.active || !d.takesLeft.isEmpty || !(d.expected.isEmpty || d.incomplete || d.mismatch) then s
  else if d.mismatch then
    let s1 := ({ s with dailies := { d with active := false, again := true, failed := true, expected := [] } }).countClearing
      d.reel false
    if d.failed && !((s.reel? d.reel).any fun r => r.condemned) then s1.condemn d.reel d.portion else s1
  else if d.incomplete then { s with dailies := { d with active := false, again := true, expected := [] } }
  else ({ s with dailies := { d with active := false, again := false, failed := false } }).countClearing d.reel true

/-- The token of a dailies take (R431). -/
def State.dailiesToken (s : State) (takeId status : Nat) : State :=
  let d := s.dailies
  ({ s with dailies := { d with takesLeft := d.takesLeft.filter (· ≠ takeId),
                                incomplete := d.incomplete || decide (status ≠ 0) } }).concludeDailies

/-! ## Tokens of stream takes -/

/-- Add the conversion counts of a tile to its stream, where they saturate (R150, R465). -/
def State.addCounts (s : State) (c : TileRef × Nat × Nat × Nat) : State :=
  let top := 2 ^ 32 - 1
  s.updStream c.1.stream fun x =>
    { x with count := { x.count with convNan := satAdd x.count.convNan c.2.1 top,
                                     convOver := satAdd x.count.convOver c.2.2.1 top,
                                     convUnder := satAdd x.count.convUnder c.2.2.2 top } }

/-- A tile of a take that ended ENDED. -/
def State.tileEnded (s : State) (e : Entry) (tok : Token) (t : TileRef) : State :=
  if tok.lost.contains t then
    if (s.stream t.stream).p.batch then s.updWork t fun w => w.again e.unit e.takeId
    else s.updWork t fun w => if w.holds e.unit e.takeId then { w.drop e.takeId with withdrawn := true } else w
  else s.updWork t fun w => if w.holds e.unit e.takeId then { w.drop e.takeId with ended := max w.ended (e.unit + 1) } else w

/-- A BATCH frame is computed again in full: every tile from its fallback tile and step 0, its verdicts cleared, its fallback records
released (R253, R407, R411). -/
def State.restartFrame (s : State) (st frame : Nat) : State :=
  match s.frame? st frame with
  | none => s
  | some f =>
    let n := f.tiles.length
    let s1 := (List.range n).foldl (fun s t =>
      (List.range 4).foldl (fun s b => s.setMapByte st f.half t b 0) s) s
    let s2 := (s1.updFrame st frame fun g =>
        { g with tiles := freshTiles n, poisoned := false, written := [], doneRows := [] }).dropHeld fun t =>
      t.stream == st && t.frame == frame
    let s3 := s2.releaseRecords st f (List.range n)
    let s3 := { s3 with
      motion := { s3.motion with tokens := s3.motion.tokens.filter fun k => !(k.1 == st && k.2.1 == frame) },
      chk := { s3.chk with pendingSource := s3.chk.pendingSource.filter fun p => !(p.stream == st && p.frame == frame) } }
    s3.updDecisions st fun d =>
      { d with rejects := d.rejects.filter fun r => !(r.1 == frame % 2 ^ 32),
               judgedFrames := d.judgedFrames.filter fun i => !(i == frame % 2 ^ 32) }

/-- A tile of a take that read poison. -/
def State.tilePoison (s : State) (e : Entry) (t : TileRef) : State :=
  match s.work? t with
  | none => s
  | some w =>
    if !w.holds e.unit e.takeId then s
    else if (s.stream t.stream).p.batch then s.restartFrame t.stream t.frame
    else
      (s.updWork t fun w => { w.drop e.takeId with withdrawn := true }).updFrame t.stream t.frame fun g =>
        { g with poisoned := true }

/-- The streams with tiles in a FAILED take go to HELD with cause 0 (R279); their DEADLINE tiles get no further unit, and
BATCH tiles wait for the reload. -/
def State.tileFailed (s : State) (e : Entry) (t : TileRef) : State :=
  if (s.stream t.stream).p.batch then s.updWork t fun w => w.again e.unit e.takeId
  else s.updWork t fun w => if w.holds e.unit e.takeId then { w.drop e.takeId with withdrawn := true } else w

/-- What the owner, or a member for cued work, does with a final token. The counts of every tile go to its stream whatever the
status, those of cued work with the token to the owner (R150). -/
def State.finalToken (s : State) (e : Entry) (tok : Token) : State :=
  let s := if e.owner.isSome then s else tok.counts.foldl State.addCounts s
  match e.owner with
  | some o =>
    let s1 := if tok.status = 4 ∨ tok.status = 5 then s.refund e else s
    { s1 with out := { s1.out with tokens := s1.out.tokens ++ [(o.1, ⟨o.2, tok.status, tok.finish - tok.start,
      tok.counts.map (·.2)⟩)] } }
  | none =>
    if e.dailies then s.dailiesToken e.takeId tok.status
    else if tok.status = 0 then e.tiles.foldl (fun s t => s.tileEnded e tok t) s
    else if tok.status = 3 then
      let s1 := e.tiles.foldl (fun s t => s.tileFailed e t) s
      e.streams.foldl (fun s i => s.holdStream i .failedTake (some (s.beat + 1))) s1
    else if tok.status = 6 then e.tiles.foldl (fun s t => s.tilePoison e t) s
    else (e.tiles.foldl (fun s t => s.updWork t fun w => w.again e.unit e.takeId) s).refund e

/-- Apply a token at a build (R273, R274). A token of a split or expert take waits for those of the members (R394). -/
def State.applyToken (s : State) (tok : Token) : State :=
  match s.seq.known.find? fun e => e.takeId == tok.takeId with
  | none => s
  | some e =>
    if tok.status = 1 ∨ tok.status = 2 then
      let rest := s.seq.interim.filter fun i => !(i.1 == tok.takeId)
      { s with seq := { s.seq with interim := (tok.takeId, tok.status, tok.finish) :: rest } }
    else
      match s.seq.remote.find? fun r => r.takeId == tok.takeId && decide (0 < r.left) with
      | some _ => { s with seq := { s.seq with
          lastEnd := max s.seq.lastEnd tok.finish,
          remote := s.seq.remote.map fun r => if r.takeId = tok.takeId then { r with token := some tok } else r } }
      | none =>
        let bad := s.seq.remote.any fun r => r.takeId == tok.takeId && r.bad
        let known := s.seq.known.filter fun x => !(x.takeId == tok.takeId)
        let interim := s.seq.interim.filter fun i => !(i.1 == tok.takeId)
        let remote := s.seq.remote.filter fun r => !(r.takeId == tok.takeId)
        let exchanges := if bad || tok.status ≠ 0 then s.set.exchanges.filter fun x => !(x.takeId == tok.takeId) else s.set.exchanges
        ({ s with set := { s.set with exchanges := exchanges },
                  seq := { s.seq with known := known, interim := interim, remote := remote,
                                      lastEnd := max s.seq.lastEnd tok.finish } }).finalToken e
          (if bad ∧ tok.status = 0 then { tok with status := 4 } else tok)

/-! ## Substitution now and at a frame start (R20, R201, R494) -/

/-- Put a block in the place of another in every reel's position map. -/
def State.replaceBlock (s : State) (old new : Nat) : State :=
  { s with reels := s.reels.map (fun r => { r with positions := replaceIn old new r.positions }) }

/-- The same in the maps of the frames in progress. -/
def State.replaceInFrames (s : State) (old new : Nat) : State :=
  s.openStreams.foldl (fun s i => s.updStream i fun x =>
    { x with frames := x.frames.map (fun f => { f with positions := replaceIn old new f.positions }) }) s

/-- R20's substitution at once; the flag says whether a spare was free. `but` are the streams that the FAILED take holds itself. -/
def State.substituteNow (s : State) (b : Nat) (cause : Cause) (stream : Option Nat) (but : List Nat) : State × Bool :=
  match s.spares with
  | sp :: _ =>
    let s1 := ((s.logMore (.cell b) cause 2 stream).replaceBlock b sp).replaceInFrames b sp
    ((s1.updBlock b fun u => { u with retired := true }).writeService, true)
  | [] =>
    let last := s.lastBlock b
    let s1 := (s.logMore (.cell b) cause (s.retireAction b) stream).retireAlone b but
    (if last then s1 else s1.logMore (.cell b) cause 8 stream, false)

/-- The free standbys (R200): the standby while it works, no engine map holds it and no substitution waits for it. There is one for
the chip, and it is not free while the map of a reel loaded earlier still holds it (DESIGN CHOICE, log 118). -/
def State.standbys (s : State) : List Nat :=
  s.workingEngines.filter fun k => s.units.standby == some k && !(s.reels.any fun r => r.ready && r.engineMap.contains k) &&
    !(s.units.engineSubsts.any fun x => x.2 == some k)

def State.retireEngine (s : State) (k : Nat) : State := (s.updEngine k fun u => { u with retired := true }).writeService

/-- Put an engine in the slot of another in every engine map (R200). -/
def State.replaceEngine (s : State) (old new : Nat) : State :=
  { s with reels := s.reels.map (fun r => { r with engineMap := replaceIn old new r.engineMap }) }

/-- The spare of a substitution that becomes current: the one that was free when it was called for, or the lowest-numbered one now
where that one has left since (R494). -/
def State.spareFor (s : State) (n : Nat) : Option Nat :=
  if s.fitBlocks.contains n && !s.mappedBlock n then some n else s.spares.head?

/-- One substitution becomes current: the block taken out is retired, or is tested in the search of R498, which ends where no spare is
left. Without a spare the block is retired and the streams of its maps are held. -/
def State.applySubst (s : State) (x : Subst) : State :=
  match x.new.bind s.spareFor with
  | none => if x.retire then s.retireAlone x.old []
      else (match s.dailies.search with
        | some (h, _, _) => s.endSearch h
        | none => s)
  | some n =>
    let s1 := s.replaceBlock x.old n
    if x.retire then (s1.updBlock x.old fun u => { u with retired := true }).writeService
    else s1.updBlock x.old fun u => { u with testing := true }

def State.applyEngineSubst (s : State) (x : Nat × Option Nat) : State :=
  (match x.2 with
    | some n => s.replaceEngine x.1 n
    | none => s).retireEngine x.1

/-- The units of the weight store of region `k` from the bank on lie in other banks once the bank is withdrawn: their fills are to
be made again (R235). -/
def State.unfill (s : State) (k bank : Nat) : State :=
  let at_ := (s.weightStoreBanks k).idxOf bank
  { s with reels := s.reels.map fun r => { r with filled := r.filled.filter fun u => decide (u / 4 < at_) } }

/-- Withdraw a stage bank (R235, R252): MEMORY_DEGRADED with detail 1, and the hot set follows the capacity. -/
def State.withdrawBank (s₀ : State) (rb : Nat × Nat) : State :=
  let s := s₀.unfill rb.1 rb.2
  (({ s with units := { s.units with stageOut := s.units.stageOut ++ [rb] } }).writeService.postDevice 0x0025 1 0
    [Int.ofNat rb.1, Int.ofNat rb.2]).shrinkHot

/-- Blocks that passed the returning test become free spares (R496); loads that failed for want of blocks may be tried again
(R493). -/
def State.backToService (s : State) (bs : List Nat) : State :=
  if bs.isEmpty then s
  else (bs.foldl (fun s b => s.updBlock b fun _ => ⟨false, false, false, []⟩) s).writeService.clearLoadFailed

/-- Changes that wait for a frame start become current at the first placement of any frame (R234). -/
def State.applyPending (s : State) : State :=
  let u := s.units
  let s0 := { s with units := { u with substs := [], engineSubsts := [], stagePending := [], returns := [] } }
  let s1 := s0.backToService u.returns
  let s2 := u.substs.foldl State.applySubst s1
  let s3 := u.engineSubsts.foldl State.applyEngineSubst s2
  (u.stagePending.foldl State.withdrawBank s3).releaseSlots fun h => match h.hold with
    | .frameStart => true
    | .pageScheduled _ => true
    | _ => false

end Sys2Proof.Machine
end

