-- ==== Sys2Proof/Machine/Sheets.lean ====
section
/-!
DEFINITION. Building a call sheet (R267 to R276): accounts, readiness, pressing and ranking of units, the prediction, frame
starts with their reloads (R234, R238, R239, R492 to R494), dailies sheets (R276, R428), and the commands CALL_SHEET_SEAL,
CALL_SHEET_ARRIVE and SET_CUE.
-/
namespace Sys2Proof.Machine

/-! ## Accounts (R267, R268) -/

/-- Cycles of a unit over `b` tiles in the shape and with the paths that a frame runs under. -/
def State.unitCycles (s : State) (r : LoadedReel) (f : Frame) (unit : Nat × Part) (b : Nat) : Nat :=
  let freq := if f.begun then f.freq else if f.keySeq then r.freqKey else r.freqTween
  match (reelSteps r.content f.keySeq)[unit.1]? with
  | some st => stepCycles (s.frameShape r f) (reelSteps r.content f.keySeq) (freq.getD unit.1 false) st b unit.2
  | none => 0

/-- ΣR of R271 in whole cycles over β: cycles of every unplaced unit of the stream's tiles due by beat `d`. -/
def State.unplacedCycles (s : State) (x : Stream) (r : LoadedReel) (d : Nat) : Nat :=
  let c := max 1 x.p.columns
  (x.frames.map fun f => if f.closed || f.skipped then 0
    else
      let units := s.frameUnitsOf r f
      ((List.range f.tiles.length).map fun t => match f.tiles[t]? with
        | some w => if w.withdrawn || decide (d < f.dueBeat x.p.overlayBeats (t / c)) then 0
            else ((units.drop w.placed).map fun u => s.unitCycles r f u r.content.beta).sum
        | none => 0).sum).sum

/-- A unit is pressing at the build of sheet `m` (R271). -/
def State.pressingAt (s : State) (x : Stream) (r : LoadedReel) (d m : Nat) : Bool :=
  decide (d - m < 4 + ceilDiv (s.unplacedCycles x r d) (1500 * max 1 r.content.beta))

/-! ## Units (R265, R270) -/

/-- A ready unit, or a cue of a set member: its order key within the tier, its tile, the batch key, and its due beat. -/
structure Work where
  tile : TileRef
  reel : Nat
  unit : Nat
  step : Nat
  part : Part
  keySeq : Bool
  batch : Bool
  due : Nat
  pressing : Bool
  order : List Nat
  batchKey : List Nat
  cue : Option Cue
  deriving DecidableEq, Repr

/-- The tier of Table 8.4 with the accounts as they stand. -/
def State.tier (s : State) (w : Work) : Nat :=
  if w.batch then (if 0 < s.seq.floor then 2 else 4)
  else if w.pressing then 0
  else if 0 < (s.stream w.tile.stream).account then 1 else 3

def Work.rank (w : Work) (tier : Nat) : List Int := (tier :: w.order).map Int.ofNat

/-- A ratio in lowest terms. -/
def reduced (a b : Nat) : List Nat :=
  let g := max 1 (Nat.gcd a b)
  [a / g, b / g]

/-- Ready units of one frame at the build of sheet `m`; `doomed` are the takes predicted withdrawn (R274). -/
def State.frameUnits (s : State) (m : Nat) (doomed : List Nat) (st : Nat) (x : Stream) (r : LoadedReel) (f : Frame) : List Work :=
  let units := s.frameUnitsOf r f
  let c := max 1 x.p.columns
  let room := !x.p.batch || (!(s.ring st 2).full && !(s.ring st 5).full)
  if f.closed || f.skipped || f.downgraded || f.poisoned && x.p.batch || !f.kind.reelRun || !room then []
  else (List.range f.tiles.length).filterMap fun t =>
    match f.tiles[t]? with
    | none => none
    | some w =>
      let row := t / c
      let due := if x.p.batch then 0 else f.dueBeat x.p.overlayBeats row
      let open_ := f.doneRows.contains row &&
        (x.p.batch || (decide (f.releaseBeat x.p.overlayBeats x.p.leadRows row ≤ m) && decide (m ≤ due)))
      match units[w.placed]? with
      | none => none
      | some u =>
        if w.withdrawn || !open_ || w.takes.any (fun k => doomed.contains k.2) then none
        else
          let active := if f.begun then f.active else if r.reload || x.reloadDue then s.nextArrays else r.arrays
          let split := if f.arrays = 0 then active else f.arrays
          some { tile := ⟨st, f.index, t⟩, reel := r.handle, unit := w.placed, step := u.1, part := u.2, keySeq := f.keySeq,
                 batch := x.p.batch, due := due, pressing := !x.p.batch && s.pressingAt x r due m,
                 order := if x.p.batch then [(st + 2047 - s.seq.turn) % 1024, f.entry, f.index, u.1, t]
                   else [due, u.1, st, f.index, t],
                 batchKey := [r.handle, bitN f.keySeq, w.placed] ++ reduced x.p.renW x.p.outW ++ reduced x.p.renH x.p.outH ++
                   [x.p.colour, x.p.planes, active, split],
                 cue := none }

/-- The unit of a cue (R394): tier 0 ordered by due beat, or BATCH work under this chip's floor. -/
def cueUnit (seq : Sequencer) (k : Cue × Part) : Work :=
  let c := k.1
  { tile := ⟨cuedStream c.owner.val c.stream, c.frames.headD 0, c.tiles.headD 0⟩, reel := c.reel, unit := 0, step := c.step,
    part := k.2, keySeq := c.keySeq, batch := c.batch, due := c.dueBeat, pressing := !c.batch,
    order := if c.batch then [(c.stream + 2047 - seq.turn) % 1024, 0, c.frames.headD 0, c.step, c.tiles.headD 0]
      else [c.dueBeat, c.step, c.stream, c.frames.headD 0, c.tiles.headD 0],
    batchKey := [], cue := some c }

/-- Every ready unit. A condemned reel, and one whose reload did not take place, runs no stream take. -/
def State.readyUnits (s : State) (m : Nat) (doomed : List Nat) : List Work :=
  (s.openStreams.flatMap fun st =>
    let x := s.stream st
    if x.state == .running && !x.downgraded then
      match s.reel? x.p.reel with
      | some r => if r.condemned || !(r.ready || r.reload || x.reloadDue) || (r.setScope && !s.set.epoch.any fun e => e.start ≤ m) then []
        else x.frames.flatMap fun f => s.frameUnits m doomed st x r f
      | none => []
    else []) ++ (s.seq.cues.filter fun c => (s.reel? c.1.reel).isSome).map (cueUnit s.seq)

/-- Insert a unit in rank order. -/
def State.insertWork (s : State) (w : Work) : List Work → List Work
  | [] => [w]
  | y :: ys => if keyLess (w.rank (s.tier w)) (y.rank (s.tier y)) then w :: y :: ys else y :: State.insertWork s w ys

def State.ranked (s : State) (ws : List Work) : List Work := ws.foldl (fun acc w => s.insertWork w acc) []

/-! ## Prediction (R274) -/

/-- The local take has ended and its token waits for members of the set. -/
def Sequencer.endedHere (q : Sequencer) (takeId : Nat) : Bool := q.remote.any fun r => r.takeId == takeId && r.token.isSome

/-- Predicted end of the takes that are known, in cycles from power-up, and the takes predicted withdrawn. -/
def State.predict (s : State) : Nat × List Nat :=
  let q := s.seq
  (q.known.filter fun e => !q.endedHere e.takeId).foldl (fun (acc : Nat × List Nat) e =>
    match q.interim.find? fun i => i.1 == e.takeId with
    | some i => (max acc.1 (i.2.2 + e.cycles + (if i.2.1 = 2 then 6000 else 0)), acc.2)
    | none =>
      let start := max acc.1 (s.beatCycle e.beat + (if e.dailies then 64 else 0))
      if !e.dailies && decide (s.beatCycle e.beat + Config.beatCycles ≤ start) then (acc.1, acc.2 ++ [e.takeId])
      else (start + e.cycles, acc.2)) (q.lastEnd, [])

/-! ## Frame starts -/

/-- R494: DEADLINE streams of a reloaded reel stay HELD in reverse order of STREAM_OPEN until ΣD and Tp fit. -/
def State.fitReload (s : State) (h : Nat) (ls : List Load) : Nat → State
  | 0 => s
  | fuel + 1 =>
    if s.capacityFits ls && s.latencyFits ls then s
    else
      let last := ls.foldl (fun (best : Option Load) l =>
        if l.p.batch || !(l.p.reel == h) then best
        else match best with
          | some b => if (s.stream b.stream).opened < (s.stream l.stream).opened then some l else best
          | none => some l) none
      match last with
      | none => s
      | some l => State.fitReload (s.holdStream l.stream .loadFailed none) h (ls.filter fun k => !(k.stream == l.stream)) fuel

/-- The reload of R492 at a frame start; a check that fails at the new P stops it (R427). -/
def State.reloadReel (s : State) (r : LoadedReel) : State :=
  let r1 := LoadedReel.load s r
  if r1.arrays = 0 || !reelParamOk r1.content (s.shapeNow r.content.canonical r.setScope) then
    let s1 := s.updReel r.handle fun x => { x with ready := false, reload := false, positions := [], engineMap := [], portions := [] }
    (s1.reelStreams r.handle).foldl (fun s i => s.holdStream i .loadFailed none) s1
  else
    let s0 := { s with units := { s.units with standby := s.standbyNow } }
    let s1 := (s0.updReel r.handle fun _ => r1).recompute
    s1.fitReload r.handle s1.loads s1.loads.length

/-- A frame start of a stream, noted against the candidate pages (Table 7.7). -/
def State.noteStart (s : State) (st : Nat) : State :=
  let note (c : PageCandidate) := if c.started.contains st then c else { c with started := c.started ++ [st] }
  { s with pool := { s.pool with candidates := s.pool.candidates.map note } }

/-- The frame start of a frame: pending changes become current, the reel is loaded again where one is due, and the frame
takes the position map and P (R234). -/
def State.startFrame (s : State) (st frame : Nat) : State :=
  let h := (s.stream st).p.reel
  let s1 := s.applyPending
  let s2 := match s1.reel? h with
    | some r => if r.reload || !r.ready || (s1.stream st).reloadDue then
        (s1.updStream st fun x => { x with reloadDue := false }).reloadReel r else s1
    | none => s1
  match s2.reel? h with
  | some r => if r.ready && (s2.stream st).state == .running then
      (s2.noteStart st).updFrame st frame fun f => { f with
        begun := true, positions := r.positions, active := r.arrays, engines := r.engines,
        arrays := if f.arrays = 0 then r.arrays else f.arrays, chips := if f.arrays = 0 then r.chips else f.chips,
        freq := if f.keySeq then r.freqKey else r.freqTween }
    else s2
  | none => s2

/-- Start the frames of the batch that have none yet. -/
def State.startFrames (s : State) (ws : List Work) : State × List (Nat × Nat) :=
  ws.foldl (fun (acc : State × List (Nat × Nat)) w =>
    if w.cue.isSome || ((acc.1.frame? w.tile.stream w.tile.frame).any fun f => f.begun) then acc
    else (acc.1.startFrame w.tile.stream w.tile.frame, acc.2 ++ [(w.tile.stream, w.tile.frame)])) (s, [])

/-- Hot-set decisions of a build's frame starts, in order of stream number (R238, R239). -/
def State.hotStarts (s : State) (fs : List (Nat × Nat)) : State :=
  (List.range 1024).foldl (fun s st => (fs.filter fun f => f.1 == st).foldl (fun s f =>
    let m := s.reelFrameStart (s.stream st).p.reel
    m.1.updFrame st f.2 fun g => { g with cold := some m.2 }) s) s

/-! ## Placing a take (R269, R273) -/

/-- Charges: floor(16 c k / b) for each stream, the remainder to the head's stream. -/
def chargesOf (c : Nat) (tiles : List TileRef) (head : Nat) : List (Nat × Nat) :=
  let b := max 1 tiles.length
  let part (st : Nat) : Nat := 16 * c * (tiles.filter fun t => t.stream == st).length / b
  let all := unique (tiles.map (·.stream))
  let rest := 16 * c - (all.map part).sum
  all.map fun st => (st, part st + (if st = head then rest else 0))

/-- Tiles of a cue, under the stream number of another owner's work. -/
def cueTiles (c : Cue) : List TileRef :=
  (c.tiles.zip (List.range c.tiles.length)).map fun t =>
    ⟨cuedStream c.owner.val c.stream, c.frames.getD t.2 (c.frames.headD 0), t.1⟩

/-- The expert step whose input rows the route entries of gate step `k` choose (R213, R393). -/
def expertAfter (steps : List Step) (k : Nat) : Option Nat :=
  (List.range steps.length).find? fun j => (steps[j]?).any fun st => st.inputs.contains (.step k) && (match st.op with
    | .expert _ _ _ => true
    | _ => false)

/-- The takes that member `i` runs for a unit of the owner (R393, R394): its parts of a split step with the share of the owner, or
with the join where the owner has none, and its experts with the gate; and the step they belong to. -/
def memberTakes (u : LoadShape) (steps : List Step) (step : Nat) (part : Part) (i : Nat) : Nat × List Part :=
  match steps[step]? with
  | none => (step, [])
  | some st =>
    let there := { u with index := i }
    if st.kind == .split then
      let first := part == .share || (part == .join && (u.partsOf st u.index).2 == 0)
      (step, if first then (there.partsRun st).filter (· == .share) else [])
    else match st.kind, st.op, expertAfter steps step with
      | .expert, .gate _ _ _, some j => (j, match steps[j]? with
          | some e => there.partsRun e
          | none => [])
      | _, _, _ => (step, [])

/-- The inputs that cued work reads from its owner: of a split step its inputs; of an expert step, whose rows the exchange brings (R397),
the route entries and what follows them, and the residual (DEDUCED, log 101). -/
def fetchedInputs (st : Step) : List Src :=
  match st.op with
  | .expert _ _ _ => st.inputs.drop 1 ++ st.residualSrc.toList
  | _ => st.inputs

/-- Where the owner's memory holds a tensor of a tile, or will hold it: the first copy in its benches, its place in the pool, else a place
that only the owner knows (log 101). -/
def State.fillPlace (s : State) (t : TileRef) (x : Src) : List (Nat × Nat) × Bool :=
  match s.bench.find? fun h => h.tile == t && h.src == x with
  | some h =>
    let n := tensorSize h.data h.pad
    (match h.spilled with
      | some a => ([(a, if h.packed then packedSize n else n)], h.packed)
      | none => (areaRanges h.at_ 0 n, false))
  | none => (Config.cueFill t.stream t.frame t.tile x, false)

/-- The fill list of a cue (R394). -/
def State.fillList (s : State) (tiles : List TileRef) (st : Step) : List CueFill :=
  (tiles.zip (List.range tiles.length)).flatMap fun t => (fetchedInputs st).map fun x =>
    let p := s.fillPlace t.1 x
    ⟨t.2, x, p.1, p.2⟩

/-- The cues an owner sends with an entry, one to each other member that has part of the work (R394), and how many takes they
ask for. -/
def State.cuesFor (s : State) (u : LoadShape) (steps : List Step) (e : Entry) (due : Nat) (batch : Bool) :
    List (Nat × Cue) × Nat :=
  let mine := (List.range u.chips).filterMap fun i =>
    let m := memberTakes u steps e.step e.part i
    if i = s.set.index || u.chips ≤ 1 || m.2.isEmpty then none else some (i, m)
  (mine.map fun x =>
    (x.1, { owner := Fin.ofNat 16 s.set.index, stream := (e.tiles.headD ⟨0, 0, 0⟩).stream, frames := e.tiles.map (·.frame),
            phases := e.phases, draws := e.draws, tiles := e.tiles.map (·.tile), fills := ((steps[x.2.1]?).map (s.fillList e.tiles)).getD [], reel := e.reel,
            step := x.2.1, takeId := e.takeId, dueBeat := due, batch := batch, keySeq := e.keySeq }),
   (mine.map fun x => x.2.2.length).sum)

/-- The exchange that follows an entry whose work is shared (R294, R397). -/
def exchangeOf (steps : List Step) (e : Entry) : Exchange :=
  ⟨e.takeId, e.tiles, 1, false, e.step, (steps[e.step]?).any fun st => st.kind == .split⟩

/-- The sheet being built: entries so far, the planned start of the next one, frame starts met, cues to send at the seal. -/
structure Build where
  s : State
  entries : List Entry
  t : Nat
  starts : List (Nat × Nat)
  cues : List (Nat × Cue)

/-- Number of tiles kept under the fit rule before a dailies beat; none when not even one fits. -/
def fitBatch (cyc : Nat → Nat) (t : Nat) : Nat → Option Nat
  | 0 => none
  | b + 1 => if t + cyc (b + 1) ≤ 1500 then some (b + 1) else fitBatch cyc t b

/-- The step reads its reel's stage image: weights, scales, biases, tables or knots (R236), which a dolly brings before each take
(Table 7.3, R240). -/
def readsImage (st : Step) : Bool :=
  !(weightsOf st).isEmpty ||
  (match st.finish.path with
    | .integer _ => true
    | .float p => !p.scale.isEmpty || !p.bias.isEmpty || (match p.act with
      | .table _ _ _ _ _ => true
      | _ => false)) ||
  (match st.op with
    | .norm _ _ _ _ | .eltwise _ (some _) => true
    | _ => false)

/-- The seed and the step counter of a tile's rounding bits (R302). -/
def State.drawOf (s : State) (t : TileRef) : List Byte × Nat :=
  match s.frame? t.stream t.frame with
  | some f => ((s.stream t.stream).p.seed, stepCounter f.keyB f.phase)
  | none => ([], 0)

/-- The entry of a unit over its tiles, planned at `t`, with `c` cycles. -/
def State.entryFor (s : State) (m t c : Nat) (w : Work) (tiles : List TileRef) (freq : Bool) : Entry :=
  let deps := unique (tiles.filterMap fun t => if w.cue.isSome then none
    else (s.work? t).bind fun k => (k.takes.find? fun x => x.1 + 1 == w.unit).map (·.2))
  { takeId := s.seq.takeId, dailies := false, tiles := tiles, reel := w.reel, step := w.step, unit := w.unit, part := w.part,
    keySeq := w.keySeq, freq := freq, cycles := c, planned := t, deps := deps,
    charges := if w.cue.isSome then (if w.batch then [(w.tile.stream, 16 * c)] else []) else chargesOf c tiles w.tile.stream,
    beat := m, phases := (w.cue.map (·.phases)).getD (tiles.map fun t => ((s.frame? t.stream t.frame).map (·.phase)).getD 0),
    draws := (w.cue.map (·.draws)).getD (tiles.map s.drawOf), fills := (w.cue.map (·.fills)).getD [],
    needAck := ((s.reel? w.reel).bind fun r => (reelSteps r.content w.keySeq)[w.step]?).any readsImage,
    owner := w.cue.map fun k => (k.owner.val, k.takeId) }

/-- Append one entry over a batch headed by `w`: charges, the tiles' takes, and the work that members are cued for. -/
def Build.append (b : Build) (m : Nat) (w : Work) (steps : List Step) (u : LoadShape) (freq : Bool) (c : Nat)
    (tiles : List TileRef) : Build :=
  let s := b.s
  let e := s.entryFor m b.t c w tiles freq
  let s1 := e.charges.foldl (fun (s : State) (k : Nat × Nat) => s.credit k.1 (-(Int.ofNat k.2))) (match w.cue with
    | some k => { s with seq := { s.seq with cues := s.seq.cues.filter fun q => !(q == (k, w.part)) } }
    | none => tiles.foldl (fun s t =>
        s.updWork t fun k => { k with placed := k.placed + 1, takes := k.takes ++ [(w.unit, e.takeId)] }) s)
  let cues := if w.cue.isSome then ([], 0) else s.cuesFor u steps e w.due w.batch
  let s2 := { s1 with
    seq := { s1.seq with
      takeId := (e.takeId + 1) % 65536, turn := if w.batch && w.cue.isNone then w.tile.stream else s1.seq.turn,
      remote := if cues.2 = 0 then s1.seq.remote else s1.seq.remote ++ [(⟨e.takeId, cues.2, false, none⟩ : Remote)] },
    set := { s1.set with exchanges := if cues.2 = 0 then s1.set.exchanges else s1.set.exchanges ++ [exchangeOf steps e] } }
  { b with s := s2, entries := b.entries ++ [e], t := b.t + c, cues := b.cues ++ cues.1 }

/-- Shape, path and cycles of a unit at the frame that it belongs to. -/
def State.unitFigures (s : State) (r : LoadedReel) (w : Work) : LoadShape × Bool × (Nat → Nat) :=
  match w.cue, s.frame? w.tile.stream w.tile.frame with
  | none, some f => (s.frameShape r f, f.freq.getD w.step false, s.unitCycles r f (w.step, w.part))
  | _, _ =>
    let u := r.shape s.set.index
    (u, false, fun b => match (reelSteps r.content w.keySeq)[w.step]? with
      | some st => stepCycles u (reelSteps r.content w.keySeq) false st b w.part
      | none => 0)

/-- One turn of the loop of R273; false when it stops. The frame start of the head is taken back where the fit rule stops the
build: nothing of the frame is placed then (R234, R238). A frame start whose reload does not take place holds its stream, and the batch that
was chosen with it is then chosen again without that stream, which is no longer RUNNING (R257). -/
def Build.next (b : Build) (m : Nat) (doomed : List Nat) : Build × Bool :=
  match b.s.ranked (b.s.readyUnits m doomed) with
  | [] => (b, false)
  | w :: ws =>
    let sf := b.s.startFrames [w]
    if !sf.2.isEmpty && !((sf.1.frame? w.tile.stream w.tile.frame).any fun f => f.begun) then
      -- the reload did not take place: nothing of the frame is placed
      ({ b with s := sf.1 }, true)
    else match sf.1.reel? w.reel with
    | none => (b, false)
    | some r =>
      let fig := sf.1.unitFigures r w
      let mates := ws.filter fun y => y.cue.isNone && y.batchKey == w.batchKey &&
        (sf.1.stream y.tile.stream).state == .running
      let batch := if w.cue.isSome then [w] else (w :: mates).take r.content.beta
      let all := match w.cue with
        | some c => cueTiles c
        | none => batch.map fun (y : Work) => y.tile
      let fit := if (m + 1) % 512 = 0 then
          (if w.cue.isSome then (if b.t + fig.2.2 all.length ≤ 1500 then some all.length else none)
           else fitBatch fig.2.2 b.t all.length)
        else some all.length
      match fit with
      | none => (b, false)
      | some k =>
        let sg := if w.cue.isSome then (sf.1, []) else sf.1.startFrames (batch.take k)
        if w.cue.isNone && (batch.take k).any fun y => !(sg.1.stream y.tile.stream).state == .running then
          ({ b with s := sg.1, starts := b.starts ++ (sf.2 ++ sg.2).filter fun q =>
              (sg.1.frame? q.1 q.2).any fun f => f.begun }, true)
        else (Build.append { b with s := sg.1, starts := b.starts ++ sf.2 ++ sg.2 } m w (reelSteps r.content w.keySeq) fig.1 fig.2.1
          (fig.2.2 k) (all.take k), true)

/-- The loop: at most 64 entries, starts before cycle 1,500. -/
def Build.run (b : Build) (m : Nat) (doomed : List Nat) : Nat → Build
  | 0 => b
  | fuel + 1 =>
    if 1500 ≤ b.t || decide (64 ≤ b.entries.length) then b
    else
      let n := b.next m doomed
      if n.2 then Build.run n.1 m doomed fuel else n.1

/-! ## Accounts at a build -/

/-- Accrue accounts and floor for the build of sheet `m`; the floor gains while a unit of a running BATCH stream is ready
or sealed (R268). -/
def State.accrue (s : State) (m : Nat) (doomed : List Nat) : State :=
  let ready := s.readyUnits m doomed
  let s1 := s.openStreams.foldl (fun s st =>
    let x := s.stream st
    if x.p.batch || !(x.state == .running || x.state == .held) then s
    else
      let cap := if ready.any fun w => w.cue.isNone && w.tile.stream == st then 17 * x.budget else x.budget
      s.updStream st fun y => { y with account := min (y.account + Int.ofNat y.budget) (Int.ofNat cap) }) s
  let sealed := s.seq.known.any fun e => !e.dailies && e.tiles.any fun t =>
    if 1024 ≤ t.stream then !e.charges.isEmpty else (s.stream t.stream).p.batch && (s.stream t.stream).state == .running
  { s1 with seq := { s1.seq with
      floor := if sealed || ready.any (·.batch) then min (s.seq.floor + 375) 24000 else min s.seq.floor 0 } }

/-! ## Resume points (R493) -/

/-- HELD streams whose resume point is reached at the build of sheet `m` return to RUNNING. A BATCH frame in progress keeps its map and
its P (R234, Table 9.4). One whose map holds a block that has left without a spare takes the map of the reload and is computed again
in full there, with the P and n of its first load for its bits (Table 9.4; log 64). -/
def State.resumeStreams (s : State) (m : Nat) : State :=
  s.openStreams.foldl (fun s st =>
    let x := s.stream st
    if !(x.state == .held) || !x.held.isEmpty || x.clearBeat.isNone then s
    else
      let now := x.p.batch || (match x.resumeFrame.bind fun f => x.frames.find? fun g => g.index == f with
        | some g => decide (g.releaseBeat x.p.overlayBeats x.p.leadRows 0 ≤ m)
        | none => false)
      if !now then s
      else
        let first := x.resumeFrame.getD 0
        let lost (f : Frame) : Bool := x.p.batch && x.reload && f.begun && !f.closed && f.positions.any fun b => (s.block b).retired
        let again := (x.frames.filter lost).map (·.index)
        let s1 := s.updStream st fun y =>
          { y with state := .running, clearBeat := none, resumeFrame := none, reload := false, reloadDue := y.reloadDue || y.reload,
                   frames := y.frames.map fun f =>
                     if y.p.batch then (if lost f then { f with begun := false } else f)
                     else if f.index < first then { f with skipped := true } else f }
        let s2 := again.foldl (fun s f => s.restartFrame st f) s1
        s2.postStream st 0x000D 0 0 []) s

/-! ## Sheets -/

/-- Bytes of a tile list and of a dependency list (R275). -/
def Entry.tileList (e : Entry) : List Byte :=
  e.tiles.flatMap fun t => leBytes 2 t.stream ++ leBytes 2 t.tile ++ leBytes 4 t.frame
def Entry.depList (e : Entry) : List Byte := e.deps.flatMap (leBytes 2)

/-- Bytes that the lists of an entry take in CONTROL memory, in whole 8-byte words. -/
def Entry.listBytes (e : Entry) : Nat := roundUp (e.tileList.length + e.depList.length) 8

/-- Where the lists of a sheet begin in CONTROL memory: two areas that sheets use in turn (DESIGN CHOICE, log 70). -/
def listBase (m : Nat) : Nat := m % 2 * 0x8000

/-- The entries with the offsets of their lists: one after the other, tile list before dependency list. -/
def placeLists (m : Nat) (es : List Entry) : List (Entry × Nat) :=
  (es.foldl (fun (acc : List (Entry × Nat) × Nat) e => (acc.1 ++ [(e, acc.2)], acc.2 + e.listBytes)) ([], listBase m)).1

/-- Bytes of an entry (Table 8.5) whose lists begin at `at_`. The manual lays out no fill list: its offset is the end of the other
two (log 70). -/
def Entry.bytes (e : Entry) (at_ : Nat) : List Byte :=
  let dep := at_ + e.tileList.length
  leBytes 2 e.takeId ++ leBytes 1 (bitN e.dailies) ++ leBytes 1 e.tiles.length ++ leBytes 2 e.reel ++ leBytes 1 e.step ++
  leBytes 1 (bitN e.keySeq + 2 * bitN e.freq) ++ leBytes 2 e.cycles ++ leBytes 2 e.planned ++ leBytes 4 at_ ++
  leBytes 4 (at_ + e.listBytes) ++ leBytes 2 e.deps.length ++ zeros 2 ++ leBytes 4 dep ++ zeros 4

/-- Header bytes 0x00 to 0x3B. -/
def sheetHeader (m : Nat) (dailies : Bool) (entries : List Entry) (first : Nat) : List Byte :=
  leBytes 8 m ++ leBytes 1 entries.length ++ leBytes 1 (bitN dailies) ++ leBytes 2 first ++ zeros 48

def sheetOf (m : Nat) (dailies : Bool) (entries : List Entry) : Sheet :=
  let first := (entries.map (·.planned)).headD 0
  ⟨m, dailies, entries, first,
    crc32c (sheetHeader m dailies entries first ++ (placeLists m entries).flatMap fun e => e.1.bytes e.2)⟩

/-- Write the lists of a sheet's entries into CONTROL memory (R275). -/
def State.writeLists (s : State) (m : Nat) (entries : List Entry) : State :=
  (placeLists m entries).foldl (fun s e => s.writeBytes (Config.controlBase + e.2) (e.1.tileList ++ e.1.depList)) s

/-- Credits of the control → array crossing that are free: two, for the current sheet and the next one (Table 1.4, R32). -/
def State.sheetCredits (s : State) : Nat := s.creditsLeft .controlArray false true

/-- The dollies begin to read the inputs of cued entries from their owners (R394). -/
def State.fetchInputs (s : State) (entries : List Entry) : State :=
  entries.foldl (fun s e => match e.owner with
    | none => s
    | some o => e.fills.foldl (fun s f => match e.tiles[f.tile]? with
        | some t => s.sendReads e.takeId o.1 t f
        | none => s) s) s

/-- Seal a sheet: its lists in CONTROL memory, itself on the control → array crossing, its cues to the members, and the remote reads for
its own cued entries (R32, R394). -/
def State.sendSheet (s : State) (sh : Sheet) (cues : List (Nat × Cue)) : State :=
  if s.sheetCredits = 0 then s
  else
    let s1 := (s.writeLists sh.beat sh.entries).fetchInputs sh.entries
    { s1 with seq := { s1.seq with sealed := sh.beat, draft := none, inflight := s1.seq.inflight ++ [sh] },
              out := { s1.out with cues := s1.out.cues ++ cues } }

/-- Keep a sheet that has been built until it is sealed; its entries count as placed from now on. -/
def State.keepDraft (s : State) (m : Nat) (dailies : Bool) (entries : List Entry) (cues : List (Nat × Cue)) : State :=
  { s with seq := { s.seq with draft := some (sheetOf m dailies entries, cues), known := s.seq.known ++ entries } }

/-! ## Dailies sheets (R276, R427 to R429) -/

/-- The reels that the rotation visits: loaded ones, in ascending handle. -/
def State.rotation (s : State) : List Nat :=
  ((s.reels.filter fun r => r.ready && !r.portions.isEmpty).map (·.handle)).foldl (fun acc h => insertUnit h acc) []

/-- The portion of the next dailies beat: the one that runs again, or the next of the rotation. -/
def State.nextPortion (s : State) : Option (Nat × Nat) :=
  let d := s.dailies
  let has (h p : Nat) : Bool := match s.reel? h with
    | some r => r.ready && decide (p < r.portions.length)
    | none => false
  if (d.again || d.active) && has d.reel d.portion then some (d.reel, d.portion)
  else if s.rotation.contains d.reel && has d.reel (d.portion + 1) then some (d.reel, d.portion + 1)
  else match s.rotation.find? fun h => d.reel < h with
    | some h => some (h, 0)
    | none => s.rotation.head?.map fun h => (h, 0)

/-- Choose the portion of dailies beat `m` and send its expected fingerprints to the checker (R429): take, by its place in the portion,
tile, fingerprint. -/
def State.chooseDailies (s : State) (m : Nat) : State :=
  match s.nextPortion with
  | none => { s with dailies := { s.dailies with active := false, again := false, takesLeft := [], expected := [], chosenFor := m } }
  | some (h, p) =>
    let expected := match s.reel? h with
      | some r => ((r.portions.getD p []).mapIdx fun i k => match r.content.dailies[k]? with
          | some t => (t.expected.zip (List.range t.expected.length)).map fun f => (i, f.2, f.1)
          | none => []).flatten
      | none => []
    let same := h = s.dailies.reel ∧ p = s.dailies.portion
    { s with dailies := { s.dailies with reel := h, portion := p, active := true, expected := expected, takesLeft := [], chosenFor := m,
                                         mismatch := false, incomplete := false,
                                         failed := if same then s.dailies.failed else false } }

/-- Entries of the dailies sheet of beat `m`: the takes of the portion in order, planned after the repair window. -/
def State.dailiesEntries (s : State) (m : Nat) : List Entry :=
  match s.dailies.active, s.reel? s.dailies.reel with
  | true, some r =>
    ((r.portions.getD s.dailies.portion []).foldl (fun (acc : List Entry × Nat) k => match r.content.dailies[k]? with
      | none => acc
      | some t =>
        let c := dailiesCycles r.arrays r.engines t
        (acc.1 ++ [{ takeId := (s.seq.takeId + acc.1.length) % 65536, dailies := true,
                     tiles := (List.range t.inputs.length).map fun i => (⟨1024, s.dailies.portion, i⟩ : TileRef), reel := r.handle,
                     step := k, unit := 0, part := .whole, keySeq := false,
                     freq := choosesFreq (LoadShape.ofDailies r.arrays r.engines) [t.step] t.step t.inputs.length, cycles := c,
                     planned := acc.2, deps := [], charges := [], beat := m, phases := [], draws := [], fills := [], needAck := true, owner := none }],
         acc.2 + c)) ([], 64)).1
  | _, _ => []

/-- The dailies sheet of beat `m`: the portion chosen for it two beats before, and no entry where none was (R428, R429). -/
def State.buildDailies (s : State) (m : Nat) : State :=
  let es := if s.dailies.chosenFor = m ∧ s.dailies.takesLeft.isEmpty then s.dailiesEntries m else []
  ({ s with seq := { s.seq with takeId := (s.seq.takeId + es.length) % 65536 },
            dailies := { s.dailies with takesLeft := es.map (fun (e : Entry) => e.takeId) } }).keepDraft m true es []

/-- The build of sheet `m` (R273), from the state at tick 0 of beat m − 1. -/
def State.buildSheet (s : State) (m : Nat) : State :=
  let pred := s.predict
  let s1 := (s.resumeStreams m).accrue m pred.2
  if m % 512 = 0 then s1.buildDailies m
  else
    let t := max pred.1 (s1.beatCycle m) - s1.beatCycle m
    let b := Build.run ⟨s1, [], t, [], []⟩ m pred.2 1088
    (b.s.hotStarts b.starts).keepDraft m false b.entries b.cues

/-- The sheet of beat `m` has been built and is not sealed yet. -/
def State.drafted (s : State) (m : Nat) : Bool := s.seq.draft.any fun d => d.1.beat == m

/-- The array island receives the oldest sheet on the crossing (R33, R275). One whose CRC does not match is not resident. -/
def execCallSheetArrive (corrupt : Bool) (s : State) : Result :=
  .next (let s0 := s.fresh
    match s0.seq.inflight with
    | [] => s0
    | sh :: rest =>
      let s1 := { s0 with seq := { s0.seq with inflight := rest } }
      if corrupt then ({ s1 with seq := { s1.seq with badSheets := s1.seq.badSheets ++ [sh.beat] } }).detectBrief .sheetLate 18 none
      else if s0.beat < sh.beat then { s1 with arr := { s1.arr with next := some sh } }
      else if sh.beat = s0.beat then { s1 with arr := { s1.arr with current := some sh, left := sh.entries } }
      else s1)

/-- A member takes an owner's cue into its next build (R394). -/
def execSetCue (cue : Cue) (s : State) : Result :=
  .next (let s0 := s.fresh
    match s0.reel? cue.reel with
    | none => s0
    | some r =>
      let parts := match (reelSteps r.content cue.keySeq)[cue.step]? with
        | some st => ((r.shape s0.set.index).partsRun st).filter fun (p : Part) => match p with
            | .share | .expert _ => true
            | _ => false
        | none => []
      if !s0.firmwareUp || !s0.set.configured || s0.set.epoch.isNone || cue.owner.val == s0.set.index ||
          !decide (cue.owner.val < s0.set.members.length) || !r.setScope || cue.tiles.isEmpty then s0
      else { s0 with seq := { s0.seq with cues := s0.seq.cues ++ parts.map fun p => (cue, p) } })

end Sys2Proof.Machine
end

