-- ==== Sys2Proof/WellFormed.lean ====
section
/-!
DEFINITION. Which commands are well formed: operands within the widths and ranges the manual gives them. A command
that is not well formed is one that no partner can send.
-/
namespace Sys2Proof

/-- An aligned access of 4 or 8 bytes inside the 64 KiB of BAR 0 (R437, R438). -/
def bar0Aligned (offset size : Nat) : Bool :=
  (size == 4 || size == 8) && offset % size == 0 && decide (offset + size ≤ 0x1_0000)

/-- An edge that the glitch filter passes: 17 equal samples or more (R514). -/
def Edge.passes (e : Edge) : Bool := decide (17 ≤ e.samples)

/-- A flit is 256 bytes (R367). -/
def flitSized (bytes : List Byte) : Bool := bytes.length == 256

/-- An address or a length that is a multiple of 32. -/
def by32 (x : Nat) : Bool := x % 32 == 0

/-- A move's addresses and lengths are multiples of 32 bytes, a copy has at most three strided dimensions, and a fill pattern has
32 bytes (R243). Scale bytes are read in whole sectors. -/
def Move.aligned : Move → Bool
  | .copy src dst len dims =>
    by32 src && by32 dst && by32 len && decide (dims.length ≤ 3) && dims.all fun d => by32 d.src && by32 d.dst
  | .fill dst len pattern => by32 dst && by32 len && pattern.length == 32
  | .multicast src off len => by32 src && by32 off && by32 len
  | .expand src dst _ => by32 src && by32 dst
  | .encode src base total first count fmt => by32 src && by32 base && decide (fmt ≤ 2) && decide (first + count ≤ total)
  | .decode base total first count dst fmt => by32 dst && by32 base && decide (fmt ≤ 2) && decide (first + count ≤ total)
  | .operand t src scaleSrc h w c _ => by32 t.off && by32 src && by32 scaleSrc && decide (0 < h * w * c)
  | .states t src h w c => by32 t.off && by32 src && decide (0 < h * w * c)
  | .region t p => by32 t.off && p.bands.all by32 && by32 p.pitch
  | .records t => by32 t.off
  | .restore _ _ _ _ _ off => by32 off
  | .remote t _ h w c _ => by32 t.off && decide (0 < h * w * c)

/-- Operand ranges of each command. -/
def WellFormed : Instr → Bool
  | .bar0RegisterWrite offset _ hi => bar0Aligned offset (if hi.isSome then 8 else 4)
  | .bar0BadAccess _ offset size => !bar0Aligned offset size
  | .bar2Access _ len write =>
    decide (0 < len) && decide (len ≤ 4096) && (match write with | none => true | some bs => bs.length == len)
  | .configRequest (.resizeBar2 log2) => decide (28 ≤ log2) && decide (log2 ≤ 37)
  | .dollyMoveComplete _ move _ _ => move.aligned
  | .flitReceive _ bytes _ => flitSized bytes
  | .safeAckEdge e => e.passes
  | .hpdEdge _ e => e.passes
  | .resetNAssert e => e.passes
  | .perstNAssert e => e.passes
  | .setCue cue => decide (cue.stream < 1024) && decide (1 ≤ cue.tiles.length) && decide (cue.tiles.length ≤ 32) &&
    cue.phases.length == cue.tiles.length && cue.draws.length == cue.tiles.length
  | .spliceTrainingDone _ seen => seen.lanes.length == 4
  | _ => true

end Sys2Proof
end

