-- ==== Sys2Proof/Machine/Moves.lean ====
section
/-!
DEFINITION. Accesses to device addresses (R226, R486), dolly moves with the operands they bring into the benches (R18, R159, R176,
R224, R243, R244), pages that leave service (R227, R254 to R256), the watchdogs of the control cores (R488).
-/
namespace Sys2Proof.Machine

/-! ## Steps -/

/-- The step of an entry. -/
def State.stepOf (s : State) (e : Entry) : Option Step :=
  match s.reel? e.reel with
  | none => none
  | some r => if e.dailies then (r.content.dailies[e.step]?).map (·.step) else (reelSteps r.content e.keySeq)[e.step]?

/-! ## Accesses (R226, R228) -/

/-- The contiguous ranges of Table 7.2. -/
def mappedRanges (g : Grade) : List (Nat × Nat) :=
  [(0, Config.dramEnd g), (Config.benchBase, Config.benchBase + 36 * Config.benchSize),
   (Config.stageBase, Config.stageBase + 9 * Config.stageSize), (Config.motionBase, Config.controlEnd)]

/-- Every byte of the range is one that Table 7.2 lists. -/
def rangeMapped (g : Grade) (a n : Nat) : Bool :=
  decide (0 < n) && (mappedRanges g).any fun r => decide (r.1 ≤ a) && decide (a + n ≤ r.2)

/-- First address of a bench. -/
def benchAddr (b : Nat) : Nat := Config.benchBase + b * Config.benchSize

/-- The range meets the bench. -/
def touchesBench (b a n : Nat) : Bool := decide (a < benchAddr (b + 1)) && decide (benchAddr b < a + n)

/-- A bench is reachable while its block is in a position map, under a returning test, or under the boot SRAM test. -/
def State.benchOpen (s : State) (b : Nat) : Bool := s.mappedBlock b || (s.block b).testing || decide (s.fw.bootStep < 8 ∧ 6 ≤ s.fw.bootStep)

/-- The address range exists for an access (R226). -/
def State.reachable (s : State) (a n : Nat) : Bool :=
  rangeMapped s.fuses.grade a n && (List.range 36).all fun b => !touchesBench b a n || s.benchOpen b

/-- A requester may make the access. -/
def State.allows (s : State) (who : Requester) (write : Bool) (a n : Nat) : Bool :=
  s.reachable a n && s.wall.passes who write a n

/-! ## Stacks (R227) -/

/-- The stack that holds an address: with four stacks bits 9–8 XOR bits 21–20, with two bit 8 XOR bit 20. -/
def stackOf (g : Grade) (a : Nat) : Nat :=
  if Config.stackCount g = 4 then bitsOf a 9 8 ^^^ bitsOf a 21 20 else bitsOf a 8 8 ^^^ bitsOf a 20 20

/-- The address within its stack. -/
def inStack (g : Grade) (a : Nat) : Nat := a / 2 ^ (if Config.stackCount g = 4 then 10 else 9) * 256 + a % 256

/-! ## Operands that moves bring into the benches -/

/-- Start addresses of the contiguous runs of a strided copy. -/
def strideRuns (src dst : Nat) : List Stride → List (Nat × Nat)
  | [] => [(src, dst)]
  | d :: ds => (List.range d.count).flatMap fun i => strideRuns (src + i * d.src) (dst + i * d.dst) ds

/-- The render position of an output coordinate, which may lie beyond the frame, in 1/16 render px (R106). -/
def renderPos (z : Int) (ren out : Nat) : Int := Int.fdiv ((2 * z + 1) * Int.ofNat ren * 8) (Int.ofNat (max 1 out)) - 8

/-- First render pixel and extent of the footprint of `n` output pixels from `first`, extended by the overscan on both sides and
widened to whole render pixels (R159). -/
def footprint (first n overscan ren out : Nat) : Int × Nat :=
  let lo := Int.fdiv (renderPos (Int.ofNat first - Int.ofNat overscan) ren out) 16
  let hi := -Int.fdiv (-renderPos (Int.ofNat (first + n + overscan) - 1) ren out) 16
  (lo, (hi + 1 - lo).toNat)

/-- Rows and columns of a plane at render size that the input region of a tile reads, in order; pixels beyond the frame repeat its
edge (R59). -/
def State.regionAxes (s : State) (t : TileRef) : List Nat × List Nat :=
  let x := s.stream t.stream
  let o := ((s.reel? x.p.reel).map fun r => r.content.overscan).getD 0
  let axis (first n ren out : Nat) : List Nat :=
    let f := footprint first n o ren out
    (List.range f.2).map fun i => clampCoord ren (f.1 + Int.ofNat i)
  (axis (64 * (t.tile / max 1 x.p.columns)) tileH x.p.renH x.p.outH, axis (128 * (t.tile % max 1 x.p.columns)) tileW x.p.renW x.p.outW)

/-- The steps of the sequence that a frame runs; those of another owner's frame are named by the cued entry (R394). -/
def State.stepsFor (s : State) (stream frame : Nat) : List Step :=
  match s.reel? (s.stream stream).p.reel, s.frame? stream frame with
  | some r, some f => reelSteps r.content f.keySeq
  | _, _ => match s.seq.known.find? fun e => e.owner.isSome && e.tiles.any fun t => t.stream == stream && t.frame == frame with
    | some e => match s.reel? e.reel with
      | some r => reelSteps r.content e.keySeq
      | none => []
    | none => []

def fillTile (t : FillTo) : TileRef := ⟨t.stream, t.frame, t.tile⟩

/-- The channel padding of an operand in the bench: its own line, and that of the operand pairs formed with it (R156). -/
def State.fillPad (s : State) (t : FillTo) (fmt : Fmt) : Nat := tensorPad (s.stepsFor t.stream t.frame) t.src (Fmt.lane fmt)

/-- The record plane that the warped window which reads the operand names (R176): 0 the K plane, 1 the K − 1 plane. -/
def State.fillPlane (s : State) (t : FillTo) : Nat :=
  match (s.stepsFor t.stream t.frame).find? fun st => st.inputs[1]? == some t.src with
  | some st => (match st.op with
      | .warp _ _ _ _ (.motion kPlane _ _) _ => if kPlane then 0 else 1
      | _ => 0)
  | none => 0

/-- What a move into the benches brings: the tile, which of its tensors, the blocks and the offset in their benches, the tensor with its
channel padding or the size of its states, its bytes, the ranges read, and whether a remote read met an error or poison. -/
structure Fill where
  tile : TileRef
  src : Src
  blocks : List Nat
  off : Nat
  data : Tensor
  pad : Nat
  width : Option Nat
  bytes : List Byte
  reads : List (Nat × Nat)
  bad : Bool

/-- The fill of an operand. -/
def fillInto (t : FillTo) (data : Tensor) (pad : Nat) (bytes : List Byte) (reads : List (Nat × Nat)) : Fill :=
  ⟨fillTile t, t.src, t.blocks.map (·.val), t.off, data, pad, none, slice bytes 0 (roundUp bytes.length 32), reads, false⟩

/-- A dolly reads whole sectors of 32 bytes (R243): those that a run of bytes touches. -/
def sectors (a n : Nat) : Nat × Nat := (a / 32 * 32, roundUp (a + n) 32 - a / 32 * 32)

/-- A frame of a cut entry uses no motion: its records read as those of a pair without motion (R527). -/
def State.noMotion (s : State) (t : FillTo) : Bool := (s.frame? t.stream t.frame).any (·.cut)

/-- A pixel of a plane in memory: its address, and the codes of its elements. -/
def pixelAddress (p : PlaneAt) (y x : Nat) : Nat := p.bands.getD (y / 64) 0 + y % 64 * p.pitch + x * p.bpp
def State.planePixel (s : State) (p : PlaneAt) (y x : Nat) : List Nat := unpackCodes (Fmt.bits p.fmt) (s.readBytes (pixelAddress p y x) p.bpp)

/-- The cued entry that waits for a remote read of an operand from a member, and the fill-list entry that names it (R394). -/
def State.cuedFill (s : State) (t : FillTo) (member : Nat) : Option (Entry × CueFill) :=
  (s.seq.known.filter fun e => e.owner.any (·.1 == member)).findSome? fun e =>
    (e.fills.find? fun f => f.src == t.src && e.tiles[f.tile]? == some (fillTile t)).map fun f => (e, f)

/-- What remote reads have brought for a fill, packet by packet. -/
def State.fetchedFor (s : State) (e : Entry) (t : TileRef) (f : CueFill) : List Fetched :=
  (List.range (fillPackets f).length).filterMap fun i => s.set.fetched.find? fun g => g.fetch == ⟨e.takeId, t, f.src, i⟩

/-- The operand that a move brings, none for the other moves. Partial states and states loaded from memory have their 16 bytes
(R133) in the order of rows, columns and channels (log 88). -/
def State.fillOf (s : State) : Move → Option Fill
  | .operand t src sc h w c fmt =>
    let pad := s.fillPad t fmt
    let n := elementBytes h w c fmt pad
    let k := roundUp (scaleCount h w c fmt pad) 32
    let elems := s.readBytes src n
    let scales := s.readBytes sc k
    some (fillInto t (Tensor.ofBytes h w c fmt elems scales) pad (elems ++ scales) ([(src, n)] ++ if k = 0 then [] else [(sc, k)]))
  | .states t src h w c =>
    let bs := s.readBytes src (16 * (h * w * c))
    some { fillInto t ⟨h, w, c, .fp32, (List.range (h * w * c)).map fun i => leNat bs (16 * i) 16, []⟩ 1 bs
             [sectors src (16 * (h * w * c))] with width := some 16 }
  | .region t p =>
    let a := s.regionAxes (fillTile t)
    let data : Tensor := ⟨a.1.length, a.2.length, p.c, p.fmt,
      a.1.flatMap fun y => a.2.flatMap fun x => (List.range p.c).map fun k => (s.planePixel p y x).getD k 0, []⟩
    some (fillInto t data (s.fillPad t p.fmt) (data.bytes (s.fillPad t p.fmt) []) (a.1.flatMap fun y => a.2.map fun x => sectors (pixelAddress p y x) p.bpp))
  | .records t =>
    let a := s.regionAxes (fillTile t)
    let x := s.stream t.stream
    let at_ (y i : Nat) : Nat := x.motionRecordAt (s.fillPlane t) (y * x.p.renW + i)
    let data : Tensor := ⟨a.1.length, a.2.length, 4, .fp16,
      a.1.flatMap fun y => a.2.flatMap fun i => (List.range 4).map fun k =>
        if s.noMotion t then 0 else s.readNat (at_ y i + 2 * k) 2, []⟩
    some (fillInto t data (s.fillPad t .fp16) (data.bytes (s.fillPad t .fp16) []) (if s.noMotion t then [] else a.1.flatMap fun y => a.2.map fun i => sectors (at_ y i) 8))
  | .restore st f tile step blocks off =>
    let t : TileRef := ⟨st, f, tile⟩
    match s.bench.find? fun b => b.tile == t && b.src == .step step with
    | none => none
    | some h => h.spilled.map fun a =>
      let total := tensorSize h.data h.pad
      let len := if h.packed then packedSize total else total
      let bs := if h.packed then unpackAll total (s.readBytes a len) else s.readBytes a total
      ⟨t, .step step, blocks.map (·.val), off, tensorFrom h.data h.pad bs, h.pad, none, bs, [(a, len)], false⟩
  | .remote t member h w c fmt => (s.cuedFill t member.val).bind fun k =>
    let got := s.fetchedFor k.1 (fillTile t) k.2
    if (fillPackets k.2).isEmpty || got.length < (fillPackets k.2).length then none
    else
      let pad := s.fillPad t fmt
      let frame : Tensor := ⟨h, w, c, fmt, [], []⟩
      let raw := got.flatMap (·.data)
      let bs := slice (if k.2.packed then unpackAll (tensorSize frame pad) raw else raw) 0 (tensorSize frame pad)
      some { fillInto t (tensorFrom frame pad bs) pad bs [] with bad := got.any (·.bad) }
  | _ => none

/-- Bytes of an output in whole lines: of a tensor, or of partial states of `w` bytes each (Table 9.2). -/
def outputBytes (w : Option Nat) (pad : Nat) (d : Tensor) : List Byte :=
  let bs := match w with
    | some n => d.codes.flatMap (leBytes n)
    | none => d.bytes pad []
  slice bs 0 (roundUp bs.length 32)

/-- The bytes of a tensor in the benches. -/
def HeldTensor.bytes (h : HeldTensor) : List Byte := outputBytes h.width h.pad h.data

/-- The tensor that other bytes in its place make. -/
def HeldTensor.withBytes (h : HeldTensor) (bs : List Byte) : HeldTensor :=
  { h with data := match h.width with
      | some w => { h.data with codes := (List.range h.data.codes.length).map fun i => leNat bs (w * i) w }
      | none => tensorFrom h.data h.pad bs }

/-- Bytes that stand over a list of ranges, after a write of `bs` at address `a`. -/
def patchRanges (a : Nat) (bs : List Byte) : List (Nat × Nat) → List Byte → List Byte
  | [], old => old
  | r :: rest, old =>
    ((old.take r.2).mapIdx fun i x => if a ≤ r.1 + i ∧ r.1 + i < a + bs.length then bs.getD (r.1 + i - a) x else x) ++
      patchRanges a bs rest (old.drop r.2)

/-- A write of `bs` at address `a` into the benches reaches the tensor that stands there; of copies in several benches the first one
stands for all (DESIGN CHOICE, log 137). -/
def HeldTensor.overwritten (h : HeldTensor) (a : Nat) (bs : List Byte) : HeldTensor :=
  if !h.at_.any fun r => decide (r.1 < a + bs.length) && decide (a < r.1 + r.2) then h
  else h.withBytes (patchRanges a bs h.at_ h.bytes)

/-- Write bytes to memory; takes read them where they fall on an operand in the benches (R121, R228). -/
def State.storeBytes (s : State) (a : Nat) (bs : List Byte) : State :=
  let t := s.writeBytes a bs
  { t with
    bench := t.bench.map (·.overwritten a bs),
    arr := { t.arr with running := t.arr.running.map fun r => { r with operands := r.operands.map (·.overwritten a bs) } } }

/-- Put a tensor into the benches of the given blocks, in place of one that was there. -/
def State.putBench (s : State) (h : HeldTensor) : State :=
  { s with bench := h :: s.bench.filter fun b => !(b.tile == h.tile && b.src == h.src) }

/-! ## Dolly moves -/

/-- Ranges that a fill writes. -/
def Fill.writes (f : Fill) : List (Nat × Nat) := f.blocks.map fun b => (benchAddr b + f.off, f.bytes.length)

/-- Bytes of a stage bank. -/
def stageBank : Nat := 0x4_0000

/-- The runs of a multicast in the stage of region `k`: the offset counts over the healthy banks of the region in ascending order, the
weight store first (R235, R236; DESIGN CHOICE, log 119). Offset in the move, address, length. -/
def State.stageRuns (s : State) (k off len : Nat) : List (Nat × Nat × Nat) :=
  if len = 0 then [] else
  (List.range ((off + len - 1) / stageBank - off / stageBank + 1)).map fun j =>
    let b := off / stageBank + j
    let lo := max off (b * stageBank)
    let hi := min (off + len) ((b + 1) * stageBank)
    (lo - off, Config.stageBase + k * Config.stageSize + (s.healthyBanks k).getD b b * stageBank + lo % stageBank, hi - lo)

/-- Ranges that a move reads and writes. -/
def State.moveRanges (s : State) (m : Move) : List (Nat × Nat) × List (Nat × Nat) :=
  match m with
  | .copy src dst len dims => ((strideRuns src dst dims).map fun r => (r.1, len), (strideRuns src dst dims).map fun r => (r.2, len))
  | .fill dst len _ => ([], [(dst, len)])
  | .multicast src off len => ([(src, len)], (List.range 9).flatMap fun k => (s.stageRuns k off len).map fun r => (r.2.1, r.2.2))
  | .expand src dst lines => ([(src, ceilDiv lines 256 * segmentSlot)], [(dst, 32 * lines)])
  | .encode src base total first count fmt =>
    ([(src, count * 8192 * bppOf fmt)], (List.range count).flatMap fun i => storeRanges base total (bppOf fmt) (first + i))
  | .decode base total first count dst fmt =>
    ((List.range count).flatMap fun i => storeRanges base total (bppOf fmt) (first + i), [(dst, count * 8192 * bppOf fmt)])
  | _ => match s.fillOf m with
    | some f => (f.reads, f.writes)
    | none => ([], [])

/-- The move is one of R243: aligned; a multicast comes from the pool and fits in the stages; an expansion goes into the array
island. -/
def State.moveKnown (s : State) (m : Move) : Bool :=
  m.aligned && (match m with
    | .multicast src off len => decide (src + len ≤ Config.firmwareBase s.fuses.grade) && decide (off + len ≤ Config.stageSize)
    | .expand _ dst _ => decide (Config.benchBase ≤ dst) && decide (dst < Config.motionBase)
    | .restore _ _ _ _ _ _ | .remote _ _ _ _ _ _ => (s.fillOf m).isSome
    | _ => true)

/-- Copy bytes; poison of a source sector goes to the destination (R253). -/
def State.copyBytes (s : State) (src dst n : Nat) : State :=
  let bs := s.readBytes src n
  let bad := (List.range (ceilDiv n 32)).filter fun i => s.poisonedAt (src + 32 * i) (min 32 (n - 32 * i))
  bad.foldl (fun s i => s.poisonRange (dst + 32 * i) (min 32 (n - 32 * i))) (s.storeBytes dst bs)

/-- One run of a copy: nothing where the write is denied, poison where the read is. -/
def State.copyRun (s : State) (e : Fin 16) (src dst n : Nat) : State :=
  if !s.allows (.dolly e) true dst n then s
  else if !s.allows (.dolly e) false src n then s.poisonRange dst n
  else s.copyBytes src dst n

/-- Write `ws` with what `run` makes of the data read from `rs`: nothing where a write is denied; poison where a read is denied or
meets poison. -/
def State.passOn (s : State) (e : Fin 16) (rs ws : List (Nat × Nat)) (run : State → State) : State :=
  if !ws.all fun r => s.allows (.dolly e) true r.1 r.2 then s
  else
    let bad := !(rs.all fun r => s.allows (.dolly e) false r.1 r.2) || rs.any fun r => s.poisonedAt r.1 r.2
    let s1 := run s
    if bad then ws.foldl (fun s r => s.poisonRange r.1 r.2) s1 else s1

/-- What a move writes. -/
def State.runMove (s : State) (e : Fin 16) (m : Move) : State :=
  match m with
  | .copy src dst len dims => (strideRuns src dst dims).foldl (fun s r => s.copyRun e r.1 r.2 len) s
  | .fill dst len p => s.passOn e [] [(dst, len)] fun s => s.storeBytes dst ((List.range (len / 32)).flatMap fun _ => p)
  | .multicast src off len => ((List.range 9).flatMap fun k => s.stageRuns k off len).foldl (fun s r =>
      s.copyRun e (src + r.1) r.2.1 r.2.2) s
  | .expand src dst lines => (List.range (ceilDiv lines 256)).foldl (fun s i =>
      let n := min 256 (lines - 256 * i)
      s.passOn e [(src + segmentSlot * i, segmentSlot)] [(dst + 8192 * i, 32 * n)] fun s =>
        s.storeBytes (dst + 8192 * i) (unpackSegment n (s.readBytes (src + segmentSlot * i) segmentSlot))) s
  | .encode src base total first count f => (List.range count).foldl (fun s i =>
      let from_ := src + i * 8192 * bppOf f
      s.passOn e [(from_, 8192 * bppOf f)] (storeRanges base total (bppOf f) (first + i)) fun s =>
        s.writeTile base total f (first + i) (pixelsIn (bppOf f) (s.readBytes from_ (8192 * bppOf f)))) s
  | .decode base total first count dst f => (List.range count).foldl (fun s i =>
      s.passOn e (storeRanges base total (bppOf f) (first + i)) [(dst + i * 8192 * bppOf f, 8192 * bppOf f)] fun s =>
        s.storeBytes (dst + i * 8192 * bppOf f) (pixelBytes (bppOf f) (s.readTile base total f (first + i)))) s
  | _ => match s.fillOf m with
    | none => s
    | some f =>
      if !f.writes.all fun r => s.allows (.dolly e) true r.1 r.2 then s
      else (s.passOn e f.reads f.writes fun s => f.writes.foldl (fun s r => s.storeBytes r.1 f.bytes) s).putBench
        ⟨f.tile, f.src, f.data, f.blocks, none, false, f.writes, f.pad, f.width⟩

/-! ## Pages (R255) -/

/-- A range meets the page. -/
def onPage (page base len : Nat) : Bool := decide (base < page + Config.pageSize) && decide (page < base + len)

/-- The page of an address. -/
def pageOf (a : Nat) : Nat := a / Config.pageSize * Config.pageSize

/-- Answer a UNIT_RETIRE that waits for the page. -/
def State.answerPage (s : State) (page status : Nat) (body : List Byte) : State :=
  s.completeDeferred (fun w => match w with
    | .pageRetire p => p == page
    | _ => false) status body

/-- A page leaves the pool, recorded before it is reported (R499); a message that waits for it completes (Table 14.24). Past the
limit of 512 pages the candidate is not retired, and its message ends with E_NO_MEMORY (R256). -/
def State.retirePage (s : State) (page : Nat) : State :=
  let s0 := { s with pool := { s.pool with candidates := s.pool.candidates.filter fun c => !(c.page == page) } }
  if s.pool.retired.contains page then s0
  else if 512 ≤ s.pool.retired.length then s0.answerPage page eNoMemory []
  else
    let s1 := { s0 with pool := { s0.pool with retired := s0.pool.retired ++ [page] } }
    s1.writeService.answerPage page 0 (leBytes 1 0 ++ leBytes 1 s1.nextArrays)

/-- Content that is kept in use until its stream closes (Table 7.7): rings, print rings, tile maps in host view. -/
def keptOwner : Owner → Bool
  | .ring _ _ | .ringTable _ => true
  | .store _ k => decide (k < 8)
  | _ => false

/-- What stands on a page. -/
def State.pageAllocs (s : State) (page : Nat) : List Alloc := s.pool.allocs.filter fun a => onPage page a.base a.len

/-- The stream that an owner belongs to, or the streams of a reel. -/
def State.ownerStreams (s : State) : Owner → List Nat
  | .ringTable st | .ring st _ | .store st _ | .overlayArea st | .spill st _ _ _ => [st]
  | .reel h => s.reelStreams h
  | _ => []

/-- The streams that use a page. -/
def State.pageUsers (s : State) (page : Nat) : List Nat := unique ((s.pageAllocs page).flatMap fun a => s.ownerStreams a.owner)

/-- The page is a candidate already, kept in use, or retired. -/
def State.pageKnown (s : State) (page : Nat) : Bool :=
  s.pool.retired.contains page || s.pool.candidates.any fun c => c.page == page

/-- A free place for `len` bytes off the page. -/
def State.placeOff (s : State) (page len : Nat) : Option Nat :=
  Pool.place { s.pool with retired := s.pool.retired ++ [page] } s.fuses.grade (Config.placeHint s.free) len

/-- Copy a page of the firmware area to a free page of the pool and retire it; MEMORY_DEGRADED with detail 0 where there is none. -/
def State.copyFirmwarePage (s : State) (page : Nat) : State :=
  match s.placeOff page Config.pageSize with
  | none => s.postDevice 0x0025 0 0 [Int.ofNat page]
  | some b =>
    let s1 := s.spend.copyBytes page b Config.pageSize
    ({ s1 with pool := { s1.pool with allocs := (⟨b, Config.pageSize, .firmware⟩ : Alloc) :: s1.pool.allocs } }).retirePage page

/-- A page becomes a retirement candidate and is handled by its content (Table 7.7). -/
def State.pageCandidate (s : State) (page : Nat) : State :=
  if s.pageKnown page || decide (512 ≤ s.pool.retired.length) then s
  else
    let on := s.pageAllocs page
    let firmware := decide (Config.firmwareBase s.fuses.grade ≤ page)
    if on.isEmpty && !firmware then s.retirePage page
    else
      let kept := on.any fun a => keptOwner a.owner
      let s1 := { s with pool := { s.pool with candidates := s.pool.candidates ++ [(⟨page, kept, []⟩ : PageCandidate)] } }
      if firmware then s1.copyFirmwarePage page
      else if kept then s1
      else (s1.pageUsers page).foldl (fun s i => if (s.stream i).p.batch then s.holdStream i (.pageCopy page) none else s) s1

/-- Move an address that lies in a range. -/
def shiftIn (base len new a : Nat) : Nat := if base ≤ a ∧ a < base + len then new + (a - base) else a

/-- References to an allocation follow it to its new place. -/
def State.moveRefs (s : State) (a : Alloc) (new : Nat) : State :=
  let f := shiftIn a.base a.len new
  let s1 := { s with
    pool := { s.pool with allocs := s.pool.allocs.map (fun b => if b = a then { b with base := new } else b),
                          windows := s.pool.windows.map (fun w => if w.owner = a.owner then { w with base := f w.base } else w) },
    tensors := s.tensors.map (fun t => if a.owner = .tensor t.handle then { t with base := f t.base } else t),
    reels := s.reels.map (fun r => if a.owner = .reel r.handle then { r with base := f r.base } else r),
    dev := if a.owner = .deviceRing then { s.dev with ring := { s.dev.ring with base := f s.dev.ring.base } } else s.dev,
    bench := s.bench.map (fun h => { h with spilled := h.spilled.map f }) }
  match a.owner with
  | .tensor _ => s1.openStreams.foldl (fun s i => s.updStream i fun x =>
      { x with lists := x.lists.map fun l => { l with atlas := l.atlas.map f } }) s1
  | .store st _ | .overlayArea st => s1.updStream st fun x =>
      let h := x.homes
      { x with homes := { h with
          tileMap := h.tileMap.map f, fallback := h.fallback.map f, generated := h.generated.map f,
          composite := h.composite.map f, records := h.records.map f, pyramids := h.pyramids.map f, overlay := f h.overlay } }
  | _ => s1

/-- Copy one allocation off the page: the lowest free place beyond it; false when the pool has none. -/
def State.moveAlloc (s : State) (page : Nat) (a : Alloc) : State × Bool :=
  match s.placeOff page a.len with
  | none => (s, false)
  | some b => ((s.spend.copyBytes a.base b a.len).moveRefs a b, true)

/-- A page may be copied (Table 7.7): every running DEADLINE stream that uses it has had a frame start since it became a candidate,
and none of its streams has a take in flight. -/
def State.pageCopyDue (s : State) (c : PageCandidate) : Bool :=
  !c.untilClose && (s.pageUsers c.page).all fun i =>
    let x := s.stream i
    !s.sealedFor i && (x.p.batch || !(x.state == .running) || x.modeNow == .passthrough || c.started.contains i)

/-- The copy of a candidate page has ended: references moved and the page retired, or MEMORY_DEGRADED with detail 0 where
the pool has no room; paused BATCH streams go on. Past the limit of 512 pages nothing is moved (R256). -/
def State.pageCopied (s : State) (page : Nat) : State :=
  if !(s.pool.candidates.any fun c => c.page == page && s.pageCopyDue c) then s
  else
    let users := s.pageUsers page
    let s1 := if 512 ≤ s.pool.retired.length then s.retirePage page
      else if Config.firmwareBase s.fuses.grade ≤ page then s.copyFirmwarePage page
      else
        let r := (s.pageAllocs page).foldl (fun (acc : State × Bool) a => if acc.2 then acc.1.moveAlloc page a else acc) (s, true)
        if r.2 then r.1.retirePage page else s.postDevice 0x0025 0 0 [Int.ofNat page]
    users.foldl (fun s i => s.updStream i fun x =>
      { x with held := x.held.map fun h => if h.cause = .pageCopy page then { h with clears := some s1.beat } else h }) s1

/-! ## DOLLY_MOVE_COMPLETE (R18, R244) -/

/-- The 64 KiB units of the weight store that a multicast fills whole with the image of a hot reel, from the reel's own bytes in the
pool (R236, R239). -/
def LoadedReel.filledBy (r : LoadedReel) : Move → List Nat
  | .multicast src off len =>
    if r.base ≤ src ∧ src + len ≤ r.base + roundUp r.content.binaryLen Config.poolUnit ∧ 0 < len then
      (r.hot.getD []).filter fun u => decide (off ≤ u * Config.poolUnit) && decide ((u + 1) * Config.poolUnit ≤ off + len)
    else []
  | _ => []

/-- A range lies in the benches. -/
def inBenches (r : Nat × Nat) : Bool :=
  decide (Config.benchBase ≤ r.1) && decide (r.1 + r.2 ≤ Config.benchBase + 36 * Config.benchSize)

/-- The position map that a tile of the entry runs on (R234). -/
def State.tileBlocks (s : State) (r : LoadedReel) (t : TileRef) : List Nat :=
  match s.frame? t.stream t.frame with
  | some f => f.positions
  | none => r.positions

/-- The blocks that the entry runs on: every active one (R19). -/
def State.takeBlocks (s : State) (e : Entry) (r : LoadedReel) : List Nat := unique (e.tiles.flatMap (s.tileBlocks r))

/-- The entry's frames were hot when they started (R234); work that belongs to no frame of this chip goes by the reel as it stands. -/
def State.runsHot (s : State) (e : Entry) (r : LoadedReel) : Bool :=
  e.tiles.all fun t => match (if e.dailies || e.owner.isSome then none else s.frame? t.stream t.frame).bind (·.cold) with
    | some cold => !cold
    | none => r.hot.isSome

/-- The address ranges of the stage banks that hold a reel's image for an entry (Table 7.3): its units of the weight stores where its
frames run hot, the working stores where they run cold. -/
def State.imageRanges (s : State) (e : Entry) (r : LoadedReel) : List (Nat × Nat) :=
  (List.range 9).flatMap fun k =>
    if s.runsHot e r && r.hot.isSome then
      (r.hot.getD []).flatMap fun u => (s.stageRuns k (u * Config.poolUnit) Config.poolUnit).map fun x => (x.2.1, x.2.2)
    else (s.workingStoreBanks k).map fun b =>
      (Config.stageBase + k * Config.stageSize + b * stageBank, stageBank)

/-- The runs lie in the ranges. -/
def inRanges (rs : List (Nat × Nat)) (a n : Nat) : Bool := rs.any fun r => decide (r.1 ≤ a) && decide (a + n ≤ r.1 + r.2)

/-- Bytes of its image that an entry's take needs in the bench of every block it runs on: its step's weights at least (R121). -/
def State.imageNeed (s : State) (e : Entry) (r : LoadedReel) (st : Step) : Nat :=
  max 32 (roundUp (stepWeightBytes (if e.dailies then LoadShape.ofDailies r.arrays r.engines else r.shape s.set.index) st) 32)

/-- The parts of an entry's image that a move brings into the benches, by block: a copy out of the stage that holds it, or for a dailies
take, whose inputs the reel's binary holds, also out of the pool (Table 7.3, R240). -/
def State.imageFed (s : State) (e : Entry) (r : LoadedReel) (m : Move) : List (Nat × Nat) :=
  match m with
  | .copy src dst len dims =>
    let from_ := s.imageRanges e r ++ if e.dailies then [(r.base, roundUp r.content.binaryLen Config.poolUnit)] else []
    let runs := strideRuns src dst dims
    if runs.all fun x => inRanges from_ x.1 len && inBenches (x.2, len) then
      runs.map fun x => ((x.2 - Config.benchBase) / Config.benchSize, len)
    else []
  | _ => []

/-- A move that feeds a take has ended: with it the take's image stands in the bench of every block that it runs on, and its fill is
acknowledged (R35, R121, R244); an error status taints the take. -/
def State.ackFill (s : State) (id : Nat) (m : Move) (bad : Bool) : State :=
  match s.seq.known.find? fun e => e.takeId == id with
  | none => s
  | some e => match s.reel? e.reel, s.stepOf e with
    | some r, some st =>
      let fed := (s.imageFed e r m).map fun x => (id, x.1, x.2)
      if fed.isEmpty then s
      else
        let fills := s.arr.fills ++ fed
        let got (b : Nat) : Nat := ((fills.filter fun f => f.1 == id && f.2.1 == b).map (·.2.2)).sum
        let done := (s.takeBlocks e r).all fun b => decide (s.imageNeed e r st ≤ got b)
        { s with arr := { s.arr with
            fills := fills, acks := if !done || s.arr.acks.contains id then s.arr.acks else s.arr.acks ++ [id],
            tainted := if bad && !s.arr.tainted.contains id then s.arr.tainted ++ [id] else s.arr.tainted } }
    | _, _ => s

/-- What the completion of a move is for (R35, R239, R255). Its completion is also the fill acknowledgement of what it brings. -/
def State.moveDone (s : State) (m : Move) (bad : Bool) : MovePurpose → State
  | .fillAck id => s.ackFill id m bad
  | .hotFill h => if bad then s else s.updReel h fun r => { r with filled := unique (r.filled ++ r.filledBy m) }
  | .pageCopy p => s.pageCopied p
  | .other => s

/-- A move runs and completes: an access that is denied is logged in the CONTROL slot; a move that met an error response or poison
completes with an error status. -/
def State.settleMove (s : State) (h : HeldMove) : State :=
  if !s.moveKnown h.move then s
  else
    let rs := s.moveRanges h.move
    let allowed := (rs.1.all fun r => s.allows (.dolly h.engine) false r.1 r.2) && rs.2.all fun r => s.allows (.dolly h.engine) true r.1 r.2
    let lost := h.failed || (s.fillOf h.move).any (·.bad)
    let bad := lost || !allowed || rs.1.any fun r => s.poisonedAt r.1 r.2
    let s1 := s.runMove h.engine h.move
    let s2 := if lost then (rs.2.filter fun r => s.allows (.dolly h.engine) true r.1 r.2).foldl (fun s r => s.poisonRange r.1 r.2) s1
      else s1
    let s3 := if allowed then s2 else s2.accessViolation 18 0
    ({ s3 with out := { s3.out with errorResponse := bad } }).moveDone h.move bad h.purpose

/-- The addresses of a bench or stage bank: the first one and how many. -/
def bankRange : BankId → Nat × Nat
  | .bench b k => (benchAddr b.val + k.val * 0x2_0000, 0x2_0000)
  | .stage r k => (Config.stageBase + r.val * Config.stageSize + k.val * stageBank, stageBank)
  | _ => (0, 0)

/-- A range meets the bank. -/
def meetsBank (w : Nat × Nat) (b : BankId) : Bool :=
  decide (w.1 < (bankRange b).1 + (bankRange b).2) && decide ((bankRange b).1 < w.1 + w.2)

/-- The engine can issue a request: it holds tags already, or one is free (R31). -/
def State.canIssue (s : State) (who : Requester) : Bool := s.tags.any (fun h => h.who == who) || (s.nextTag who false).isSome

/-- The move waits: its engine has an earlier move that waits, or no tag, or it writes a bench or stage bank that the running take
owns until it ends (R18), unless the take waits for the refill of a spare (Table 8.7). -/
def State.moveWaits (s : State) (h : HeldMove) : Bool :=
  s.arr.held.any (fun x => x.engine == h.engine) || !s.canIssue (.dolly h.engine) ||
  ((s.arr.running.any fun r => !r.waitRefill) && (s.moveRanges h.move).2.any fun w => s.arr.owned.any (meetsBank w))

/-- Packets of up to 256 bytes that a move writes, each of which needs an operation tag (R31). -/
def State.movePackets (s : State) (m : Move) : Nat := ((s.moveRanges m).2.map fun r => ceilDiv r.2 256).sum

/-- Moves held at the ingress run once no take owns their banks; their tags are free. -/
def State.releaseMoves (s : State) : State :=
  s.arr.held.foldl (fun s h =>
    if s.moveWaits h then { s with arr := { s.arr with held := s.arr.held ++ [h] } }
    else (s.dropTags (.dolly h.engine)).settleMove h) { s with arr := { s.arr with held := [] } }

/-- A move ends: its writes have been acknowledged. One that must wait is held at the ingress, with the tags of the requests that
its engine could issue. -/
def execDollyMoveComplete (engine : Fin 16) (move : Move) (purpose : MovePurpose) (failed : Bool) (s : State) : Result :=
  .next (let s0 := s.fresh
    let h : HeldMove := ⟨engine, move, purpose, failed⟩
    if s0.err.halted || s0.chipInReset || !s0.moveKnown move then s0
    else if s0.moveWaits h then
      ({ s0 with arr := { s0.arr with held := s0.arr.held ++ [h] } }).takeTags (.dolly engine) (s0.movePackets move)
    else s0.settleMove h)

/-! ## DRAM_PATROL (R254, R255) -/

/-- Beats in 24 hours. -/
def dayBeats : Nat := 43_200_000_000

/-- A sector met uncorrectable: it reads as poison, and its page becomes a candidate (R254, R255). The slot is held until the copy
is scheduled, where the page waits for one. -/
def State.sectorLost (s : State) (stack a : Nat) (stream : Option Nat) : State :=
  let page := pageOf a
  let s1 := s.poisonRange a 1
  if s1.pageKnown page then s1.detectBrief .dramUncorrectable stack stream
  else
    let s2 := s1.pageCandidate page
    if s2.pool.candidates.any fun c => c.page == page && !c.untilClose then
      s2.detect .dramUncorrectable stack stream (.pageScheduled page)
    else s2.detectBrief .dramUncorrectable stack stream

/-- A corrected error in a sector: the 16th of its page within 24 hours makes the page a candidate, which is only logged where 512
pages are retired already (R255, R256). -/
def State.sectorCorrected (s : State) (stack a : Nat) : State :=
  let page := pageOf a
  let recent := s.pool.pageErrors.filter fun e => decide (s.beat < e.2 + dayBeats)
  let s1 := { s with pool := { s.pool with pageErrors := recent ++ [(page, s.beat)] } }
  if (recent.filter fun e => e.1 == page).length < 15 || s1.pageKnown page then s1
  else if 512 ≤ s1.pool.retired.length then s1.log 2 (14 + stack) false false 0 .dramUncorrectable none none
  else s1.pageCandidate page

/-- What the patrol of a stack met, at an address that lies in the stack (R227). -/
def execDramPatrol (stack : Fin 4) (finding : PatrolFinding) (s : State) : Result :=
  .next (let s0 := s.fresh
    let g := s0.fuses.grade
    let mine (a : Nat) : Bool := decide (a < Config.dramEnd g) && stackOf g a == stack.val
    if Config.stackCount g ≤ stack.val || s0.chipInReset then s0
    else match finding with
    | .clean => s0
    | .corrected a => if mine a then s0.sectorCorrected stack.val a else s0
    | .uncorrectable a => if mine a then s0.sectorLost stack.val a none else s0)

/-! ## Watchdogs (R488) -/

/-- A control core has left its watchdog unserved for 4 beats: the chip halts. -/
def execControlWatchdog (core : Fin 8) (s : State) : Result :=
  .next (let s0 := s.fresh
    if s0.err.halted || s0.chipInReset then s0
    else
      let s1 := s0.advanceTo (500 * (s0.fw.served[core.val] + 4))
      (s1.detect .controlWatchdog 0 none .fundamental).halt)

end Sys2Proof.Machine
end

