-- ==== Sys2Proof/Machine/Packets.lean ====
section
/-!
DEFINITION. Packets on the fabric of this chip (R16, R26, R27, R31, R228, R284): requests that are served or forwarded, those that
wait for a tag or a credit, and the fabric arbiter, which serves the ports and this chip's own packets in turn (Table 1.1).
-/
namespace Sys2Proof.Machine

/-! ## Packets that arrive -/

/-- Note a packet that was written here for an exchange (R396, R397). -/
def State.land (s : State) (a : Nat) : State := { s with set := { s.set with landed := insertUnit a s.set.landed } }

/-- A request for memory of this chip (R228, R284): a write, or a read with its response; the splice class of the firewall applies. A
request of another kind goes to the control cores, where the report of a member's chip-level error or of its loss ends the epoch (R392;
DEDUCED, log 74). -/
def State.serveRequest (s : State) (p : Fin 6) (bytes : List Byte) : State :=
  let h := bytes.take 32
  let waits := Config.packetWaits h
  let answer (s : State) (bad : Bool) (data : List Byte) : State := if !waits then s
    else s.sendAnswer (answerTo h (Config.answerHeader h bad) ++ data)
  let deny (s : State) : State := (if waits then s.errorResponse h eAddress else s).accessViolation 13 0
  match Config.packetWrite h, Config.packetRead h with
  | some a, _ =>
    let data := bytes.drop 32
    if !s.allows (.splice p) true a data.length then deny s
    else
      let s1 := (s.storeBytes a data).land a
      answer (if Config.packetPoisoned h then s1.poisonRange a data.length else s1) false []
  | none, some (a, n) =>
    if !s.allows (.splice p) false a n.val then deny s else answer s (s.poisonedAt a n.val) (s.readBytes a n.val)
  | none, none =>
    let s1 := { s with set := { s.set with inbox := s.set.inbox ++ [bytes] } }
    if Config.reportsLoss bytes then s1.endEpoch 2 else s1

/-- A request whose hops have been counted is delivered or forwarded; one that waits for a response has its tag. -/
def State.passRequest (s : State) (p : Fin 6) (bytes : List Byte) (tag : Option Nat) : State :=
  let free (s : State) : State := { s with tags := s.tags.filter fun t => !(tag == some t.tag) }
  if packetDst (bytes.take 32) = s.set.index then free (s.serveRequest p bytes)
  else
    let r := s.routePacket false bytes tag
    if r.2 then r.1 else if tag.isSome then (free s).errorResponse (bytes.take 32) eLink else s

/-- A packet that came through a port can go on: a request that waits for a response needs an operation tag (R31, R245), and every packet
the credit of the crossing to its port. -/
def State.canPass (s : State) (p : Fin 6) (rsp : Bool) (bytes : List Byte) : Bool :=
  let h := bytes.take 32
  (rsp || !Config.packetWaits h || (s.nextTag (.splice p) (Config.packetUrgent h)).isSome) && s.hasCredit rsp bytes

/-- A packet that can go on does: a response on its way to another chip is forwarded, a request takes its tag. -/
def State.passPacket (s : State) (p : Fin 6) (rsp : Bool) (bytes : List Byte) : State :=
  let h := bytes.take 32
  if rsp then (s.routePacket true bytes none).1
  else if !Config.packetWaits h then s.passRequest p bytes none
  else match s.nextTag (.splice p) (Config.packetUrgent h) with
    | some t => ({ s with tags := s.tags ++ [(⟨t, .splice p, s.clock.clap⟩ : TagHold)] }).passRequest p bytes (some t)
    | none => s

/-- Packets of a class that wait at a port. -/
def Port.waitingFor (x : Port) (rsp : Bool) : List (List Byte) := if rsp then x.stalledRsp else x.stalled

/-- Change the packets of a class that wait at a port. -/
def Port.setWaiting (x : Port) (rsp : Bool) (ks : List (List Byte)) : Port :=
  if rsp then { x with stalledRsp := ks } else { x with stalled := ks }

/-- A packet goes on, or waits behind those of its class that came before it. -/
def State.admitPacket (s : State) (p : Fin 6) (rsp : Bool) (bytes : List Byte) : State :=
  if ((s.port p.val).waitingFor rsp).isEmpty && s.canPass p rsp bytes then s.passPacket p rsp bytes
  else s.updPort p.val fun x => x.setWaiting rsp (x.waitingFor rsp ++ [bytes])

/-- The packet of a class that a source of the fabric has at the head of its queue: a port, or this chip itself (6), whose requests to
members (R394, R396, R397) and responses wait in queues of their own. -/
def State.headOf (s : State) (rsp : Bool) (source : Nat) : Option (List Byte) :=
  if source < 6 then ((s.port source).waitingFor rsp).head?
  else if rsp then s.set.answers.head? else (s.set.unsent.head?).map (·.bytes)

/-- That packet can go on. -/
def State.headMay (s : State) (rsp : Bool) (source : Nat) : Bool :=
  if source < 6 then (s.headOf rsp source).any (s.canPass (Fin.ofNat 6 source) rsp)
  else if rsp then s.set.answers.head?.any (s.hasCredit true) else s.set.unsent.head?.any s.mayIssue

/-- The source whose waiting packet of a class the fabric arbiter takes next (Table 1.1): one with an urgent packet at its head first, then
round robin over the six ports and this chip's own packets, starting after the last one served. -/
def State.arbitrate (s : State) (rsp : Bool) : Option Nat :=
  let turns := ((List.range 7).map fun i => (s.set.lastPort + 1 + i) % 7).filter (s.headMay rsp)
  match turns.find? fun k => (s.headOf rsp k).any fun b => Config.packetUrgent (b.take 32) with
  | some k => some k
  | none => turns.head?

/-- The packets of a class that wait at a port fit the port's crossing into the fabric (Table 1.4), so that every byte received in a whole
packet has passed. -/
def Port.passed (x : Port) (p : Fin 6) (rsp : Bool) : Bool :=
  let cr := Config.credits (.spliceFabric p)
  decide ((x.waitingFor rsp).length ≤ if rsp then cr.rsp else cr.req)

/-- Credits of flits whose bytes have passed meanwhile are returned (R376). -/
def State.returnHeld (s : State) (p : Fin 6) : State :=
  s.updPort p.val fun x =>
    let y := if x.passed p false then { x with reqReturn := x.reqReturn + x.unreturned, unreturned := 0 } else x
    if x.passed p true then { y with rspReturn := y.rspReturn + y.unreturnedRsp, unreturnedRsp := 0 } else y

/-- The packet at the head of a source's queue goes on. -/
def State.serveHead (s : State) (rsp : Bool) (source : Nat) : State :=
  if source < 6 then match (s.port source).waitingFor rsp with
    | [] => s
    | b :: rest =>
      ((s.updPort source fun x => x.setWaiting rsp rest).returnHeld (Fin.ofNat 6 source)).passPacket (Fin.ofNat 6 source) rsp b
  else if rsp then match s.set.answers with
    | [] => s
    | b :: rest => (({ s with set := { s.set with answers := rest } }).routePacket true b none).1
  else match s.set.unsent with
    | [] => s
    | w :: rest => ({ s with set := { s.set with unsent := rest } }).issue w

/-- Let `n` packets of a class that waited go on, as far as there are tags and credits. -/
def State.resumeSome (s : State) (rsp : Bool) : Nat → State
  | 0 => s
  | n + 1 => match s.arbitrate rsp with
    | none => s
    | some k => State.resumeSome (({ s with set := { s.set with lastPort := k } }).serveHead rsp k) rsp n

/-- All packets of a class that wait. -/
def State.waitingCount (s : State) (rsp : Bool) : Nat :=
  ((List.range 6).map fun p => ((s.port p).waitingFor rsp).length).sum + if rsp then s.set.answers.length else s.set.unsent.length

/-- Packets that waited for a tag or a credit go on in the order of the fabric arbiter. -/
def State.resumeRequests (s : State) : State :=
  let s1 := s.resumeSome true (s.waitingCount true)
  s1.resumeSome false (s1.waitingCount false)

end Sys2Proof.Machine
end

