-- ==== Sys2Proof/Machine/Arrays.lean ====
section
/-!
DEFINITION. The array island and the sequencer's side of it: beat boundaries (R32 to R34, R275, R430), admission (R35),
the end of a take with its retries and spares (R20, R21, R122, R154, R201, R277 to R281, R293), what a take writes (R174, R217 to
R223, R231, R294, R429), tokens, exchanges between chips (R294, R397), the checker's downgrade notice (R413), the repair window
and row repair (R250 to R252).
-/
namespace Sys2Proof.Machine

/-! ## Beat boundaries -/

/-- A token of an entry that did not run. -/
def plainToken (takeId status at_ : Nat) : Token := ⟨takeId, status, at_, at_, [], [], []⟩

/-- The entry has its final status: a token to the sequencer, the status kept for entries that depend on it. -/
def State.finish (s : State) (tok : Token) : State :=
  { s with arr := { s.arr with finals := (tok.takeId, tok.status) :: s.arr.finals.filter (fun f => !(f.1 == tok.takeId)) },
           seq := { s.seq with tokens := s.seq.tokens ++ [tok] } }

/-- The array island at the boundary of beat `n`. -/
def State.islandBoundary (s : State) (n : Nat) : State :=
  let out := s.arr.left.filter fun e => !e.dailies
  let kept := s.arr.left.filter fun e => e.dailies
  let s1 := out.foldl (fun s e => s.finish (plainToken e.takeId 4 (s.beatCycle n)))
    { s with arr := { s.arr with hold := s.arr.hold ++ kept, left := [], current := none } }
  match s1.arr.next with
  | some sh => if sh.beat = n then { s1 with arr := { s1.arr with current := some sh, next := none, left := sh.entries } } else s1
  | none => s1

/-- A sheet that is not resident at its own boundary is late; one that has missed its whole beat is lost (R33, R275). -/
def State.lateSheets (s : State) (n : Nat) : State :=
  let lost := s.seq.inflight.filter fun sh => decide (sh.beat < n)
  let s1 := { s with seq := { s.seq with inflight := s.seq.inflight.filter fun sh => !decide (sh.beat < n),
                                         badSheets := s.seq.badSheets ++ lost.map fun (sh : Sheet) => sh.beat } }
  if s1.seq.inflight.any fun sh => sh.beat == n then s1.detectBrief .sheetLate 18 none else s1

/-- Entries of sheets that were not resident in their beat are withdrawn at the build of the following beat (R275). -/
def State.applyBadSheets (s : State) (n : Nat) : State :=
  let hit := s.seq.known.filter fun e => decide (e.beat < n) && s.seq.badSheets.contains e.beat
  let s1 := { s with seq := { s.seq with badSheets := s.seq.badSheets.filter (fun b => !decide (b < n)) },
                     arr := { s.arr with finals := hit.map (fun e => (e.takeId, 4)) ++ s.arr.finals } }
  hit.foldl (fun s e => s.applyToken (plainToken e.takeId 4 0)) s1

/-- The first output frame whose tile row 0 is released at least 2 beats after `n` (R493). -/
def State.resumeFrameAt (s : State) (st n : Nat) : Nat :=
  let x := s.stream st
  match x.frames.find? fun f => decide (n + 2 ≤ f.releaseBeat x.p.overlayBeats x.p.leadRows 0) with
  | some f => f.index
  | none =>
    let release (f : Nat) : Nat := (s.frameStart st f - x.gateBeats * beatSub) / beatSub - x.p.overlayBeats - 2 - x.p.leadRows * x.pRow
    let later := (List.range 1024).map (x.nextFrame + ·)
    (later.find? fun f => decide (n + 2 ≤ release f)).getD (x.nextFrame + 1024)

/-- Causes of HELD that have cleared by beat `n` go; after the last one the resume point is fixed (R493). -/
def State.clearHeld (s : State) (n : Nat) : State :=
  s.openStreams.foldl (fun s st =>
    let x := s.stream st
    if !(x.state == .held) || x.clearBeat.isSome then s
    else
      let left := x.held.filter fun h => !(h.clears.any fun b => decide (b ≤ n))
      let rf := if x.p.batch then none else some (s.resumeFrameAt st n)
      s.updStream st fun y => if left.isEmpty then { y with held := [], clearBeat := some n, resumeFrame := rf }
        else { y with held := left }) s

/-- LAUNCH_AT completes at beat C / 500 (R392). -/
def State.completeLaunch (s : State) (n : Nat) : State :=
  match s.set.launch with
  | some l =>
    if l.committed && decide (l.c ≤ 500 * n) then
      ({ s with set := { s.set with launch := none } }).completeDeferred Waits.isLaunch 0
        (leBytes 4 l.epoch ++ leBytes 1 (max 1 s.set.members.length) ++ zeros 11 ++ l.topology)
    else s
  | none => s

/-- Firmware's work at the boundary of beat `n`: tokens, done tokens, causes of HELD, returned space, dailies, closes, and the build
of sheet n + 1 from what the boundary finds (Table 1.5, R273). -/
def State.firmwareBoundary (s : State) (n : Nat) : State :=
  let got := s.seq.received
  let served := (List.range 8).foldl (fun (v : Vector Nat 8) k => if s.fw.halted.contains k then v else v.setIfInBounds k n) s.fw.served
  let s1 := got.foldl State.applyToken { s with seq := { s.seq with received := [] }, fw := { s.fw with served := served } }
  let s2 := s1.applyBadSheets n
  let rows := s2.motion.tokens
  let s2 := s2.openStreams.foldl (fun s i => (s.freeTensors i).freeLists i) s2
  let s3 := rows.foldl (fun s t => s.updFrame t.1 t.2.1 fun f => { f with doneRows := f.doneRows ++ [t.2.2] })
    { s2 with motion := { s2.motion with tokens := [] } }
  let s4 := s3.clearHeld n
  let s5 := { s4 with pool := { s4.pool with freeing := s4.pool.freeing.filter fun f => !decide (f.1 < n) } }
  let s6 := if (n + 2) % 512 = 0 then s5.chooseDailies (n + 2) else s5
  let s7 := if n % 512 = 0 then { s6 with dev := { s6.dev with heartbeat := (s6.dev.heartbeat + 1) % 2 ^ 32 } } else s6
  let s8 := match s7.set.ending with
    | some (b, c) => if b ≤ n then s7.endEpoch c else s7
    | none => s7
  let s9 := (s8.completeLaunch n).completeStage n
  let s10 := s9.openStreams.foldl State.finishClose s9
  if s10.seq.sealed == n + 1 then s10 else s10.buildSheet (n + 1)

/-- The boundary of the next beat (Table 1.5 step 1). -/
def execBeatBoundary (s : State) : Result :=
  .next (let s0 := s.fresh
    let n := s0.beat + 1
    if !s0.clock.running then s0
    else
      let s1 := ((s0.advanceTo (500 * n)).islandBoundary n).lateSheets n
      if s1.firmwareUp then s1.firmwareBoundary n else s1)

/-- At tick 375 of beat n the sequencer seals sheet n + 1 (Table 1.5), which it built at the boundary; where that boundary was
passed over, the build is made now (log 70). The remote reads of its cued entries go out as far as there are tags and credits. -/
def execCallSheetSeal (s : State) : Result :=
  .next (let s0 := s.fresh
    let m := s0.beat + 1
    if !s0.firmwareUp || !s0.clock.running || s0.seq.sealed == m then s0
    else
      let s1 := s0.advanceTo (500 * s0.beat + 375)
      let s2 := if s1.drafted m then s1 else s1.buildSheet m
      match s2.seq.draft with
      | some d =>
        let s3 := s2.sendSheet d.1 d.2
        if d.1.entries.any fun e => e.owner.isSome then s3.resumeRequests else s3
      | none => s2)

/-! ## Admission (R35, R278, R430) -/

/-- The entry that the array island looks at: the dailies hold first, then the current sheet, in order. -/
def ArrayIsland.head (a : ArrayIsland) : Option Entry := (a.hold ++ a.left).head?

def ArrayIsland.dropHead (a : ArrayIsland) : ArrayIsland :=
  if a.hold.isEmpty then { a with left := a.left.drop 1 } else { a with hold := a.hold.drop 1 }

/-- It is the last step of its sequence. -/
def State.lastStep (s : State) (e : Entry) : Bool :=
  match s.reel? e.reel with
  | some r => decide (e.step + 1 = (reelSteps r.content e.keySeq).length)
  | none => false

/-- The take finishes tiles: the last step of the owner's sequence. -/
def State.finishes (s : State) (e : Entry) : Bool := s.lastStep e && e.owner.isNone && !(e.part == .share)

/-- The shape that the tile's frame runs under; cued and dailies takes run under the reel's own. -/
def State.tileShape (s : State) (e : Entry) (r : LoadedReel) (t : TileRef) : LoadShape :=
  if e.dailies then LoadShape.ofDailies r.arrays r.engines
  else match s.frame? t.stream t.frame with
    | some f => s.frameShape r f
    | none => r.shape s.set.index

/-- Positions that have a distribution group of the take, which are the first ones (R161, R526). -/
def usedPositions (u : LoadShape) (steps : List Step) (st : Step) (tiles : Nat) : Nat :=
  let o := outShape steps st
  min u.arrays (rowGroupsOf (o.1 * o.2 * tiles) * max 1 st.sigma * max 1 (u.partsOf st u.index).2)

/-- Banks that the take owns: the bench banks that its step declares, in every block that it runs on (Table 1.1, R18), and for a take
of the frequency-domain path, whose engines read their operands from their regions' stages (R200), the stage banks of those regions
(DEDUCED, log 120). -/
def State.takeBanks (s : State) (e : Entry) (r : LoadedReel) (st : Step) : List BankId :=
  ((s.takeBlocks e r).flatMap fun b => (st.inBanks ++ st.outBanks).map fun k => .bench (Fin.ofNat 36 b) (Fin.ofNat 16 k)) ++
  (if e.freq then r.engineMap.flatMap fun g => (s.healthyBanks g).map fun k => .stage (Fin.ofNat 9 g) (Fin.ofNat 24 k) else [])

/-- What the step reads from the benches for a tile: its sources, without the residual where the take only makes partial states; for a
join also the states that each chip gave (R294); cued work of an expert step reads its input rows where the exchange wrote them (R397). -/
def sourcesOf (u : LoadShape) (e : Entry) (st : Step) : List Src :=
  match e.part, e.owner with
  | .share, _ => st.inputs
  | .expert _, some _ => fetchedInputs st
  | .join, _ => st.inputs ++ st.residualSrc.toList ++
      ((List.range u.chips).filter fun i => decide (0 < (u.partsOf st i).2)).map fun i => .parts e.step i
  | _, _ => st.inputs ++ st.residualSrc.toList

/-- Slots of an expert: cap of R212. -/
def slotsOf (st : Step) : Nat := match st.op with
  | .expert ws top cf => expertCap top (effH st * effW st) cf ws.length
  | _ => 0

/-- Experts of an expert step. -/
def expertsOf (st : Step) : Nat := match st.op with
  | .expert ws _ _ => ws.length
  | _ => 1

/-- Bytes of a pixel of `c` channels as the exchange carries it: its elements in line order, then its scales. -/
def pixelSize (c : Nat) (fmt : Fmt) : Nat := elementBytes 1 1 c fmt 1 + scaleCount 1 1 c fmt 1

/-- The slots of an expert that the route entries fill (R213). -/
def filledSlots (st : Step) (route : Tensor) (x : Nat) : List Nat := (List.range (slotsOf st)).filter fun k => (slotToken route x k).isSome

/-- The input rows of cued work in this chip's working store, for a tile: address and length, slot by slot (R397). -/
def State.cuedRows (s : State) (e : Entry) (st : Step) (t : TileRef) : List (Nat × Nat) :=
  match e.owner, e.part with
  | some o, .expert x =>
    let route := match s.bench.find? fun b => b.tile == t && st.inputs[1]? == some b.src with
      | some b => b.data
      | none => emptyTensor
    (filledSlots st route x).map fun k => (Config.exchangeRow o.1 (e.tiles.idxOf t) x k, pixelSize (effCi st) st.aFmt)
  | _, _ => []

/-- The tensor of a source stands in the benches of the given blocks. -/
def State.benchHas (s : State) (t : TileRef) (x : Src) (blocks : List Nat) : Bool :=
  s.bench.any fun b => b.tile == t && b.src == x && b.spilled.isNone && blocks.all b.blocks.contains

/-- Every operand of a stream entry is in place in the benches of the blocks that use it (R35, R121), and the rows of cued work have
been written here (R397); a discarded tile needs none. -/
def State.operandsReady (s : State) (e : Entry) (r : LoadedReel) (st : Step) : Bool :=
  e.dailies || e.tiles.all fun t => (e.owner.isNone && s.discards e t) ||
    (let u := s.tileShape e r t
     ((sourcesOf u e st).all fun x => s.benchHas t x ((s.tileBlocks r t).take
        (usedPositions u (reelSteps r.content e.keySeq) st e.tiles.length))) &&
     (s.cuedRows e st t).all fun w => s.set.hasLanded w.1 w.2)

/-- The multicast fill of the image of a reel whose frames run hot is acknowledged (R234, R239). -/
def State.weightsReady (s : State) (e : Entry) (r : LoadedReel) : Bool := !s.runsHot e r || r.hot.isNone || r.resident

/-- The exchange that an expert take or a combine waits for has run its phases (R397). -/
def State.exchangeDone (s : State) (e : Entry) (st : Step) : Bool :=
  let mine := s.set.exchanges.filter fun x => !x.split && x.tiles.any e.tiles.contains
  match st.op with
  | .expert _ _ _ => mine.all fun x => x.back
  | .combine _ _ => mine.isEmpty
  | _ => true

/-- Continuity records that the take sends. -/
def State.recordsOf (s : State) (e : Entry) : Nat := if e.dailies || s.finishes e then e.tiles.length else 0

/-- The dailies beat whose repair window is still to run (R251). -/
def State.windowDue (s : State) : Option Nat :=
  let n := s.beat / 512 * 512
  if n = 0 ∨ s.arr.repaired = some n then none else some n

/-- The array island holds a credit for a take-done token, an urgent entry (R26, R27). -/
def State.tokenCredit (s : State) : Bool := decide (0 < s.creditsLeft .arrayControl false true)

/-- The conditions of R35 hold for the head; a stream take waits for the repair window of the dailies beat before it, and any take
for a credit for its token (R26). -/
def State.admissible (s : State) (e : Entry) (r : LoadedReel) (st : Step) : Bool :=
  (!e.needAck || s.arr.acks.contains e.takeId) && s.weightsReady e r && s.operandsReady e r st && s.exchangeDone e st &&
  (!(s.takeBanks e r st).any s.arr.owned.contains) &&
  decide (s.recordsOf e ≤ s.creditsLeft .arrayContinuity false true) && s.tokenCredit &&
  (if e.dailies then s.arr.repaired == some e.beat else s.windowDue.isNone)

/-- The start of a take admitted now: at once after its predecessor where nothing else held it up. -/
def State.startCycle (s : State) : Nat := if s.cycle < s.arr.lastEnd + cyclesPerTick then s.arr.lastEnd else s.cycle

/-- A predecessor's final status withdraws the entry (R278). -/
def ArrayIsland.doomed (a : ArrayIsland) (e : Entry) : Bool :=
  e.deps.any fun d => a.finals.any fun f => f.1 == d && decide (3 ≤ f.2)

/-- The sticky flags of the blocks are clear when a run begins (DESIGN CHOICE, log 89). -/
def State.clearSticky (s : State) (blocks : List Nat) : State := blocks.foldl (fun s b => s.updBlock b fun u => { u with sticky := false }) s

/-- The take holds the island from cycle `c`: its banks are its own. -/
def State.startTake (s : State) (e : Entry) (r : LoadedReel) (st : Step) (c : Nat) : State :=
  ({ s with arr := { s.arr.dropHead with
      running := some ⟨e, 1, c, c, [], [], [], false, s.bench.filter fun b => e.tiles.contains b.tile⟩, owned := s.takeBanks e r st,
      fills := s.arr.fills.filter (fun f => !(f.1 == e.takeId)), acks := s.arr.acks.filter (fun a => !(a == e.takeId)) } }).clearSticky (s.takeBlocks e r)

def execTakeAdmit (s : State) : Result :=
  .next (let s0 := s.fresh
    match s0.arr.running, s0.arr.head with
    | none, some e =>
      if s0.arr.doomed e then if !s0.tokenCredit then s0 else
        ({ s0 with arr := s0.arr.dropHead }).finish (plainToken e.takeId 5 s0.cycle)
      else
        match s0.reel? e.reel, s0.stepOf e with
        | some r, some st => if s0.admissible e r st then s0.startTake e r st s0.startCycle else s0
        | _, _ => s0
    | _, _ => s0)

/-! ## What a take computes -/

/-- Number engines above blocks in one list of mismatching units. -/
def engineUnit (k : Nat) : Nat := 64 + k

/-- The tensor of a source in a list of tensors, blank where it is missing. -/
def tensorIn (bs : List HeldTensor) (t : TileRef) (x : Src) : Tensor :=
  match bs.find? fun b => b.tile == t && b.src == x with
  | some b => b.data
  | none => emptyTensor

/-- What the running take reads: the tensors that stood in its banks when it began (R18), and what the benches hold. -/
def State.readable (s : State) : List HeldTensor := ((s.arr.running.map (·.operands)).getD []) ++ s.bench

/-- The tensor of a source as the running take reads it. -/
def State.operand (s : State) (t : TileRef) (x : Src) : Tensor := tensorIn s.readable t x

/-- A tensor of the tile that the step reads holds poison in the banks where it stands (R252, R253). -/
def State.operandPoisoned (s : State) (t : TileRef) (xs : List Src) : Bool :=
  xs.any fun x => (s.readable.find? fun b => b.tile == t && b.src == x).any fun b => b.at_.any fun r => s.poisonedAt r.1 r.2

/-- What a step needs to know for a tile of a frame (R302: layer `step`). -/
def State.frameEnv (s : State) (r : LoadedReel) (f : Frame) (st : Step) (t : TileRef) (step : Nat) : StepEnv :=
  let x := s.stream t.stream
  { canonical := r.content.canonical, parts := (s.frameShape r f).parts st, phase := f.phase,
    last := decide (step + 1 = (reelSteps r.content f.keySeq).length) && st.finish.into.isNone,
    rnd := some ⟨x.p.seed, stepCounter f.keyB f.phase, step, t.tile⟩, overscan := r.content.overscan }

/-- The same from what the entry keeps of its tiles: for cued work, whose cue gave it (R302, R394), and for a tile whose frame has
closed since (R150). -/
def State.entryEnv (s : State) (r : LoadedReel) (e : Entry) (st : Step) (t : TileRef) : StepEnv :=
  let i := e.tiles.idxOf t
  let draw := e.draws.getD i ([], 0)
  { canonical := r.content.canonical, parts := (r.shape s.set.index).parts st, phase := e.phases.getD i 0,
    last := s.finishes e && st.finish.into.isNone, rnd := some ⟨draw.1, draw.2, e.step, t.tile⟩,
    overscan := r.content.overscan }

def State.envOf (s : State) (r : LoadedReel) (e : Entry) (st : Step) (t : TileRef) : StepEnv :=
  match (if e.owner.isSome then none else s.frame? t.stream t.frame) with
  | some f => s.frameEnv r f st t e.step
  | none => s.entryEnv r e st t

/-- The pixel that the given bytes hold, as the framing unit reads it. -/
def pixelTensor (c : Nat) (fmt : Fmt) (bs : List Byte) : Tensor := tensorFrom ⟨1, 1, c, fmt, [], []⟩ 1 bs

/-- The reductions of an entry's part of a step for a tile: of one expert only its own rows (R213, R397). Cued work reads them as the
exchange wrote them into the working store. -/
def State.reductionFor (s : State) (e : Entry) (env : StepEnv) (st : Step) (t : TileRef) : Option Reduction :=
  let ins := st.inputs.map (s.operand t)
  match e.part, e.owner, st.op with
  | .expert x, some o, .expert ws _ _ =>
    let blank : Tensor := ⟨st.hi, st.wi, st.ci, st.aFmt, [], []⟩
    (reductionOf env st (blank :: ins.drop 1)).map fun q =>
      let row (slot : Nat) : Tensor := pixelTensor (effCi st) st.aFmt
        (s.readBytes (Config.exchangeRow o.1 (e.tiles.idxOf t) x slot) (pixelSize (effCi st) st.aFmt))
      let feed (slot n : Nat) := productFeed ((row slot).view st.aFmt) (pairLine st.aFmt st.bFmt) 0 0 fun k =>
        ((ws.getD x emptyTensor).view st.bFmt).value n 0 k
      { q with feed := fun y slot n =>
          if y = x ∧ (slotToken (ins.getD 1 emptyTensor) x slot).isSome = true then some (feed slot n) else none }
  | .expert x, _, _ => (reductionOf env st ins).map fun q => { q with feed := fun y slot n => if y = x then q.feed y slot n else none }
  | _, _, _ => reductionOf env st ins

/-- What the entry's part of a step gives for a tile. -/
def State.partOut (s : State) (u : LoadShape) (e : Entry) (st : Step) (env : StepEnv) (t : TileRef) : StepOut :=
  let ins := st.inputs.map (s.operand t)
  let res := st.residualSrc.map (s.operand t)
  match e.part with
  | .whole => runStep env st ins res
  | .share => match reductionOf env st ins with
    | some q => ⟨q.partials env st (u.partsOf st u.index).1 (u.partsOf st u.index).2, (0, 0, 0), []⟩
    | none => runStep env st ins res
  | .join => runJoin env st ins ((sourcesOf u e st).filterMap fun x => match x with
      | .parts _ _ => some (s.operand t x)
      | _ => none) res
  | .expert _ => match s.reductionFor e env st t with
    | some q =>
      let o := finishReduced env st res q.h q.w q.c (q.joinedAt env st)
      ⟨o.1, o.2, []⟩
    | none => runStep env st ins res

/-- A block of 32 channels that holds elements of more than one expert's take: the values of both are converted together (DESIGN
CHOICE, log 139). -/
def mixedBlock (f : Fmt) (pick : Nat → Nat → Nat → Tensor) (c y x k : Nat) : Nat × List Nat :=
  let b := convertMx f (fun _ => none) ((List.range (min 32 (c - 32 * k))).map fun i => (pick y x (32 * k + i)).value y x (32 * k + i))
  (b.1, b.2.map (·.1))

/-- The rows of the listed experts from one tensor, the others from another; the layout map says which expert an element comes from
(R157, R173). -/
def mergeRows (st : Step) (experts : List Nat) (old new : Tensor) : Tensor :=
  let n := expertsOf st
  let l := layoutOf st.finish false n (new.h * new.w * new.c / max 1 (n * st.co)) st.co
  let mine (y x c : Nat) : Bool := experts.contains (l.src y x c).1
  let pick (y x c : Nat) : Tensor := if mine y x c then new else old
  let mixed (y x k : Nat) : Bool := !new.scales.isEmpty &&
    (List.range (min 32 (new.c - 32 * k))).any fun i => mine y x (32 * k + i) != mine y x (32 * k)
  { new with
    codes := (List.range new.h).flatMap fun y => (List.range new.w).flatMap fun x => (List.range new.c).map fun c =>
      if mixed y x (c / 32) then (mixedBlock new.fmt pick new.c y x (c / 32)).2.getD (c % 32) 0 else (pick y x c).code y x c,
    scales := if new.scales.isEmpty then [] else (List.range new.h).flatMap fun y => (List.range new.w).flatMap fun x =>
      (List.range (ceilDiv new.c 32)).map fun k =>
        if mixed y x k then (mixedBlock new.fmt pick new.c y x k).1 else (pick y x (32 * k)).scale y x (32 * k) }

/-- Where the entry's output is kept: the step's tensor or the one that it interleaves into (R174), or partial states. -/
def outputSrc (u : LoadShape) (e : Entry) (st : Step) : Src :=
  if e.part == .share then .parts e.step u.index else .step ((st.finish.into.map (·.1)).getD e.step)

/-- The output as it stands in its tensor afterwards. -/
def State.outputData (s : State) (e : Entry) (st : Step) (t : TileRef) (dst : Src) (o : StepOut) : Tensor :=
  match e.part, st.finish.into with
  | .share, _ => o.data
  | .expert x, _ => mergeRows st [x] (tensorIn s.bench t dst) o.data
  | _, some (_, sub) => interleave st.finish.d2s sub (tensorIn s.bench t dst) o.data
  | _, none => o.data

/-- The middle of a tensor, of at most the extents of a tile: the crop of a last layer whose results were interleaved (R159). -/
def cropTile (t : Tensor) : Tensor :=
  let l := layoutOf ⟨.float ⟨[], [], none, .none⟩, 0, false, false, 1, false, none⟩ true t.h t.w t.c
  Tensor.tabulate l.h l.w l.c t.fmt fun y x c => let p := l.src y x c; t.code p.1 p.2.1 p.2.2

/-! ## What a take writes -/

/-- Bytes that the banks which a step declares for its output hold on all active blocks (Table 7.1). -/
def outputRoom (st : Step) (arrays : Nat) : Nat := arrays * st.outBanks.length * 0x2_0000

/-- The banks that a step declares for its output on the blocks, in map order and ascending number: address and size. -/
def outputArea (st : Step) (blocks : List Nat) : List (Nat × Nat) :=
  blocks.flatMap fun b => (st.outBanks.foldl (fun acc k => insertUnit k acc) []).map fun k => bankRange (.bench (Fin.ofNat 36 b) (Fin.ofNat 16 k))

/-- Write bytes over a list of ranges, in order. -/
def State.writeRanges (s : State) : List (Nat × Nat) → List Byte → State
  | [], _ => s
  | r :: rest, bs => State.writeRanges (s.writeBytes r.1 (slice bs 0 r.2)) rest (bs.drop r.2)

/-- The output of tile `i` of a take goes into the output banks of its step (R35), or leaves the array island for the pool where the reel
says so or it does not fit (R231), zero-run compressed where R223 says so; partial states of `w` bytes stay in the banks (R294). The
scales of an MX output follow its elements in the same run of lines and are compressed with them (DESIGN CHOICE, log 146). Without room in
the pool it stays where it is (log 91). The tiles' outputs lie one behind the other over the banks of all blocks (DESIGN CHOICE, log 121).
-/
def State.putOutput (s : State) (st : Step) (i : Nat) (t : TileRef) (src : Src) (d : Tensor) (w : Option Nat) (pad : Nat)
    (blocks : List Nat) : State :=
  let bytes := outputBytes w pad d
  let key := match src with
    | .step k => k
    | .parts k _ => k
    | .slot i => i
  let s0 := s.release fun o => o == .spill t.stream t.frame t.tile key
  let at_ := areaRanges (outputArea st blocks) (i * bytes.length) bytes.length
  let here := (s0.writeRanges at_ bytes).putBench ⟨t, src, d, blocks, none, false, at_, pad, w⟩
  if w.isSome || (!st.spill && decide ((i + 1) * bytes.length ≤ outputRoom st blocks.length)) then here
  else
    let packed := zeroRunActivation st.finish.path
    let sent := if packed then packSegments bytes else bytes
    match s0.alloc sent.length (.spill t.stream t.frame t.tile key) with
    | none => here
    | some (s1, a) => (s1.writeBytes a sent).putBench ⟨t, src, d, [], some a, packed, [], pad, w⟩

/-- Post a fingerprint entry (R221), counting those lost. -/
def State.postFinger (s : State) (t : TileRef) (layer fp : Nat) : State :=
  let r := s.ringPush t.stream 4 (slice (leBytes 2 0x0031 ++ leBytes 2 t.stream ++ leBytes 4 t.frame ++ leBytes 2 t.tile ++
    leBytes 2 layer ++ leBytes 4 (s.stream t.stream).lostFinger ++ leBytes 8 fp) 0 32)
  r.1.updStream t.stream fun y => { y with lostFinger := if r.2 then 0 else satAdd y.lostFinger 1 (2 ^ 32 - 1) }

/-- The last layer of a tile: the generated store, its store record and its continuity record (R217, R418). -/
def State.finishTile (s : State) (t : TileRef) (f : Frame) (out : Tensor) : State :=
  let x := s.stream t.stream
  let px := pixelsOf x.p.colour out
  let n := x.p.tileInside t.tile
  let s1 := s.writeTile (x.homes.generated.getD f.half 0) x.p.tileCount x.p.colour t.tile px
  let s2 := if x.p.safety then
      s1.sendFabric (storeRecordBytes t.stream 0 (t.frame % 2 ^ 32) t.tile (x.p.tileCrc t.tile px)) 2 else s1
  { s2 with chk := { s2.chk with fromArray := s2.chk.fromArray ++
      [(recordBytes t.stream 0 (t.frame % 2 ^ 32) t.tile (tileStats x.p.colour (s.edgeStepOf t.stream) n.1 n.2 px), false)] } }

/-- The bytes of one pixel as the framing unit reads it: its elements in line order, then its scales (R155, R220). -/
def viewBytes (v : View) (y x : Nat) : List Byte :=
  (⟨1, 1, v.c, v.fmt, (List.range v.c).map fun k => (v.at_ y x k).1,
    (List.range (ceilDiv v.c 32)).map fun b => (v.at_ y x (32 * b)).2⟩ : Tensor).bytes 1 []

/-- The array region through whose egress port a tile's results leave: that of the first block of its map (DEDUCED, log 129). -/
def State.egressOf (s : State) (r : LoadedReel) (t : TileRef) : Fin 9 := Fin.ofNat 9 ((s.tileBlocks r t).headD 0 / 4)

/-- The layout of an expert step's output (R157, R173). -/
def expertLayout (st : Step) : Layout := layoutOf st.finish false (expertsOf st) (slotsOf st) st.co

/-- The pixels of an expert step's output that its home returns: those of the expert's rows, or of a transposed tensor, whose pixels run
over all rows, every one (R397; log 101). -/
def returnPixels (st : Step) (x : Nat) : List (Nat × Nat) :=
  let l := expertLayout st
  (List.range l.h).flatMap fun y => ((List.range l.w).filter fun i => st.finish.transposed || (l.src y i 0).1 == x).map fun i => (y, i)

/-- Where the outputs of an expert come back to, in the owner's memory: address and length (R397). -/
def returnRange (st : Step) (home tile x : Nat) : Nat × Nat :=
  (Config.exchangeReturn home tile x, (returnPixels st x).length * pixelSize (expertLayout st).c st.finish.out)

/-- An expert's outputs as they came back. -/
def returnedTensor (st : Step) (x : Nat) (bs : List Byte) : Tensor :=
  let l := expertLayout st
  let ps := returnPixels st x
  let n := pixelSize l.c st.finish.out
  let at_ (y i : Nat) : Tensor := pixelTensor l.c st.finish.out (slice bs (ps.idxOf (y, i) * n) n)
  { h := l.h, w := l.w, c := l.c, fmt := st.finish.out,
    codes := (List.range l.h).flatMap fun y => (List.range l.w).flatMap fun i => (List.range l.c).map fun c => (at_ y i).code 0 0 c,
    scales := if !Fmt.isMx st.finish.out then [] else
      (List.range l.h).flatMap fun y => (List.range l.w).flatMap fun i => (List.range (ceilDiv l.c 32)).map fun k => (at_ y i).scale 0 0 (32 * k) }

/-- What cued work gives for a tile goes back to its owner: partial states into the owner's bench (R396), or the pixels of an expert's
output (R397). This home returns to one owner in one phase only, the one of their distance, which begins at once (DEDUCED, log 101). -/
def State.sendBack (s : State) (r : LoadedReel) (u : LoadShape) (e : Entry) (st : Step) (t : TileRef) (d : Tensor) : State :=
  match e.owner, e.part with
  | some (o, _), .share =>
    s.sendWrite (s.egressOf r t) none o (Config.exchangeState e.step (e.tiles.idxOf t) s.set.index)
      (outputBytes (some (stateWidth u.canonical st)) 1 d)
  | some (o, _), .expert x =>
    s.sendWrite (s.egressOf r t) none o (returnRange st s.set.index (e.tiles.idxOf t) x).1
      ((returnPixels st x).flatMap fun p => viewBytes (d.view d.fmt) p.1 p.2)
  | _, _ => s

/-- The rows of a tile that an exchange sends to a home: for each of its experts and each slot that a selection fills, in ascending
order, the input row (R397). -/
def State.homeRows (s : State) (r : LoadedReel) (x : Exchange) (t : TileRef) (home : Nat) : List (Nat × Nat × List Byte) :=
  match s.frame? t.stream t.frame with
  | none => []
  | some f =>
    let steps := reelSteps r.content f.keySeq
    match (expertAfter steps x.step).bind fun k => steps[k]? with
    | none => []
    | some st =>
      let ins := st.inputs.map (tensorIn s.bench t)
      let v := stepInput st ins
      match st.op with
      | .expert ws _ _ => ((s.frameShape r f).expertsOf ws.length home).flatMap fun e =>
          (List.range (slotsOf st)).filterMap fun slot =>
            (slotToken (ins.getD 1 emptyTensor) e slot).map fun p => (e, slot, viewBytes v p.1 p.2)
      | _ => []

/-- Phase `j` of an exchange begins: chip i sends to chip (i + j) mod n the rows whose expert has that chip as home, in ascending order
of tile, expert and slot (R397). -/
def State.sendPhase (s : State) (x : Exchange) (j : Nat) : State :=
  let home := (s.set.index + j) % max 1 s.set.members.length
  match (x.tiles.head?).bind fun t => s.reel? (s.stream t.stream).p.reel with
  | none => s
  | some r =>
    (x.tiles.foldl (fun acc t => (s.homeRows r x t home).foldl (fun acc w =>
      acc.sendWrite (s.egressOf r t) (some x.takeId) home (Config.exchangeRow s.set.index (x.tiles.idxOf t) w.1 w.2.1) w.2.2) acc) s).resumeRequests

/-- The first phase of the exchange that follows a take begins when the take has ENDED (R397); the writes of cued work go out. -/
def State.beginExchange (s : State) (e : Entry) : State :=
  match s.set.exchanges.find? fun x => x.takeId == e.takeId && !x.split && e.owner.isNone with
  | some x => s.sendPhase x 1
  | none => s.resumeRequests

/-- Write what a take gives for a tile: the tensor, the fingerprint of a layer that is whole, and the tile itself. -/
def State.writeOut (s : State) (r : LoadedReel) (u : LoadShape) (e : Entry) (st : Step) (t : TileRef) (o : StepOut) : State :=
  let dst := outputSrc u e st
  let data := s.outputData e st t dst o
  let pad := outputPad (reelSteps r.content e.keySeq) e.step
  let width := if e.part == .share then some (stateWidth u.canonical st) else none
  let s1 := s.putOutput st ((if e.part == .share then u.index * e.tiles.length else 0) + e.tiles.idxOf t) t dst data width pad (s.tileBlocks r t)
  match (if e.owner.isSome then none else s.frame? t.stream t.frame) with
  | none => s1.sendBack r u e st t o.data
  | some f =>
    let whole := e.part == .whole || e.part == .join
    let mine : StepOut := match st.finish.into with
      | some (_, sub) => if s.lastStep e then { o with data := ownShare st.finish.d2s sub data } else o
      | none => o
    let s2 := if f.wantFinger && whole then s1.postFinger t e.step (fingerprint mine pad) else s1
    if s.finishes e then s2.finishTile t f (if st.finish.into.isSome then cropTile data else data) else s2

/-- Where a take writes for a tile: the banks that its step declares for its output, and after the last layer the generated store. -/
def State.outRanges (s : State) (r : LoadedReel) (e : Entry) (st : Step) (t : TileRef) : List (Nat × Nat) :=
  let x := s.stream t.stream
  outputArea st (s.tileBlocks r t) ++ (match (if e.owner.isSome || !s.finishes e then none else s.frame? t.stream t.frame) with
    | some f => storeRanges (x.homes.generated.getD f.half 0) x.p.tileCount x.p.bpp t.tile
    | none => [])

/-- Run the entry's part of its step for one tile; its conversion counts, which do not depend on whether the output is kept. -/
def State.runTile (s : State) (r : LoadedReel) (e : Entry) (st : Step) (keep : Bool) (t : TileRef) :
    State × (TileRef × Nat × Nat × Nat) :=
  let u := s.tileShape e r t
  let o := s.partOut u e st (s.envOf r e st t) t
  (if keep then s.screen (.egress (s.egressOf r t)) [] (s.outRanges r e st t) fun s => s.writeOut r u e st t o else s, (t, o.counts.1, o.counts.2.1, o.counts.2.2))

/-- A dailies record (R429); the take index, one byte, is the take's place in its portion (DEDUCED, log 132). -/
def dailiesBytes (reel portion take tile fp : Nat) : List Byte :=
  let body := leBytes 2 reel ++ leBytes 2 portion ++ leBytes 1 take ++ leBytes 1 tile ++ zeros 2 ++ leBytes 8 fp ++ zeros 12
  body ++ leBytes 4 (crc32c body)

/-- One tile of a dailies take: the tensors are those of its inputs, then of its residual (R191, R298). Its
random values take the index of the dailies take as the step and the tile's place in it (DESIGN CHOICE, log 149). -/
def dailiesOut (r : LoadedReel) (d : DailiesTake) (step tile : Nat) (ts : List Tensor) : StepOut :=
  let env : StepEnv := ⟨true, splitAt d.step r.arrays, 0, false, some ⟨r.content.dailiesSeed, r.content.dailiesStep, step, tile⟩,
    r.content.overscan⟩
  let n := d.step.inputs.length
  runStep env d.step (ts.take n) (if d.step.residualSrc.isSome then ts[n]? else none)

/-- Run a tile of a dailies take: one record for its output (R303, R429). -/
def State.runDailies (s : State) (r : LoadedReel) (e : Entry) (keep : Bool) (t : TileRef) : State × (TileRef × Nat × Nat × Nat) :=
  match (r.content.dailies[e.step]?).bind fun d => (d.inputs[t.tile]?).map fun ts => dailiesOut r d e.step t.tile ts with
  | none => (s, (t, 0, 0, 0))
  | some o =>
    let pad := match r.content.dailies[e.step]? with
      | some d => outputPad [d.step] 0
      | none => 1
    (if keep then { s with chk := { s.chk with fromArray := s.chk.fromArray ++
        [(dailiesBytes e.reel s.dailies.portion ((r.portions.getD s.dailies.portion []).idxOf e.step) t.tile (fingerprint o pad), true)] } } else s,
     (t, o.counts.1, o.counts.2.1, o.counts.2.2))

/-- Run the entry over its tiles; only outputs of the tiles that `keep` names are written. -/
def State.runTiles (s : State) (e : Entry) (keep : TileRef → Bool) : State × List (TileRef × Nat × Nat × Nat) :=
  match s.reel? e.reel, s.stepOf e with
  | some r, some st => e.tiles.foldl (fun (acc : State × List (TileRef × Nat × Nat × Nat)) t =>
      let o := if e.dailies then acc.1.runDailies r e (keep t) t else acc.1.runTile r e st (keep t) t
      (o.1, acc.2 ++ [o.2])) (s, [])
  | _, _ => (s, [])

/-- Tiles whose output is discarded (R279 to R281). -/
def State.lostTiles (s : State) (e : Entry) : List TileRef :=
  if e.dailies || e.owner.isSome then [] else e.tiles.filter (s.discards e)

/-- What remote reads and rows had brought for a cued take has been used (R394, R397). -/
def State.dropCued (s : State) (e : Entry) : State :=
  match s.reel? e.reel, s.stepOf e with
  | some r, some st => match (if e.owner.isSome then some r else none) with
    | none => s
    | some _ =>
      let s1 := e.tiles.foldl (fun s t => s.unland (s.cuedRows e st t)) s
      { s1 with set := { s1.set with fetched := s1.set.fetched.filter fun f => !(f.fetch.takeId == e.takeId) } }
  | _, _ => s

/-- The end of a take's last run: outputs of the tiles that are not discarded where it ended ENDED, and the token, with the counts of
every tile whatever its status (R150). -/
def State.takeDone (s : State) (e : Entry) (start end_ status : Nat) (flags : List Nat) : State :=
  let lost := if status = 0 then s.lostTiles e else e.tiles
  let run := s.runTiles e fun t => decide (status = 0) && !lost.contains t
  let s1 := (run.1.dropCued e).finish ⟨e.takeId, status, start, end_, run.2, lost, flags⟩
  if status = 0 && !e.dailies then s1.beginExchange e else s1

/-! ## Cells (R119, R122) -/

/-- The step's reductions run in the cells. -/
def Step.usesCells (st : Step) : Bool :=
  match st.op with
  | .matmul _ | .conv _ _ _ _ | .warp _ _ _ _ _ _ | .expert _ _ _ => true
  | _ => false

/-- What the cells of a take compute: for each tile its reduction and what it needs to know, the row of the reduction at which the
take's rows begin and how many rows it has (one for an expert's take), and the first part and the number of parts that this chip
runs. -/
structure CellWork where
  runs : List (StepEnv × Reduction)
  first : Nat
  rows : Nat
  part0 : Nat
  parts : Nat

/-- What the cells of the entry's take compute; none where it uses no cells. -/
def State.cellWork (s : State) (e : Entry) : Option CellWork :=
  match s.reel? e.reel, s.stepOf e with
  | some r, some st =>
    if e.freq || e.part == .join || !Step.usesCells st then none
    else
      let runs := e.tiles.filterMap fun t =>
        if e.dailies then (r.content.dailies[e.step]?).bind fun d => (d.inputs[t.tile]?).bind fun ts =>
          (reductionOf ⟨true, splitAt st r.arrays, 0, false, none, r.content.overscan⟩ st ts).map fun q =>
            ((⟨true, splitAt st r.arrays, 0, false, none, r.content.overscan⟩ : StepEnv), q)
        else (s.reductionFor e (s.envOf r e st t) st t).map fun q => (s.envOf r e st t, q)
      match runs with
      | [] => none
      | (env, q) :: _ =>
        let u := s.tileShape e r (e.tiles.headD ⟨0, 0, 0⟩)
        let range := if e.part == .share then u.partsOf st u.index else (0, max 1 env.parts)
        some (match e.part with
          | .expert x => ⟨runs, x, 1, range.1, range.2⟩
          | _ => ⟨runs, 0, q.h, range.1, range.2⟩)
  | _, _ => none

/-- The element of a cell's reduction in a unit: tile, row, column, channel; none for a surplus cell. -/
def CellWork.at_ (k : CellWork) (unit : Nat × Nat × Nat) (cell : Nat) : Option ((StepEnv × Reduction) × Nat × Nat × Nat) :=
  match k.runs with
  | [] => none
  | (_, q) :: _ =>
    let per := k.rows * q.w
    let row := 32 * unit.1 + cell / 32
    let col := 32 * unit.2.1 + cell % 32
    if q.c ≤ col then none
    else (k.runs[row / max 1 per]?).map fun r => (r, k.first + row % max 1 per / max 1 q.w, row % max 1 per % max 1 q.w, col)

/-- The units that a position runs in the take, in order. -/
def CellWork.unitsAt (k : CellWork) (st : Step) (arrays pos : Nat) : List (Nat × Nat × Nat) :=
  match k.runs with
  | [] => []
  | (_, q) :: _ => Machine.unitsAt (ceilDiv (k.rows * q.w * k.runs.length) 32) (ceilDiv q.c 32) (max 1 st.sigma) (max 1 k.parts) arrays pos

/-- A cell after its last reduction of the take: its drain register holds the value, its running residue that of the reduction, and the
accumulator, which no next reduction has started anew, its last state (DESIGN CHOICE, log 84). A surplus cell holds no product; its
state is zero (log 84). -/
def CellWork.cell (k : CellWork) (st : Step) (unit : Nat × Nat × Nat) (i : Nat) : Cell :=
  match k.at_ unit i with
  | none => ⟨0, 0, 0⟩
  | some (r, y, x, c) =>
    let n := k.part0 + unit.2.2
    let v := (((r.2.partsAt r.1 st y x c).bind fun ps => ps[n]?).map Reduced.store).getD 0
    ⟨v, (r.2.checkAt r.1 st y x c n).2, v⟩

/-- The cells of a position after a take: those of its last unit (R122); none where it ran no unit. -/
def CellWork.cells (k : CellWork) (st : Step) (arrays pos : Nat) : Option (List Cell) :=
  (k.unitsAt st arrays pos).getLast?.map fun u => (List.range 1024).map (k.cell st u)

/-- The cells of a position whose own residues disagreed in some unit of the take (R151 to R153). -/
def CellWork.disagree (k : CellWork) (st : Step) (arrays pos : Nat) : List Nat :=
  (List.range 1024).filter fun i => (k.unitsAt st arrays pos).any fun u => match k.at_ u i with
    | none => false
    | some (r, y, x, c) => !(r.2.checkAt r.1 st y x c (k.part0 + u.2.2)).1

/-- The cells of every block that the take ran on, after a run of it. -/
def State.setCells (s : State) (e : Entry) : State :=
  match s.reel? e.reel, s.stepOf e, s.cellWork e with
  | some r, some st, some k =>
    let blocks := s.takeBlocks e r
    (blocks.zip (List.range blocks.length)).foldl (fun s b => match k.cells st blocks.length b.2 with
      | some cs => s.updBlock b.1 fun u => { u with cells := cs }
      | none => s) s
  | _, _, _ => s

/-- The blocks whose own checks found a mismatch in a run: the first cell in row-major order and how many (R151 to R154). -/
def State.ownMismatch (s : State) (e : Entry) : List BlockSeen :=
  match s.reel? e.reel, s.stepOf e, s.cellWork e with
  | some r, some st, some k =>
    let blocks := s.takeBlocks e r
    (blocks.zip (List.range blocks.length)).filterMap fun b => match k.disagree st blocks.length b.2 with
      | [] => none
      | c :: cs => some ⟨Fin.ofNat 36 b.1, Fin.ofNat 1024 c, cs.length + 1⟩
  | _, _, _ => []

/-! ## The end of a run -/

/-- Blocks that can mismatch in a run of the entry, and whether its joins are checked: the cells check their own reductions (R151 to
R153), a join only the exact states of CANONICAL (R293). -/
def State.checksCells (s : State) (e : Entry) : Bool :=
  !e.freq && !(e.part == .join) && (s.stepOf e).any Step.usesCells
def State.checksJoins (s : State) (e : Entry) : Bool :=
  match s.reel? e.reel, s.stepOf e with
  | some r, some st => !e.freq && !(e.part == .share) && (e.dailies || r.content.canonical) && pairExact st.aFmt st.bFmt &&
      Step.usesCells st && e.tiles.any fun t => decide (1 < (s.tileShape e r t).parts st)
  | _, _ => false

/-- What a run showed, as far as the take's checks can show it: the faults that the cells met and what their own residues show. -/
def State.seenBy (s : State) (e : Entry) (seen : TakeSeen) : TakeSeen :=
  { seen with blocks := if s.checksCells e then seen.blocks ++ (s.ownMismatch e).filter fun x => !(seen.blocks.map (·.block)).contains x.block
                else [], joins := if s.checksJoins e then seen.joins else [],
              engines := if e.freq then seen.engines else [] }

/-- All mismatches of a block in a run, in its cells and at its joins, as one: the first cell in row-major order, and how many (R154). -/
def onePerBlock (xs : List BlockSeen) : List BlockSeen :=
  xs.foldl (fun acc x => if acc.any fun y => y.block == x.block then acc.map fun y => if y.block = x.block then
      { y with cell := if x.cell < y.cell then x.cell else y.cell, count := y.count + x.count } else y
    else acc ++ [x]) []

/-- The mismatches of a block are one error in its cell slot, which records the first cell and how many there were (R154). -/
def State.noteCells (s : State) (x : BlockSeen) : State :=
  let note (h : HeldSlot) : HeldSlot := if h.slot == .cell x.block.val && h.cells.isNone then
    { h with cells := some (x.cell.val, min x.count 1023) } else h
  { s with err := { s.err with slots := s.err.slots.map note } }

/-- A row that a read or a scrub found with an error: corrected errors count in scrub passes, an uncorrectable one marks the row at
once (R250, R252). -/
def State.markRow (s : State) (f : RowFinding) (scrub : Bool) : State :=
  let old := (s.units.marks.find? fun m => m.bank == f.bank && m.row == f.row).getD ⟨f.bank, f.row, 0, false, false⟩
  let passes := old.passes + bitN scrub
  let m : RowMark := { old with passes := passes, uncorrectable := old.uncorrectable || f.uncorrectable,
                                marked := old.marked || f.uncorrectable || decide (2 ≤ passes) }
  let rest := s.units.marks.filter fun x => !(x.bank == f.bank && x.row == f.row)
  { s with units := { s.units with marks := rest ++ [m] } }

/-- The blocks of which a run showed mismatches, those of the cells first. -/
def mismatchesOf (seen : TakeSeen) : List BlockSeen :=
  let all := onePerBlock (seen.blocks ++ seen.joins)
  let own (x : BlockSeen) : Bool := seen.blocks.any fun y => y.block == x.block
  all.filter own ++ all.filter fun x => !own x

/-- The cause that stands for a mismatching block of the run. -/
def blockCause (seen : TakeSeen) (b : Nat) : Cause := if (seen.blocks.map (·.block.val)).contains b then .residue else .joinResidue

/-- The cause of a mismatch of the block: what this run showed, or what an earlier run of the take put into its cell slot. -/
def State.cellCause (s : State) (seen : TakeSeen) (b : Nat) : Cause :=
  if (mismatchesOf seen).any fun x => x.block.val == b then blockCause seen b
  else ((s.err.slots.find? fun h => h.slot == .cell b).map (·.cause)).getD .residue

/-- Errors seen in a run (R154, R201, R250, R293), those that meet in one slot in ascending order of their codes (R489): all mismatches
of a block are one error; a unit that mismatched before holds its slot already. -/
def State.runErrors (s : State) (e : Entry) (seen : TakeSeen) (before : List Nat) (act : Nat) : State :=
  let hold := HeldUntil.takeEnd e.takeId
  let log (cause : Cause) (u : Nat) (a : Nat) (s : State) : State := s.detectAs cause u a e.oneStream hold
  let new (u : Nat) : Bool := !before.contains u
  let s1 := (mismatchesOf seen).foldl (fun s x =>
    (if new x.block.val then (log (blockCause seen x.block.val) x.block.val act s).noteCells x else s).updBlock x.block.val fun u =>
      { u with sticky := true }) s
  let s3 := seen.rows.foldl (fun s f => s.markRow f false) s1
  let banks := unique ((seen.rows.filter fun f => f.uncorrectable).map fun f => f.bank)
  let s4 := banks.foldl (fun s b => match b with
    | .bench k _ => log .benchUncorrectable k.val 4 s
    | .stage k _ => log .stageUncorrectable k.val 4 s
    | _ => s) s3
  (unique (seen.engines.map (·.val))).foldl (fun s k => if new (engineUnit k) then log .transformSumcheck k act s else s) s4

/-- The units that mismatched in a run. -/
def badUnits (seen : TakeSeen) : List Nat :=
  unique (seen.engines.map (fun k => engineUnit k.val) ++ (mismatchesOf seen).map (·.block.val))

/-- The blocks whose sticky flag a token carries. -/
def stickyOf (seen : TakeSeen) : List Nat := (mismatchesOf seen).map (·.block.val)

/-- The image that a take of the frequency-domain path of a hot frame reads from the weight stores holds poison. -/
def State.stagePoison (s : State) (e : Entry) (r : LoadedReel) : Bool :=
  s.runsHot e r && r.engineMap.any fun g => (r.hot.getD []).any fun u => (s.stageRuns g (u * Config.poolUnit) Config.poolUnit).any fun x => s.poisonedAt x.2.1 x.2.2

/-- The take read poison: an operand of a tile holds it, a fill of the take ended with an error status, or a read was uncorrectable
(R244, R250, R253). -/
def State.readsPoison (s : State) (e : Entry) (seen : TakeSeen) : Bool :=
  s.arr.tainted.contains e.takeId || (seen.rows.any fun f => f.uncorrectable) ||
  (match s.reel? e.reel, s.stepOf e with
    | some r, some st => (!e.dailies && e.tiles.any fun t => s.operandPoisoned t (sourcesOf (s.tileShape e r t) e st) ||
          (s.cuedRows e st t).any fun w => s.poisonedAt w.1 w.2) || (e.freq && s.stagePoison e r)
    | _, _ => false)

/-- The take has its final status: slots released, the island and its banks free, moves that waited for them run (R18). -/
def State.endTake (s : State) (e : Entry) (end_ : Nat) : State :=
  (({ s with arr := { s.arr with running := none, lastEnd := end_, owned := [],
                                 tainted := s.arr.tainted.filter (fun k => !(k == e.takeId)) } }).releaseSlots
    fun h => h.hold == HeldUntil.takeEnd e.takeId).releaseMoves

/-- FAILED: the log entry of the streams that are held (R279). -/
def State.failTake (s : State) (e : Entry) (start end_ : Nat) (slot : Slot) (cause : Cause) (flags : List Nat) : State :=
  let s1 := if e.tiles.isEmpty || e.dailies then s else s.logMore slot cause 8 e.oneStream
  (s1.takeDone e start end_ 3 flags).endTake e end_

/-- Another run begins when this one ends: interim token with the flags of the run that mismatched. -/
def State.rerun (s : State) (r : Running) (status end_ : Nat) (flags : List Nat) : State :=
  let s1 := { s with arr := { s.arr with running := some r },
                     seq := { s.seq with tokens := s.seq.tokens ++ [(⟨r.entry.takeId, status, r.first, end_, [], [], flags⟩ : Token)] } }
  s1.clearSticky flags

/-- The second run repeated mismatches in blocks: each position gets a spare at once, or the take FAILS (R20, R21). While the take waits
for the refill, moves that waited for its banks run (Table 8.7). -/
def State.secondBlocks (s : State) (r : Running) (seen : TakeSeen) (bad again : List Nat) (end_ : Nat) : State :=
  let got := again.foldl (fun (acc : State × List (Nat × Nat) × Bool) b =>
    let sp := acc.1.spares.head?
    let o := acc.1.substituteNow b (blockCause seen b) r.entry.oneStream (r.entry.ownStreams)
    (o.1, acc.2.1 ++ (if o.2 then sp.toList.map fun x => (b, x) else []), acc.2.2 && o.2)) (s, [], true)
  if got.2.2 then
    (got.1.rerun { r with run := 3, start := end_, secondBad := bad, substituted := got.2.1, waitRefill := true } 2 end_
      (stickyOf seen)).releaseMoves
  else (got.1.takeDone r.entry r.first end_ 3 (stickyOf seen)).endTake r.entry end_

/-- The second run repeated mismatches in engines: standbys take their slots, or every such engine leaves and the take
FAILS (R201). -/
def State.secondEngines (s : State) (r : Running) (bad again : List Nat) (end_ : Nat) : State :=
  let ks := again.map (· - 64)
  let sb := s.standbys
  let out (s : State) (k : Nat) : State := (s.retireEngine k).logMore (.region k) .transformSumcheck 5 r.entry.oneStream
  if sb.length < ks.length then
    (ks.foldl out s).failTake r.entry r.first end_ (.region (ks.headD 0)) .transformSumcheck []
  else
    ((ks.zip sb).foldl (fun s p => out (s.replaceEngine p.1 p.2) p.1) s).rerun
      { r with run := 3, start := end_, secondBad := bad } 2 end_ []

/-- A mismatch in the third run (R21, R201, R279). -/
def State.thirdRun (s : State) (r : Running) (seen : TakeSeen) (bad : List Nat) (end_ : Nat) : State :=
  let e := r.entry
  if e.freq then
    let ks := bad.map (· - 64)
    (ks.foldl (fun s k => (s.retireEngine k).logMore (.region k) .transformSumcheck 5 e.oneStream) s).failTake e r.first end_
      (.region (ks.headD 0)) .transformSumcheck []
  else
    let fresh := r.substituted.map (·.2)
    let twice := bad.filter fun b => !fresh.contains b && (r.firstBad.contains b || r.secondBad.contains b)
    let others := (r.firstBad.filter fun b => r.secondBad.contains b && !bad.contains b && s.mappedBlock b)
    let s1 := (bad.filter fresh.contains).foldl (fun s b =>
      (s.logMore (.cell b) (blockCause seen b) (s.retireAction b) e.oneStream).retireAlone b e.ownStreams) s
    let s2 := (unique (twice ++ others)).foldl (fun s b => s.substituteLater b (.cell b) (s.cellCause seen b) e.oneStream e.ownStreams) s1
    s2.failTake e r.first end_ (.cell (bad.headD 0)) (blockCause seen (bad.headD 0)) (stickyOf seen)

/-- Results of the entry leave the array island for memory: finished tiles, and what the reel or the size of its banks sends to the
pool (R217, R231). -/
def State.leavesIsland (s : State) (r : LoadedReel) (e : Entry) (st : Step) : Bool :=
  let pad := outputPad (reelSteps r.content e.keySeq) e.step
  !e.dailies && (s.finishes e || (!(e.part == .share) && (st.spill || e.tiles.any fun t =>
    let u := s.tileShape e r t
    let d := s.outputData e st t (outputSrc u e st) (s.partOut u e st (s.envOf r e st t) t)
    decide (outputRoom st (s.tileBlocks r t).length < (e.tiles.idxOf t + 1) * (outputBytes none pad d).length))))

/-- The egress ports can issue the writes of a take that ends now: each has an operation tag (R31). -/
def State.egressFree (s : State) (e : Entry) : Bool :=
  match s.reel? e.reel, s.stepOf e with
  | some r, some st => !s.leavesIsland r e st || e.tiles.all fun t => (s.nextTag (.egress (s.egressOf r t)) false).isSome
  | _, _ => true

def execTakeEnd (seen : TakeSeen) (s : State) : Result :=
  .next (let s0 := s.fresh
    match s0.arr.running with
    | none => s0
    | some r =>
      if r.waitRefill || !s0.tokenCredit || !s0.egressFree r.entry then s0
      else
        let e := r.entry
        let end_ := r.start + e.cycles
        let sn := s0.seenBy e seen
        let bad := badUnits sn
        let again := bad.filter r.firstBad.contains
        let poison := s0.readsPoison e sn
        let s1 := ((s0.advanceCycle end_).setCells e).runErrors e sn (r.firstBad ++ r.secondBad) (if r.run = 3 then 8 else 1)
        if bad.isEmpty then (s1.takeDone e r.first end_ (if poison then 6 else 0) []).endTake e end_
        else if r.run = 1 then s1.rerun { r with run := 2, start := end_, firstBad := bad } 1 end_ (stickyOf sn)
        else if r.run = 2 then
          (if again.isEmpty then s1.rerun { r with run := 3, start := end_, secondBad := bad } 1 end_ (stickyOf sn)
           else if e.freq then s1.secondEngines r bad again end_
           else s1.secondBlocks r sn bad again end_)
        else s1.thirdRun r sn bad end_)

/-- The bank that a substitution puts in the place of another. -/
def movedBank (subs : List (Nat × Nat)) : BankId → BankId
  | .bench b k => .bench (((subs.find? fun p => p.1 == b.val).map fun p => Fin.ofNat 36 p.2).getD b) k
  | b => b

/-- A range in the bench of a block taken out, in the bench of its spare. -/
def movedRange (subs : List (Nat × Nat)) (r : Nat × Nat) : Nat × Nat :=
  match subs.find? fun p => inRanges [(benchAddr p.1, Config.benchSize)] r.1 r.2 with
  | some p => (benchAddr p.2 + (r.1 - benchAddr p.1), r.2)
  | none => r

/-- A tensor in the benches after a refill: it stands in those of the spares. -/
def HeldTensor.refilled (subs : List (Nat × Nat)) (h : HeldTensor) : HeldTensor :=
  { h with blocks := subs.foldl (fun bs p => replaceIn p.1 p.2 bs) h.blocks, at_ := h.at_.map (movedRange subs) }

/-- Bring a tensor into the benches of the spares: an operand from its source, without what the bench of the block taken out may have
done to it; a result of an earlier step, which stands nowhere else, from that bench, with its poison (R20, R253; DEDUCED, log 138). -/
def State.refillTensor (s : State) (subs : List (Nat × Nat)) (h : HeldTensor) : State :=
  match h.src with
  | .slot _ =>
    let bs := h.bytes
    (h.at_.foldl (fun (acc : State × Nat) r =>
      let to_ := movedRange subs r
      let n := if h.blocks.length = h.at_.length then 0 else acc.2
      (if to_ = r then acc.1 else acc.1.writeBytes to_.1 (slice bs n r.2), acc.2 + r.2)) (s, 0)).1
  | _ => h.at_.foldl (fun s r => if movedRange subs r = r then s else s.copyBytes r.1 (movedRange subs r).1 r.2) s

/-- The spares' benches are refilled: what stood in the benches of the blocks taken out stands in those of the spares, and the third
run begins (R20). -/
def execSpareRefillDone (s : State) : Result :=
  .next (let s0 := s.fresh
    match s0.arr.running with
    | some r => if r.waitRefill then
        let subs := r.substituted
        let held := r.operands ++ s0.bench.filter fun h => !r.operands.contains h
        let s1 := held.foldl (fun s h => s.refillTensor subs h) s0
        { s1 with
          arr := { s1.arr with
            running := some { r with waitRefill := false, start := max r.start s0.cycle,
                                     operands := r.operands.map (HeldTensor.refilled subs) },
            owned := s1.arr.owned.map (movedBank subs) },
          bench := s1.bench.map (HeldTensor.refilled subs) }
      else s0
    | none => s0)

/-! ## Tokens -/

/-- A member's token for cued work of this owner (R394), whose conversion counts go to the tiles' streams (R150); the take is settled
once all members have answered. -/
def State.memberToken (s : State) (t : RemoteToken) : State :=
  match s.seq.remote.find? fun r => r.takeId == t.takeId && decide (0 < r.left) with
  | none => s
  | some r =>
    let r1 := { r with left := r.left - 1, bad := r.bad || decide (t.status ≠ 0) }
    let back := if r1.left = 0 then r1.token.toList else []
    let r2 := if r1.left = 0 then { r1 with token := none } else r1
    let tiles := ((s.seq.known.find? fun e => e.takeId == t.takeId).map (·.tiles)).getD []
    let s1 := (tiles.zip t.counts).foldl State.addCounts s
    { s1 with seq := { s1.seq with remote := s1.seq.remote.map (fun q => if q.takeId = t.takeId then r2 else q),
                                   received := s1.seq.received ++ back } }

def execTakeDoneToken (remote : Option RemoteToken) (s : State) : Result :=
  .next (let s0 := s.fresh
    match remote with
    | some t => s0.memberToken t
    | none =>
      match s0.seq.tokens with
      | [] => s0
      | t :: ts => { s0 with seq := { s0.seq with tokens := ts, received := s0.seq.received ++ [t] } })

/-! ## Exchanges (R294, R397) -/

/-- Where the partial states of member `i` for a tile of an exchange come to, and their extents: rows, columns and states of each
(R396). -/
def statesRange (x : Exchange) (u : LoadShape) (st : Step) (q : Reduction) (t : TileRef) (i : Nat) :
    Nat × Nat × Nat × Nat :=
  let c := (u.partsOf st i).2 * q.c
  (Config.exchangeState x.step (x.tiles.idxOf t) i, roundUp (q.h * q.w * c * stateWidth u.canonical st) 32, q.h * q.w * c, c)

/-- What the other chips of the set give for a tile of an exchange. -/
structure Incoming where
  /-- The step, its reduction's extents and the members that made partial states, for a split step. -/
  states : List (Nat × HeldTensor)
  /-- The expert step, and its experts whose home is elsewhere, each with its home. -/
  rows : Option (Nat × Step × List (Nat × Nat))

/-- What is to arrive for a tile: the partial states of a split step as they stand in memory, or the rows of the experts whose home is
elsewhere. -/
def State.incoming (s : State) (x : Exchange) (r : LoadedReel) (t : TileRef) : Incoming :=
  match s.frame? t.stream t.frame with
  | none => ⟨[], none⟩
  | some f =>
    let steps := reelSteps r.content f.keySeq
    let u := s.frameShape r f
    if x.split then
      match (steps[x.step]?).bind fun st => (reductionOf (s.frameEnv r f st t x.step) st (st.inputs.map (tensorIn s.bench t))).map fun q => (st, q) with
      | none => ⟨[], none⟩
      | some (st, q) =>
        let w := stateWidth u.canonical st
        ⟨((List.range u.chips).filter fun i => i ≠ u.index && decide (0 < (u.partsOf st i).2)).map fun i =>
          let k := statesRange x u st q t i
          let d : Tensor := ⟨q.h, q.w, k.2.2.2, .fp32, (List.range k.2.2.1).map fun n => s.readNat (k.1 + w * n) w, []⟩
          (i, ⟨t, .parts x.step i, d, f.positions, none, false, [(k.1, k.2.1)], 1, some w⟩), none⟩
    else
      match (expertAfter steps x.step).bind fun k => (steps[k]?).map fun st => (k, st) with
      | none => ⟨[], none⟩
      | some (k, st) =>
        let n := expertsOf st
        ⟨[], some (k, st, ((List.range n).filter fun e => expertHome e n u.chips ≠ u.index).map fun e => (e, expertHome e n u.chips))⟩

/-- The words of the benches that hold a tensor are poisoned (R253). -/
def State.poisonTensor (s : State) (t : TileRef) (x : Src) : State :=
  (s.bench.filter fun h => h.tile == t && h.src == x).foldl (fun s h => h.at_.foldl (fun s r => s.poisonRange r.1 r.2) s) s

/-- The ranges of memory that what arrives is written to. -/
def Incoming.ranges (k : Incoming) (tile : Nat) : List (Nat × Nat) :=
  k.states.flatMap (fun h => h.2.at_) ++ (match k.rows with
    | some (_, st, es) => es.map fun e => returnRange st e.2 tile e.1
    | none => [])

/-- The states or rows that the other chips wrote for a tile are in place: the partial states of a split step, for its join (R396), or
the rows of the experts whose home is elsewhere beside this chip's own (R397). A layer's fingerprint is posted when its last rows are
in. -/
def State.arriveFor (s : State) (x : Exchange) (r : LoadedReel) (t : TileRef) : State :=
  match s.frame? t.stream t.frame with
  | none => s
  | some f =>
    let k := s.incoming x r t
    let tile := x.tiles.idxOf t
    let s1 := k.states.foldl (fun s h => s.putBench h.2) s
    let s2 := match k.rows with
      | none => s1
      | some (j, st, es) =>
        let steps := reelSteps r.content f.keySeq
        let route := tensorIn s1.bench t (st.inputs.getD 1 (.step j))
        let own := tensorIn s1.bench t (.step j)
        let came (e : Nat × Nat) : Nat × Nat := returnRange st e.2 tile e.1
        let d := es.foldl (fun d (e : Nat × Nat) => mergeRows st [e.1] d (returnedTensor st e.1 (s1.readBytes (came e).1 (came e).2))) own
        let gaps := (List.range (expertsOf st)).flatMap fun y => ((List.range (slotsOf st)).filter fun i => (slotToken route y i).isNone).map fun i => (y, i)
        let pad := outputPad steps j
        let s2 := s1.putOutput st tile t (.step j) d none pad f.positions
        let s3 := if es.any fun e => s1.poisonedAt (came e).1 (came e).2 then s2.poisonTensor t (.step j) else s2
        if f.wantFinger then s3.postFinger t j (fingerprint ⟨d, (0, 0, 0), gaps⟩ pad) else s3
    s2.unland (k.ranges tile)

/-- All that an exchange brings has been written to this chip's memory. -/
def State.arrived (s : State) (x : Exchange) : Bool :=
  match (x.tiles.head?).bind fun t => s.reel? (s.stream t.stream).p.reel with
  | none => true
  | some r => x.tiles.all fun t => ((s.incoming x r t).ranges (x.tiles.idxOf t)).all fun w => s.set.hasLanded w.1 w.2

/-- The states or rows of an exchange arrive for all its tiles. -/
def State.arrive (s : State) (x : Exchange) : State :=
  match (x.tiles.head?).bind fun t => s.reel? (s.stream t.stream).p.reel with
  | none => s
  | some r => x.tiles.foldl (fun s t => s.arriveFor x r t) s

/-- Members of the set still owe tokens for the take. -/
def Sequencer.owed (q : Sequencer) (takeId : Nat) : Bool := q.remote.any fun r => r.takeId == takeId && decide (0 < r.left)

/-- The next phase of an exchange, once the owner's take has ended and every write of the phase before has been acknowledged: 1 to n − 1
out, the same back, then it is over (R397). What comes back waits for the members' takes and for their writes; partial states cross in
one exchange. -/
def execExchangePhase (takeId : Nat) (s : State) : Result :=
  .next (let s0 := s.fresh
    let n := s0.set.members.length
    match s0.set.exchanges.find? fun x => x.takeId == takeId with
    | none => s0
    | some x =>
      let put (y : Option Exchange) (s : State) : State := { s with set := { s.set with
        exchanges := s.set.exchanges.filterMap fun z => if z.takeId = takeId then y else some z } }
      if !s0.arr.finals.contains (takeId, 0) || ((x.split || x.back) && s0.seq.owed takeId) ||
          s0.set.unacknowledged takeId || (x.split && !s0.arrived x) then s0
      else if x.split then (put none s0).arrive x
      else if x.phase + 1 < n then
        let s1 := put (some { x with phase := x.phase + 1 }) s0
        if x.back then s1 else s1.sendPhase x (x.phase + 1)
      else if !x.back then put (some { x with phase := 1, back := true }) s0
      else if !s0.arrived x then s0
      else (put none s0).arrive x)

/-! ## The checker's notice (R413) -/

/-- Firmware reads a downgrade notice: the stream goes to PASSTHROUGH (R68, R281). -/
def execDowngradeNotice (s : State) : Result :=
  .next (let s0 := s.fresh
    match s0.chk.notices with
    | [] => s0
    | (st, _) :: ns =>
      if !s0.firmwareUp then s0
      else
        let s1 := { s0 with chk := { s0.chk with notices := ns } }
        if (s1.stream st).state == .free then s1 else s1.updStream st fun x => { x with downgraded := true })

/-! ## Scrubbing and repair (R250 to R252) -/

/-- Device address of a row of a bench or stage bank, banks and rows in ascending order (log 36). -/
def rowAddress (bank : BankId) (row : Nat) : Nat :=
  match bank with
  | .bench b k => Config.benchBase + b.val * Config.benchSize + k.val * 0x2_0000 + row % 128 * 1024
  | .stage r k => Config.stageBase + r.val * Config.stageSize + k.val * 0x4_0000 + row % 256 * 1024
  | .motion k => Config.motionBase + k.val * 0x1_0000 + row * 1024
  | .lineBuffer g k => Config.lineBase + g.val * Config.lineSize + k.val * 0x8000 + row * 1024
  | .control k => Config.controlBase + k.val * 0x1_0000 + row * 1024

/-- Spare rows of a bank (Table 7.1). -/
def spareRowsOf : BankId → Nat
  | .bench _ _ => 2
  | .stage _ _ => 4
  | .motion _ => Config.spareRows 0
  | .lineBuffer _ _ => Config.spareRows 1
  | .control _ => Config.spareRows 2

/-- The bank belongs to the array island and is scrubbed in the repair window. -/
def onArrays : BankId → Bool
  | .bench _ _ | .stage _ _ => true
  | _ => false

/-- The bank and row of an SRAM address, the inverse of `rowAddress`. -/
def bankAt (a : Nat) : Option (BankId × Nat) :=
  if Config.benchBase ≤ a ∧ a < Config.benchBase + 36 * Config.benchSize then
    let o := a - Config.benchBase
    some (.bench (Fin.ofNat 36 (o / Config.benchSize)) (Fin.ofNat 16 (o % Config.benchSize / 0x2_0000)), o % 0x2_0000 / 1024)
  else if Config.stageBase ≤ a ∧ a < Config.stageBase + 9 * Config.stageSize then
    let o := a - Config.stageBase
    some (.stage (Fin.ofNat 9 (o / Config.stageSize)) (Fin.ofNat 24 (o % Config.stageSize / 0x4_0000)), o % 0x4_0000 / 1024)
  else if Config.motionBase ≤ a ∧ a < Config.motionEnd then
    some (.motion (Fin.ofNat 8 ((a - Config.motionBase) / 0x1_0000)), (a - Config.motionBase) % 0x1_0000 / 1024)
  else if Config.lineBase ≤ a ∧ a < Config.controlBase then
    let o := a - Config.lineBase
    some (.lineBuffer (Fin.ofNat 4 (o / Config.lineSize)) (Fin.ofNat 4 (o % Config.lineSize / 0x8000)), o % 0x8000 / 1024)
  else if Config.controlBase ≤ a ∧ a < Config.controlEnd then
    some (.control (Fin.ofNat 8 ((a - Config.controlBase) / 0x1_0000)), (a - Config.controlBase) % 0x1_0000 / 1024)
  else none

/-- The first line in the buffer of a gate is lost (Table 15.7). -/
def Gate.loseLine (x : Gate) : Gate := { x with buffer := x.buffer.drop 1 }

/-- A line buffer's uncorrectable error: the first line of the buffer counts as incomplete, and the slot is held until the end of the
frame. An escalation gets its level's response instead. -/
def State.lineLost (s : State) (g : Nat) (stream : Option Nat) : State :=
  let t := s.detect .lineBufferUncorrectable g stream (.gateFrame g (s.gate g).frame)
  if s.ownSlotFree .lineBufferUncorrectable g then t.updGate g Gate.loseLine else t

/-- BENCH_ROWS_EXHAUSTED: the block leaves at the next frame start, or at once without a spare (R252, R494). -/
def State.benchExhausted (s : State) (b : Nat) (stream : Option Nat) : State :=
  let acts := s.outActions b
  let s1 := s.detectAs .benchRowsExhausted b (acts.headD 2) stream .frameStart
  ((acts.drop 1).foldl (fun s a => s.logMore (.block b) .benchRowsExhausted a stream) s1).takeOut b []

/-- STAGE_ROWS_EXHAUSTED: the bank is withdrawn at the next frame start (R252). -/
def State.stageExhausted (s : State) (r k : Nat) (stream : Option Nat) : State :=
  let s1 := s.detect .stageRowsExhausted r stream .frameStart
  if s.units.stagePending.contains (r, k) || s.units.stageOut.contains (r, k) then s1
  else { s1 with units := { s1.units with stagePending := s1.units.stagePending ++ [(r, k)] } }

/-- An error that a scrub found in a row: its mark and, where it is uncorrectable, its error (R250, R252). -/
def State.findRow (s : State) (f : RowFinding) : State :=
  let s1 := s.markRow f true
  if !f.uncorrectable then s1
  else match f.bank with
    | .bench b _ => s1.detectBrief .benchUncorrectable b.val none
    | .stage r _ => s1.detectBrief .stageUncorrectable r.val none
    | .motion _ => s1.detectBrief .sramUncorrectable 9 none
    | .lineBuffer g _ => s1.lineLost g.val none
    | .control _ => s1.detectBrief .sramUncorrectable 18 none

/-- The findings of one pass, each row once. -/
def onePass (found : List RowFinding) : List RowFinding :=
  found.foldl (fun acc f => match acc.find? fun g => g.bank == f.bank && g.row == f.row with
    | some g => (acc.filter fun h => !(h == g)) ++ [{ g with uncorrectable := g.uncorrectable || f.uncorrectable }]
    | none => acc ++ [f]) []

/-- A healthy bench or stage bank whose next row in turn is the row found (R251). -/
def State.scrubs (s : State) (f : RowFinding) : Bool :=
  match f.bank with
  | .bench b _ => !(s.block b.val).retired && f.row == s.units.scrubNext % 128
  | .stage r k => !s.units.stageOut.contains (r.val, k.val) && f.row == s.units.scrubNext % 256
  | _ => false

/-- The lowest spare row of a bank that is not used (DESIGN CHOICE, log 151). -/
def State.freeRow (s : State) (bank : BankId) : Option Nat :=
  let used := (s.units.repairs.filter fun r => r.bank == bank).map (·.spare)
  (List.range (spareRowsOf bank)).find? fun k => !used.contains k

/-- A bank without spare rows left: its block is taken out, or the stage bank withdrawn, at the next frame start. -/
def State.rowsExhausted (s : State) (bank : BankId) : State :=
  match bank with
  | .bench b _ =>
    if !s.ownSlotFree .benchRowsExhausted b.val || (s.block b.val).retired then s
    else s.benchExhausted b.val none
  | .stage r k =>
    if !s.ownSlotFree .stageRowsExhausted r.val || s.units.stagePending.contains (r.val, k.val) ||
        s.units.stageOut.contains (r.val, k.val) then s
    else s.stageExhausted r.val k.val none
  | _ => s

/-- Repair one marked row of a bank. -/
def State.repairBank (s : State) (bank : BankId) : State :=
  match s.units.marks.find? fun m => m.bank == bank && m.marked with
  | none => s
  | some m =>
    match s.freeRow bank with
    | none => s.rowsExhausted bank
    | some k =>
      let s1 := { s with units := { s.units with
        repairs := s.units.repairs ++ [(⟨bank, k, m.row⟩ : Repair)],
        marks := s.units.marks.filter (fun x => !(x.bank == bank && x.row == m.row)) } }
      let s2 := if onArrays bank then s1.writeService else s1
      if m.uncorrectable then s2.poisonRange (rowAddress bank m.row) 1024 else s2

/-- The repair window of a dailies beat, before its first take: the next row in turn of every bank scrubbed, at most one marked row of
each repaired. -/
def execRepairWindow (found : List RowFinding) (s : State) : Result :=
  .next (let s0 := s.fresh
    let n := s0.beat / 512 * 512
    if !s0.clock.running || s0.arr.running.isSome || s0.arr.repaired == some n then s0
    else
      let end_ := s0.startCycle + 64
      let s1 := ((onePass found).filter s0.scrubs).foldl State.findRow (s0.advanceCycle end_)
      let banks := unique ((s1.units.marks.filter fun m => m.marked && onArrays m.bank).map (·.bank))
      let s2 := banks.foldl State.repairBank s1
      { s2 with arr := { s2.arr with repaired := some n, lastEnd := end_ },
                units := { s2.units with scrubNext := (s2.units.scrubNext + 1) % 256 } })

/-- A bank of MOTION scratch, of a line buffer or of CONTROL memory scrubs, and repairs a marked row, in idle time. -/
def execIdleTimeRepair (bank : BankPass) (s : State) : Result :=
  .next (let s0 := s.fresh
    if onArrays bank.bank || s0.chipInReset then s0
    else (((onePass bank.found).filter fun f => f.bank == bank.bank).foldl State.findRow s0).repairBank bank.bank)

end Sys2Proof.Machine
end

