-- ==== Sys2Proof/Machine/Pins.lean ====
section
/-!
DEFINITION. The filtered inputs of Table 16.6: the glitch filter (R514), the edge-rate limit (R515) and deferred edges
(R525). The times of edges are in eighths of a tick.
-/
namespace Sys2Proof.Machine

/-- Minimum interval between accepted edges in eighths of a tick (Table 16.6). -/
def minInterval : InputPin → Nat
  | .clapIn => 800
  | .safeAck => 20_000
  | .hpd _ => 200_000
  | .genlock | .resetN | .perstN => 2_000

/-- What a new level on an input came to. -/
inductive EdgeSeen where
  /-- No change of the filtered level. -/
  | none
  /-- A rate fault: ignored. -/
  | fault
  /-- An accepted edge, at its time in eighths of a tick. -/
  | accepted (time : Nat)
  deriving DecidableEq, Repr

def State.input (s : State) (p : InputPin) : Input :=
  match s.inputs.find? fun i => i.pin == p with
  | some i => i
  | none => ⟨p, false, false, none⟩

def State.setInput (s : State) (x : Input) : State :=
  { s with inputs := s.inputs.map fun i => if i.pin = x.pin then x else i }

/-- One more rate fault of an input, saturating at 255, with its alert (R515, Tables 16.9 and 16.11). -/
def Board.rateFault (b : Board) (p : InputPin) : Board :=
  let up (v : Nat) := satAdd v 1 255
  let b1 := match p with
    | .genlock => { b with rateGen := up b.rateGen }
    | .clapIn => { b with rateClap := up b.rateClap }
    | .safeAck => { b with rateAck := up b.rateAck }
    | .hpd _ => { b with rateHpd := up b.rateHpd }
    | .resetN | .perstN => b
  { b1 with alert := b1.alert ||| 4 }

/-- The time of an edge in eighths of a tick, by the clapper and since the clapper began to count. -/
def State.edgeTime (s : State) (e : Edge) : Nat := 8 * s.clock.clap + e.eighth.val
def State.edgeRaw (s : State) (e : Edge) : Nat := s.rawTime (s.edgeTime e)

/-- A level that stands on an input: the glitch filter passes it after 17 equal samples (R514); the edge that results is
accepted or is a rate fault, by the time that has passed whatever corrections the clapper has had (R515). -/
def State.edge (s : State) (p : InputPin) (e : Edge) : State × EdgeSeen :=
  let x := s.input p
  let t := s.edgeRaw e
  if e.samples < 17 ∨ x.filtered = e.level then (s, .none)
  else
    let early : Bool := match x.lastEdge with
      | some l => decide (t < l + minInterval p)
      | Option.none => false
    if early then
      ({ s.setInput { x with filtered := e.level } with board := s.board.rateFault p }, .fault)
    else (s.setInput { x with filtered := e.level, level := e.level, lastEdge := some t }, .accepted (s.edgeTime e))

/-- The minimum interval of an input expires with its filtered level still changed: the change is accepted then (R525). -/
def State.deferredEdge (s : State) (p : InputPin) : State × EdgeSeen :=
  let x := s.input p
  match x.lastEdge with
  | Option.none => (s, .none)
  | some l =>
    if x.filtered = x.level then (s, .none)
    else
      let t := l + minInterval p
      let s1 := s.advanceTo (ceilDiv (s.clapTime t) 8)
      (s1.setInput { x with level := x.filtered, lastEdge := some t }, .accepted (s.clapTime t))

end Sys2Proof.Machine
end

