-- ==== Sys2Proof/Machine/Checks.lean ====
section
/-!
DEFINITION. The continuity checker (chapter 13): records and verdicts (R399 to R411), region faults (R416), store and
readback records (R418 to R420), dailies records (R429 to R432), its phases and faults (R401 to R403, R434), SAFE_STATE and
SAFE_ACK (R421 to R423), and the SPI target (R424 to R426).
-/
namespace Sys2Proof.Machine

/-! ## Crossings -/

/-- The last 4 bytes of a record are the CRC-32C of those before. -/
def recordIntact (bs : List Byte) : Bool := leNat bs (bs.length - 4) 4 == crc32c (bs.take (bs.length - 4))

/-- The checker's cores run its program. -/
def State.checkerRuns (s : State) : Bool := s.chk.phase == .run

/-- The head of the array → continuity crossing, where it is of the wanted type. -/
def State.arrayRecord (s : State) (dailies : Bool) : Option (List Byte) :=
  match s.chk.fromArray with
  | (bs, d) :: _ => if d = dailies then some bs else none
  | [] => none

def State.dropArray (s : State) : State := { s with chk := { s.chk with fromArray := s.chk.fromArray.drop 1 } }

/-- The head of the fabric → continuity crossing, where it is of the wanted kind. -/
def State.fabricRecord (s : State) (kind : Nat) : Option (List Byte) :=
  match s.chk.fromFabric with
  | (bs, k, _) :: _ => if k = kind then some bs else none
  | [] => none

/-- The checker frees the slot of the head: its credit returns, and a packet that waits for one may take it (R26). -/
def State.dropFabric (s : State) : State :=
  { s with chk := { s.chk with fromFabric := s.chk.fromFabric.drop 1 } }.fillFabric

/-! ## Judging a tile (R405 to R411) -/

/-- Fields of a continuity record (Table 6.4). -/
def statsOf (bs : List Byte) : Stats :=
  ⟨leNat bs 0x0A 2, leNat bs 0x0C 2, leNat bs 0x0E 2, leNat bs 0x10 4, leNat bs 0x14 8,
    (List.range 16).map fun b => leNat bs (0x1C + 2 * b) 2⟩

/-- lo × n ≤ v ≤ hi × n. -/
def inBounds (lo hi v : Int) (n : Nat) : Bool := decide (lo * Int.ofNat n ≤ v) && decide (v ≤ hi * Int.ofNat n)

def diff (a b : Nat) : Int := Int.ofNat a - Int.ofNat b

/-- Tests of R408 against the fallback record, in the order of Table 13.3; 0 when all pass. -/
def compareStats (t : List Byte) (row : Nat) (g f : Stats) : Nat :=
  let n := g.count
  let far := ((g.hist.zip f.hist).map fun p => absDiff p.1 p.2).sum
  if !inBounds (tolField t row 0 2) (tolField t row 2 2) (16 * diff g.lumaSum f.lumaSum) n then 3
  else if !inBounds (tolField t row 4 4) (tolField t row 8 4) (diff g.energy f.energy) n then 4
  else if !inBounds (tolField t row 0xC 2) (tolField t row 0xE 2) (1024 * diff g.edges f.edges) n then 5
  else if leNat t (16 + 24 * row + 0x10) 2 * n < 1024 * far then 6
  else 0

/-- reject_reason of a generated record (Table 13.3); `fb` is the intact fallback record held for the tile. -/
def rejectReason (d : Decisions) (row : Nat) (rec_ : List Byte) (fb : Option (List Byte)) : Nat :=
  let g := statsOf rec_
  if d.downgraded then 8
  else if !recordIntact rec_ || leNat rec_ 2 1 ≠ 0 || (fb.any fun b => (statsOf b).count ≠ g.count) then 1
  else
    match d.tolerance, fb with
    | some t, fb =>
      if leNat t (16 + 24 * row + 0x12) 2 < g.nonfinite then 2
      else match fb with
        | some b => compareStats t row g (statsOf b)
        | none => 7
    | none, some _ => 0
    | none, none => 7

/-- Two records name the same stream, frame and tile. -/
def sameTile (a b : List Byte) : Bool := leNat a 0 2 == leNat b 0 2 && leNat a 4 4 == leNat b 4 4 && leNat a 8 2 == leNat b 8 2

/-- Write the verdict: bytes 2 and 3 now; source = 1 follows (R410). -/
def State.writeVerdict (s : State) (st : Nat) (f : Frame) (tile reason : Nat) : State :=
  let idx := f.index % 2 ^ 32
  let ok := reason = 0
  let s1 := (s.setMapByte st f.half tile 2 (1 + 2 * bitN (reason == 0))).setMapByte st f.half tile 3 reason
  let s2 := s1.updDecisions st fun d =>
    { d with rejects := if ok then d.rejects else d.rejects ++ [(idx, tile, reason)],
             judgedFrames := if d.judgedFrames.contains idx then d.judgedFrames else d.judgedFrames ++ [idx] }
  if ok then
    { s2 with chk := { s2.chk with pendingSource := s2.chk.pendingSource ++ [(⟨st, f.index, tile, s.beat⟩ : PendingSource)] } }
  else
    if !reasonCounts reason then s2
    else
      let s3 := s2.updStream st fun x => { x with count := { x.count with tilesRejected := satAdd x.count.tilesRejected 1 top32 } }
      { s3 with chk := { s3.chk with rejects := satAdd s3.chk.rejects 1 top32 } }

/-- The frame that a record names, where it is still in progress. -/
def State.recordFrame (s : State) (rec_ : List Byte) : Option Frame :=
  let st := leNat rec_ 0 2
  if 1024 ≤ st then none else (s.stream st).frames.find? fun f => f.index % 2 ^ 32 == leNat rec_ 4 4

/-- A discarded record is logged (R411) in the checker's event log. Table 13.4 has no code for it, so code and detail are a free value
(log 98). -/
def State.logDiscarded (s : State) (stream frame : Nat) : State :=
  let v := Config.freeValue s.free
  let e : CheckerLog := ⟨s.stampIn (some checkerIsland) / 500, stream, v % 256, v / 256 % 256, frame⟩
  { s with chk := { s.chk with log := (e :: s.chk.log).take 1024 } }.spend

/-- The map entry of a tile (R65). -/
def State.mapEntry (s : State) (st : Nat) (f : Frame) (tile : Nat) : List (Nat × Nat) := [((s.stream st).entryByte f.half tile 0, 8)]

/-- Judge a generated record; a tile that has a verdict keeps it (R411). -/
def State.judge (s : State) (rec_ : List Byte) : State :=
  let st := leNat rec_ 0 2
  let tile := leNat rec_ 8 2
  match s.decisions? st, s.recordFrame rec_ with
  | some d, some f =>
    if !f.kind.reelRun || decide (f.tiles.length ≤ tile) then s
    else if s.mapByte st f.half tile 2 % 2 = 1 then s.logDiscarded st (f.index % 2 ^ 32)
    else
      let fb := s.chk.records.find? (sameTile rec_)
      let reason := rejectReason d (bitN (f.kind == .computed)) rec_ fb
      let s1 := { s with chk := { s.chk with records := s.chk.records.filter fun r => !sameTile rec_ r } }
      s1.screen .continuity (s.mapEntry st f tile) (s.mapEntry st f tile) fun s => s.writeVerdict st f tile reason
  | _, _ => s

def execGeneratedRecord (s : State) : Result :=
  .next (let s0 := s.fresh
    match s0.arrayRecord false with
    | none => s0
    | some rec_ => if s0.checkerRuns then s0.dropArray.judge rec_ else s0.dropArray)

/-- source = 1, no earlier than tick 64 of the beat in which the record arrived, unless late = 1 (R410). -/
def execAcceptedSourceWrite (s : State) : Result :=
  .next (let s0 := s.fresh
    match s0.chk.pendingSource with
    | [] => s0
    | p :: ps =>
      if !s0.checkerRuns then s0
      else
        let s1 := ({ s0 with chk := { s0.chk with pendingSource := ps } }).advanceTo (500 * p.beat + 64)
        match s1.frame? p.stream p.frame with
        | none => s1
        | some f => s1.screen .continuity (s1.mapEntry p.stream f p.tile) (s1.mapEntry p.stream f p.tile) fun s1 =>
            if s1.mapByte p.stream f.half p.tile 4 % 2 = 1 then s1 else s1.setMapByte p.stream f.half p.tile 0 1)

/-- The frame of a record is over, or its tile latched: no record is held for it any more (R407). -/
def State.recordLate (s : State) (rec_ : List Byte) : Bool :=
  match s.recordFrame rec_ with
  | some f => f.closed || s.mapByte (leNat rec_ 0 2) f.half (leNat rec_ 8 2) 6 % 2 == 1
  | none => true

/-- Keep an intact fallback record while there is a slot of its class (R407). -/
def State.storeFallback (s : State) (rec_ : List Byte) : State :=
  let batch (r : List Byte) : Bool := (s.stream (leNat r 0 2)).p.batch
  let others := s.chk.records.filter fun r => !sameTile rec_ r
  let mine := (others.filter fun r => batch r == batch rec_).length
  if s.recordLate rec_ || decide ((if batch rec_ then Config.recordSlotsBatch else Config.recordSlotsDeadline) ≤ mine) then s
  else { s with chk := { s.chk with records := others ++ [rec_] } }

def execFallbackRecord (s : State) : Result :=
  .next (let s0 := s.fresh
    match s0.fabricRecord 0 with
    | none => s0
    | some rec_ =>
      let s1 := s0.dropFabric
      if !s1.checkerRuns then s1
      else if !recordIntact rec_ then s1.detectBrief .fallbackRecordCrc 9 none
      else if (s1.decisions? (leNat rec_ 0 2)).isNone then s1
      else s1.storeFallback rec_)

/-! ## Regions (R416) -/

/-- A frame's outcome in a history of frames, newest first: a fault stands once it is seen. -/
def noteFrame (frame : Nat) (bad : Bool) : List (Nat × Bool) → List (Nat × Bool)
  | [] => [(frame, bad)]
  | (f, b) :: rest => if f = frame then (f, b || bad) :: rest else (frame, bad) :: (f, b) :: rest

def State.regionSeen (s : State) (d : Decisions) (rec_ : List Byte) : State :=
  let st := d.stream
  let frame := leNat rec_ 4 4
  let bad := !recordIntact rec_ || leNat rec_ 3 1 ≠ 0 || leNat rec_ 0xC 4 ≠ leNat rec_ 0x10 4
  let was := d.regionFrames.any fun f => f.1 == frame && f.2
  let hist := (noteFrame frame bad d.regionFrames).take 64
  let s1 := s.updDecisions st fun x => { x with regionFrames := hist, regions := hist.map (·.2) }
  if !bad || was then s1
  else
    let s2 := ({ s1 with chk := { s1.chk with regionFaults := satAdd s1.chk.regionFaults 1 (2 ^ 32 - 1) } }).checkerEvent
      (some st) 0x03 (leNat rec_ 2 1) frame
    if d.tolerance.isSome && (historyTrips (hist.map (·.2))).isSome then s2.assertSafe 1 else s2

def execRegionRecord (s : State) : Result :=
  .next (let s0 := s.fresh
    match s0.fabricRecord 1 with
    | none => s0
    | some rec_ =>
      match s0.decisions? (leNat rec_ 0 2) with
      | some d => if s0.checkerRuns then s0.dropFabric.regionSeen d rec_ else s0.dropFabric
      | none => s0.dropFabric)

/-! ## Store and readback records (R418 to R420) -/

/-- Keep a store CRC; the checker has room for two frame parities. -/
def State.keepStore (s : State) (rec_ : List Byte) : State :=
  let c : StoreCrc := ⟨leNat rec_ 0 2, leNat rec_ 4 4, leNat rec_ 8 2, leNat rec_ 2 1, leNat rec_ 0xC 4⟩
  let rest := s.chk.stores.filter fun o =>
    !(o.stream == c.stream && o.tile == c.tile && o.kind == c.kind && o.frame % 2 == c.frame % 2)
  { s with chk := { s.chk with stores := rest ++ [c] } }

def execStoreRecord (s : State) : Result :=
  .next (let s0 := s.fresh
    match s0.fabricRecord 2 with
    | none => s0
    | some rec_ =>
      if s0.checkerRuns && recordIntact rec_ && (s0.decisions? (leNat rec_ 0 2)).any (fun d => d.safety) then
        s0.dropFabric.keepStore rec_
      else s0.dropFabric)

/-- The lower of two failed checks; 0 stands for none. -/
def worse (a b : Nat) : Nat := if a = 0 then b else if b = 0 then a else min a b

/-- Close the frame being read back: READBACK_FAULT with the lowest failed check, and the history of R420. -/
def State.closeReadback (s : State) (st frame : Nat) : State :=
  match s.decisions? st with
  | none => s
  | some d =>
    let bad := d.rbWorst ≠ 0
    let hist := (decide bad :: d.readback).take 64
    let s1 := s.updDecisions st fun x => { x with readback := hist, rbTiles := [], rbCount := 0, rbWorst := 0 }
    if !bad then s1
    else
      let s2 := ({ s1 with chk := { s1.chk with readbackFaults := satAdd s1.chk.readbackFaults 1 (2 ^ 32 - 1) } }).checkerEvent
        (some st) 0x04 d.rbWorst frame
      if d.safety && (historyTrips hist).isSome then s2.assertSafe 2 else s2

/-- Check 5: tile_crc against the store CRC that the flags name. The flag says whether the record is compared. -/
def State.readbackMatch (s : State) (d : Decisions) (rec_ : List Byte) : Bool × Bool :=
  let fl := leNat rec_ 3 1
  let shown := fl % 8
  let tile := leNat rec_ 8 2
  let crc := leNat rec_ 0x14 4
  let kind := if bitOf fl 4 then 2 else if shown = 0 then 1 else if shown = 1 then 0 else 3
  if !d.safety || bitOf fl 3 || shown = 4 then (false, true)
  else if shown = 2 && !bitOf fl 4 then
    match d.matched.find? fun m => m.1 == tile with
    | some m => (true, m.2 == crc)
    | none => (false, true)
  else (true, s.chk.stores.any fun c => c.stream == d.stream && c.frame == leNat rec_ 4 4 && c.tile == tile && c.kind == kind &&
    c.crc == crc)

/-- A readback record of one tile. -/
def State.readbackTile (s : State) (d : Decisions) (rec_ : List Byte) : State :=
  let st := d.stream
  let tile := leNat rec_ 8 2
  let ts := leNat rec_ 0xC 8
  let row := tile / max 1 (s.stream st).p.columns
  let twice := d.rbTiles.contains tile || decide ((s.stream st).p.tileCount ≤ tile)
  let again : Option (Nat × Nat × Nat) := d.rbRowTs.filter fun q => q.1 == row && !d.rbTiles.isEmpty
  let span : Nat × Nat := match again with
    | some q => (min q.2.1 ts, max q.2.2 ts)
    | none => (ts, ts)
  let timeBad := decide (span.1 + 1 < span.2) || (again.isNone && d.rbRowTs.any fun q => decide (ts ≤ q.2.2))
  let m := s.readbackMatch d rec_
  let w := worse (if twice then 3 else 0) (worse (if timeBad then 4 else 0) (if m.2 then 0 else 5))
  s.updDecisions st fun x =>
    { x with rbTiles := tile :: x.rbTiles, rbCount := x.rbCount + 1, rbRowTs := some (row, span.1, span.2), rbWorst := worse x.rbWorst w,
             matched := (if m.1 && m.2 then [(tile, leNat rec_ 0x14 4)] else []) ++ x.matched.filter fun q => !(q.1 == tile) }

/-- A record of the gate that a stream holds. -/
def State.readbackSeen (s : State) (st : Nat) (rec_ : List Byte) : State :=
  match s.decisions? st with
  | none => s
  | some d =>
    if !recordIntact rec_ then s.updDecisions st fun x => { x with rbCount := x.rbCount + 1, rbWorst := worse x.rbWorst 1 }
    else
      let frame := leNat rec_ 4 4
      let same := d.rbFrame == some frame
      -- a frame whose frame-end record never came fails check 3
      let s1 := if !same && !d.rbTiles.isEmpty then
          (s.updDecisions st fun x => { x with rbWorst := worse x.rbWorst 3 }).closeReadback st (d.rbFrame.getD 0)
        else s
      let jump := d.rbFrame.any fun p => !(p == frame) && !next32 frame p
      let s2 := s1.updDecisions st fun x => { x with rbFrame := some frame, rbWorst := if jump then worse x.rbWorst 2 else x.rbWorst }
      match s2.decisions? st with
      | none => s2
      | some e =>
        if bitOf (leNat rec_ 3 1) 5 then
          let all := (List.range (s2.stream st).p.tileCount).all e.rbTiles.contains
          let ok := all && leNat rec_ 0x14 4 == e.rbCount
          (s2.updDecisions st fun x => { x with rbWorst := if ok then x.rbWorst else worse x.rbWorst 3 }).closeReadback st frame
        else s2.readbackTile e rec_

def execReadbackRecord (g : Fin 4) (s : State) : Result :=
  .next (let s0 := s.fresh
    match s0.chk.fromGate[g.val] with
    | [] => s0
    | rec_ :: rest =>
      let s1 := { s0 with chk := { s0.chk with fromGate := s0.chk.fromGate.set g.val rest } }
      if !s1.checkerRuns then s1
      else match (s1.gate g.val).holder with
        | some st => s1.readbackSeen st rec_
        | none => s1)

/-! ## Dailies records (R429, R431, R432) -/

def execDailiesRecord (s : State) : Result :=
  .next (let s0 := s.fresh
    match s0.arrayRecord true with
    | none => s0
    | some rec_ =>
      let s1 := s0.dropArray
      let d := s1.dailies
      if !s1.checkerRuns || !d.active then s1
      else
        let here (e : Nat × Nat × Nat) : Bool := e.1 == leNat rec_ 4 1 && e.2.1 == leNat rec_ 5 1
        let ok := recordIntact rec_ && leNat rec_ 0 2 == d.reel && leNat rec_ 2 2 == d.portion &&
          (d.expected.any fun e => here e && e.2.2 == leNat rec_ 8 8)
        let s2 := { s1 with dailies := { d with expected := d.expected.filter fun e => !here e, mismatch := d.mismatch || !ok } }
        let s3 := if ok || d.mismatch then s2
          else
            ({ s2 with chk := { s2.chk with dailiesFails := satAdd s2.chk.dailiesFails 1 (2 ^ 32 - 1) } }).checkerEvent none 0x05
              (d.portion % 256) 0
        -- the second mismatch belongs to the handling of the first (R489)
        (if ok || d.mismatch || d.failed then s3 else s3.detectBrief .dailiesMismatch 19 none).concludeDailies)

/-! ## SAFE_STATE (R403, R421 to R423) -/

/-- SAFE_STATE is released: blanking ends, SAFE_RELEASE is posted. -/
def State.releaseSafe (s : State) : State :=
  ({ s with chk := { s.chk with safe := false, ackSeen := false, blanking := false, releasedAt := s.clock.clap } }).checkerEvent
    none 0x08 0 0

/-- Causes of CHK_CAUSE bits [5:0] stand. -/
def Checker.causes (c : Checker) : Nat := c.cause.toNat % 64

/-- Bit of CHK_STATE, counted from bit 7, that a fault sets (Table 13.7). -/
def faultBit : CheckerFaultKind → Nat
  | .lockstep => 0
  | .clock => 1
  | .memory | .rom => 2
  | .selftest => 3

/-- A checker fault (R402): phase FAULT, so that rom_phase is over (Table 13.8), SAFE_STATE by hardware, the CONTINUITY slot. -/
def State.failChecker (s : State) (k : CheckerFaultKind) : State :=
  if s.chipInReset then s else
  let b := faultBit k
  let s1 := { s with chk := { s.chk with faults := s.chk.faults ||| BitVec.ofNat 4 (2 ^ b) } }
  if s.chk.phase == .fault then s1
  else
    ((({ s1 with chk := { s1.chk with phase := .fault, cause := s1.chk.cause &&& ~~~ (0x40 : Word32) } }).checkerEvent none 0x0B (7 + b) 0).assertSafe 4).detect .checkerFault 19
      none .fundamental

def execCheckerFault (kind : CheckerFaultKind) (s : State) : Result := .next (s.fresh.failChecker kind)

/-- The self-test of a dailies beat (R434): the first pair must be accepted, the second rejected with reason 4. -/
def execCheckerSelfTest (good bad : Nat) (s : State) : Result :=
  .next (let s0 := s.fresh
    if !s0.checkerRuns || s0.beat % 512 ≠ 0 then s0
    else if good = 0 ∧ bad = 4 then s0 else s0.failChecker .selftest)

/-- The next word of the checker SRAM is scrubbed (R403); an uncorrectable error is a checker fault. -/
def execCheckerScrub (uncorrectable : Bool) (s : State) : Result :=
  .next (let s0 := s.fresh
    if s0.chk.phase == .fault then s0
    else
      let s1 := { s0 with chk := { s0.chk with scrubAt := (s0.chk.scrubAt + 1) % 131072 } }
      if uncorrectable then s1.failChecker .memory else s1)

/-- What an accepted edge of SAFE_ACK does (R422): a rising edge clears ack_stuck, and acknowledges while SAFE_STATE is
asserted. -/
def State.ackSeenEdge (r : State × EdgeSeen) : State :=
  match r.2 with
  | .accepted _ =>
    if r.1.level .safeAck then
      { r.1 with chk := { r.1.chk with ackStuck := false, ackSeen := r.1.chk.ackSeen || r.1.chk.safe } }
    else r.1
  | _ => r.1

def execSafeAckEdge (e : Edge) (s : State) : Result := .next (State.ackSeenEdge (s.fresh.edge .safeAck e))

/-- No acknowledgement within 20 ms of assertion: blanking starts. -/
def execSafeAckTimeout (s : State) : Result :=
  .next (let s0 := s.fresh
    if !s0.chk.safe || s0.chk.ackSeen || s0.chk.blanking || s0.chipInReset then s0
    else
      let s1 := s0.advanceTo (s0.chk.assertedAt + 5_000_000)
      { s1 with chk := { s1.chk with blanking := true } })

/-- SAFE_ACK high for a continuous 1 ms while SAFE_STATE is released. -/
def execAckStuck (s : State) : Result :=
  .next (let s0 := s.fresh
    if s0.chk.safe || s0.chk.ackStuck || !s0.level .safeAck then s0
    else
      let last := s0.clapTime ((s0.input .safeAck).lastEdge.getD 0) / 8
      let s1 := s0.advanceTo (max s0.chk.releasedAt last + 250_000)
      ({ s1 with chk := { s1.chk with ackStuck := true } }).checkerEvent none 0x0A 0 0)

/-! ## The SPI target (R424 to R426) -/

def State.writeRelease (s : State) (v : Word32) : State :=
  if v = 0x5AFE ∧ s.checkerRuns ∧ s.chk.ackSeen ∧ s.chk.causes = 0 then s.releaseSafe else s

/-- CHK_RESPONSE is the inverse of the challenge rotated left by 7 bits in phase RUN. -/
def State.writeChallenge (s : State) (v : Word32) : State :=
  if s.chk.phase == .fault then s
  else { s with chk := { s.chk with challenge := v,
                                    response := if s.checkerRuns then ~~~ (v.rotateLeft 7) else s.chk.response } }

/-- The RW1C bits of CHK_CAUSE: 0 to 3 and 8. -/
def State.clearCause (s : State) (v : Word32) : State :=
  { s with chk := { s.chk with cause := rw1c s.chk.cause (v &&& 0x10F) } }

def execChkRelease (v : Word32) (s : State) : Result := .next (s.fresh.writeRelease v)
def execChkChallenge (v : Word32) (s : State) : Result := .next (s.fresh.writeChallenge v)
def execChkCauseClear (v : Word32) (s : State) : Result := .next (s.fresh.clearCause v)

/-- A write of one register of Table 13.6; in phase FAULT only CHK_CAUSE takes it. -/
def State.chkWrite (s : State) (o : Nat) (v : Word32) : State :=
  if o = 0x00C then s.clearCause v
  else if s.chk.phase == .fault then s
  else if o = 0x010 then s.writeRelease v
  else if o = 0x014 then s.writeChallenge v
  else if o = 0x01C then { s with chk := { s.chk with tolSelect := v &&& 0x3FF } }
  else s

def State.spiError (s : State) : State :=
  { s with chk := { s.chk with cause := s.chk.cause ||| 0x100 }, out := { s.out with misoLow := true } }

/-- A transaction that is ignored for its opcode (R424). -/
def State.spiIgnored (s : State) : State := { s with out := { s.out with misoLow := true } }

/-- A transaction is discarded whatever its opcode: offset no multiple of 4, or word count 0 or above 16, where the transaction is long
enough to have them. -/
def spiBad (bs : List Byte) : Bool :=
  (decide (3 ≤ bs.length) && leNat bs 1 2 % 4 ≠ 0) || (decide (4 ≤ bs.length) && !within 1 16 (leNat bs 3 1))

/-- The SPI target takes no part: the chip is in reset (R516), or chip select rises before an opcode has come. -/
def State.spiSilent (s : State) (bs : List Byte) : Bool := s.chipInReset || bs.isEmpty

/-- A read returns a dummy byte, the data and their CRC; the dummy is a free value (log 38). -/
def State.spiReadData (s : State) (o n : Nat) : State :=
  let data := (List.range n).flatMap fun i => leBytes 4 (s.chkRead (o + 4 * i))
  s.spend.answer (BitVec.ofNat 8 (Config.freeValue s.free) :: data ++ leBytes 4 (crc32c data))

def execSpiRead (bytes : List Byte) (s : State) : Result :=
  .next (let s0 := s.fresh
    if s0.spiSilent bytes then s0
    else if spiBad bytes then s0.spiError
    else if leNat bytes 0 1 ≠ 0x0B then s0.spiIgnored
    -- a read that ends before its word count returns no data
    else if bytes.length < 4 then s0
    else s0.spiReadData (leNat bytes 1 2) (leNat bytes 3 1))

def execSpiWrite (bytes : List Byte) (s : State) : Result :=
  .next (let s0 := s.fresh
    let o := leNat bytes 1 2
    let n := leNat bytes 3 1
    if s0.spiSilent bytes then s0
    else if spiBad bytes then s0.spiError
    else if leNat bytes 0 1 ≠ 0x02 then s0.spiIgnored
    else if bytes.length < 8 + 4 * n || leNat bytes (4 + 4 * n) 4 ≠ crc32c (bytes.take (4 + 4 * n)) then s0.spiError
    else (List.range n).foldl (fun s i => s.chkWrite (o + 4 * i) (BitVec.ofNat 32 (leNat bytes (4 + 4 * i) 4))) s0)

end Sys2Proof.Machine
end

