-- ==== Sys2Proof/Machine/Outputs.lean ====
section
/-!
DEFINITION. OUTPUT_CONFIGURE (R470): the checks of R338, R339, R345, R355 and R359, live changes, the reset of a gate
island, and the figures it reports (R346).
-/
namespace Sys2Proof.Machine

/-! ## Ranges of Table 11.3 -/

/-- The DSC parameters of R345; not looked at with DSC off. -/
def GateConfig.dscOk (c : GateConfig) : Bool :=
  !c.dsc ||
  (within 128 (16 * (3 * c.bpc - 1)) c.dscBpp && [4, 8, 16].contains c.dscSlices &&
    c.hActive % max 1 c.dscSlices == 0 && within 64 2560 (c.hActive / max 1 c.dscSlices) &&
    within 8 c.vActive c.dscHeight && c.vActive % max 1 c.dscHeight == 0)

/-- Default of the watermark: half of ahead, rounded up (Table 11.3). -/
def GateConfig.withWatermark (c : GateConfig) : GateConfig :=
  if c.watermark = 0 then { c with watermark := ceilDiv c.ahead 2 } else c

/-- Blanking and totals, in pixels and lines. The limits of the frame rate hold to the nearest step of 1 kHz of the pixel clock: the
worked example's 2,090,458 kHz, 0.2 ppm above 240 Hz, is accepted (DEDUCED, log 125). -/
def GateConfig.timingOk (c : GateConfig) : Bool :=
  within 256 7680 c.hActive && c.hActive % 8 == 0 &&
  ([c.hFront, c.hSync, c.hBack].all fun x => within 4 4096 x && x % 4 == 0) && decide (80 ≤ c.hFront + c.hSync + c.hBack) &&
  decide (c.hTotal ≤ 16384) && within 256 4320 c.vActive && c.vActive % 2 == 0 && within 1 1024 c.vFront &&
  within 1 64 c.vSync && within 1 1024 c.vBack && decide (c.vTotal ≤ 8192) && within 25_000 4_320_000 c.clock &&
  decide (24_000_000 * (c.hTotal * c.vTotal) < (2 * c.clock + 1) * 500_500_000) && decide ((2 * c.clock - 1) * 500 ≤ 240 * (c.hTotal * c.vTotal))

/-- The ranges of a message for gate `g`; the code fields are read from the message itself. Unlisted bits of sync_pol and colorimetry
are reserved and not looked at (R12, R464). -/
def gateRangesOk (g : Nat) (m : List Byte) (c : GateConfig) : Bool :=
  decide (leNat m 0x11 1 ≤ 1) && decide (leNat m 0x12 1 ≤ 1) && (leNat m 0x12 1 == 0 || g == 0) &&
  (c.bpc == 8 || c.bpc == 10) && c.timingOk && decide (c.linkRate ≤ 6) &&
  [1, 2, 4].contains c.lanes && decide (leNat m 0x2B 1 ≤ 1) && c.dscOk &&
  !(leNat m 0x2F 1 % 4 == 3) && (c.matchLine == 0xFFFF || decide (c.matchLine < c.vTotal)) && within 1 c.ahead c.watermark &&
  decide (leNat m 0x3B 1 ≤ 1) && within 1 8 c.ratio && (leNat m 0x41 1 == 0 || leNat m 0x41 1 == 32) &&
  decide (c.genOffset < c.vTotal) && within 1 1000 c.ppm

/-! ## Live and link fields -/

/-- The live fields of `l` in a configuration. -/
def GateConfig.withLive (c l : GateConfig) : GateConfig :=
  { c with colorimetry := l.colorimetry, hdr := l.hdr, fill := l.fill, watermark := l.watermark, matchLine := l.matchLine,
           genOffset := l.genOffset, ppm := l.ppm }

/-- The link fields of `l`, which each clone keeps (R355). -/
def GateConfig.withLink (c l : GateConfig) : GateConfig :=
  { c with linkRate := l.linkRate, lanes := l.lanes, bpc := l.bpc, dsc := l.dsc, dscBpp := l.dscBpp,
           dscSlices := l.dscSlices, dscHeight := l.dscHeight }

/-- The two configurations differ in live fields at most. -/
def GateConfig.sameButLive (a b : GateConfig) : Bool := decide (a.withLive b = b)

/-- They differ in link and live fields at most. -/
def GateConfig.sameButLink (a b : GateConfig) : Bool := decide ((a.withLive b).withLink b = b)

/-- Gate 0's picture and timing with a clone's own link and live fields (R355). -/
def GateConfig.cloneOf (own zero : GateConfig) : GateConfig :=
  { (zero.withLive own).withLink own with clone := false }

/-! ## The link check (R338) -/

/-- Payload per lane in kbit/s (Table 11.2). -/
def payloadKbit (rate : Nat) : Nat := [1_263_600, 2_106_000, 4_212_000, 6_318_000, 9_400_000, 12_690_000, 18_800_000].getD rate 0

/-- The required rate is within the payload rate. -/
def GateConfig.linkFits (c : GateConfig) : Bool :=
  let need := if c.dsc then c.clock * c.dscBpp else c.clock * 3 * c.bpc * 16
  decide (need ≤ 16 * c.lanes * payloadKbit c.linkRate)

/-- FEC is on whenever 128b/132b (the UHBR rates) or DSC is used (R337). -/
def GateConfig.fec (c : GateConfig) : Bool := decide (4 ≤ c.linkRate) || c.dsc

/-- The sink decodes the configured stream. -/
def GateConfig.dscFits (c : GateConfig) (k : SinkDsc) : Bool :=
  k.bpcs.contains c.bpc && decide (c.dscBpp ≤ k.maxBpp) && k.slices.contains c.dscSlices &&
  decide (c.hActive ≤ k.maxWidth * c.dscSlices)

/-- The sink supports rate, lanes and DSC parameters. -/
def GateConfig.sinkFits (c : GateConfig) (k : SinkSeen) : Bool :=
  decide (c.linkRate ≤ k.maxRate) && decide (c.lanes ≤ k.maxLanes) && (!c.dsc || k.dsc.any c.dscFits)

/-- The link check against a sink that is connected and whose capabilities were read. -/
def Gate.linkOk (x : Gate) (c : GateConfig) : Bool :=
  c.linkFits && (x.unplugged || (match x.sink with
    | some k => c.sinkFits k
    | none => true))

/-! ## Island reset (R30, R358, R359) -/

/-- A gate in reset: dark, GATE_EVENTS cleared but for hpd_change while HPD is high (Table 11.6). What a stream holds and
what stands on the HPD ball remain. -/
def Gate.resetIsland (x : Gate) : Gate :=
  { Gate.reset with
    events := if x.hpdLevel then 0x10 else 0, hpdLevel := x.hpdLevel, holder := x.holder, fallAt := x.fallAt,
    unplugged := x.unplugged, sink := x.sink, mustTrain := !x.unplugged }

/-- A gate after a fundamental reset by a pin: what stands on the HPD ball remains, and a sink that is connected is read and trained
anew (R360, R474). -/
def Gate.resetByChip (x : Gate) : Gate :=
  { x.resetIsland with holder := none, fallAt := none, sink := none, unplugged := !x.hpdLevel, mustTrain := x.hpdLevel }

/-- The island of gate `g` resets and takes a new configuration. The records that it has put on its crossing to the checker go on: only
entries toward an island in reset are discarded (R30), those beyond its credits are still in the island and go with it. -/
def State.resetGate (s : State) (g : Nat) (c : Option GateConfig) : State :=
  let s1 := s.updGate g fun x => { x.resetIsland with cfg := c, locking := c.isSome }
  { s1 with chk := { s1.chk with fromGate :=
      if h : g < 4 then s1.chk.fromGate.set g (s1.chk.fromGate[g].take (Config.credits (.gateContinuity ⟨g, h⟩)).req)
      else s1.chk.fromGate } }

/-- Body of the response (Table 14.22): picoseconds and millihertz to the nearest unit (log 20). -/
def outputBody (c : GateConfig) (start0 : Nat) : List Byte :=
  let near (a b : Nat) := (2 * a + b) / (2 * max 1 b)
  leBytes 1 c.lines ++ leBytes 1 c.ahead ++ leBytes 2 c.gateBeats ++ leBytes 4 (near (c.pipePixels * 1_000_000_000) c.clock) ++
  leBytes 8 start0 ++ leBytes 4 (near (c.clock * 1_000_000) (c.hTotal * c.vTotal))

/-- What gates 1 to 3 become when gate 0 takes configuration `c` with clone = 1. Of their own link fields only R338 is checked
for the shared timing, not DSC parameters, watermark, match_line and gen_offset (DESIGN CHOICE, log 153). -/
def State.cloneTargets (s : State) (c : GateConfig) : List (Nat × GateConfig) :=
  if c.clone then [1, 2, 3].filterMap fun i => ((s.gate i).cfg).map fun own => (i, own.cloneOf c) else []

/-- Check 3: the gate is held, or cloned, in a way that forbids the change (R355, R359). -/
def State.gateBusy (s : State) (g : Nat) (c : Option GateConfig) : Bool :=
  let x := s.gate g
  let live := match x.cfg, c with
    | some a, some b => a.sameButLive b
    | _, _ => false
  let allowedClone := !s.cloneMode || g == 0 || (match x.cfg, c with
    | some a, some b => a.sameButLink b
    | _, _ => false)
  let clonesHeld := match c with
    | some b => b.clone && [1, 2, 3].any fun i => (s.gate i).holder.isSome
    | none => false
  (!live && x.holder.isSome) || !allowedClone || (!live && clonesHeld)

/-- The message after check 1. The next OUTPUT_CONFIGURE after a capability mismatch lets the link be trained again (R362). -/
def State.outputAccepted (s : State) (ch g : Nat) (c : GateConfig) : State :=
  let x := s.gate g
  if (match x.cfg with
      | some a => a.sameButLive c
      | none => false) then
    (s.updGate g fun y => { y with live := some c, capMismatch := false, mustTrain := y.mustTrain || (y.capMismatch && !y.unplugged) }).respond ch 0 0 (outputBody c 0)
  else
    let s1 := (s.cloneTargets c).foldl (fun s t => s.resetGate t.1 (some t.2)) s
    (s1.resetGate g (some c)).defer ch (.gateReset g) (if c.card = 0 then none else some c.card)

def execOutputConfigure (s : State) : Result :=
  .next (s.fresh.mboxRun 0x30 fun s ch m =>
    let g := leNat m 0x10 1
    if 3 < g then s.respondError ch eParam
    else if leNat m 0x11 1 = 0 then
      if s.gateBusy g none then s.respondError ch eGateBusy
      else (s.resetGate g none).respond ch 0 0 []
    else
      let c := (parseGate m).withWatermark
      if !gateRangesOk g m c then s.respondError ch eParam
      else if c.card ≠ 0 ∧ (s.tensor? c.card).isNone then s.respondError ch eNoTensor
      else if s.gateBusy g (some c) then s.respondError ch eGateBusy
      else if !(s.gate g).linkOk c || !((s.cloneTargets c).all fun t => (s.gate t.1).linkOk t.2) then s.respondError ch eLink
      else s.outputAccepted ch g c)

end Sys2Proof.Machine
end

