-- ==== Sys2Proof/Machine/Gates.lean ====
section
/-!
DEFINITION. The output gates: timing (R340), fetch and read-out of lines with underrun and readback (R341 to R350), gate
events (R351, R352), clone mode (R355), genlock (R356, R357), PLL lock (R359), hot plug and link training (R360 to R362).
-/
namespace Sys2Proof.Machine

/-! ## Times and the frame being read out -/

/-- Read time of line `y` (R346). -/
def Gate.readTime (x : Gate) (c : GateConfig) (k y : Nat) : Nat :=
  x.lineStart c k y - lineTime c.pipePixels 1 (x.clockOf c k)

/-- The frame being read out has not started yet, so that what takes effect at its start counts for it. -/
def Gate.waitsStart (x : Gate) : Bool := !x.begun || x.doneSent

/-- The configuration in force for the frame being read out. -/
def Gate.lineCfg (x : Gate) : Option GateConfig :=
  if x.waitsStart then (match x.live with
    | some c => some c
    | none => x.cfg) else x.cfg

/-- The main link carries the frame being read out. -/
def Gate.sends (x : Gate) : Bool := x.linked || (x.videoNext && x.waitsStart)

/-! ## What a gate shows -/

/-- The stream whose picture gate `g` shows: in clone mode gate 0's (R355). -/
def State.pictureStream (s : State) (g : Nat) : Option Nat := if s.cloneMode then (s.gate 0).holder else (s.gate g).holder

/-- Blanking of R422 applies to the gate at its next start(f). -/
def State.blankNow (s : State) (g : Nat) : Bool :=
  s.chk.blanking &&
  (s.chk.cause.getLsbD 4 || s.chk.cause.getLsbD 5 ||
    (match s.pictureStream g with
      | some st => ((s.decisions? st).map (·.safety)).getD false
      | none => false))

/-- The picture layer is off for the frame being read out. -/
def State.layerOff (s : State) (g : Nat) : Bool :=
  let x := s.gate g
  x.pictureOff || (if x.waitsStart then s.blankNow g else x.blanked)

/-- Every tile of row `r` is among the latched tiles. -/
def StreamParams.rowLatched (p : StreamParams) (l : LatchedFrame) (r : Nat) : Bool :=
  (p.rowTiles r).all fun t => (l.tile? t).isSome

/-- The latched frame from which the gate takes row `r` of its frame `f`: on a clone the newest with that row. -/
def State.latchedFor (s : State) (g st f r : Nat) : Option LatchedFrame :=
  let x := s.stream st
  x.shown.find? fun l => x.p.rowLatched l r && ((s.cloneMode && g != 0) || l.index + x.gateBase == f)

/-- Pixels of line `y` of a latched row. -/
def State.latchedLine (s : State) (st y : Nat) (l : LatchedFrame) : List Nat :=
  let x := s.stream st
  (x.p.rowTiles (y / 64)).flatMap fun t => match l.tile? t with
    | some lt => ((s.latchedPixels st lt).drop (128 * (y % 64))).take (x.p.tileInside t).1
    | none => []

/-- What a fetch of line `y` of gate frame `f` brings: colour format and pixels, no pixels for a fill line; none while the
row is not latched (R341, R347, R348). -/
def State.fetched (s : State) (g : Nat) (c : GateConfig) (f y : Nat) : Option (Nat × List Nat) :=
  match s.pictureStream g with
  | some st =>
    if (if s.cloneMode && g != 0 then (s.gate 0).workFrame else f) < (s.stream st).gateBase then some (0, [])
    else (s.latchedFor g st f (y / 64)).map fun l => ((s.stream st).p.colour, s.latchedLine st y l)
  | none =>
    match (if c.card = 0 then none else s.tensor? c.card) with
    | some t => some (0, pixelsIn 4 (s.readBytes (t.base + 4 * c.hActive * y) (4 * c.hActive)))
    | none => some (0, [])

/-- The bytes that such a fetch reads. -/
def State.fetchRanges (s : State) (g : Nat) (c : GateConfig) (f y : Nat) : List (Nat × Nat) :=
  match s.pictureStream g with
  | some st => ((s.latchedFor g st f (y / 64)).toList.flatMap fun l => ((s.stream st).p.rowTiles (y / 64)).flatMap fun t =>
      (l.tile? t).toList.flatMap (s.latchedRanges st))
  | none => if c.card = 0 then [] else (s.tensor? c.card).toList.map fun t => (t.base + 4 * c.hActive * y, 4 * c.hActive)

/-! ## Conversion (R342) -/

/-- A linear value of RGBA16F on a link of `bpc` bits. -/
def linkLevel (bpc : Nat) (v : FNum) : Nat :=
  let top := 2 ^ bpc - 1
  if v.isNan || FNum.le v FNum.zero then 0
  else if FNum.le (FNum.ofInt 1) v then top
  else match v with
    | .fin _ m e => if 0 ≤ e then top else
        let sh := (-e).toNat
        roundEven (m * top >>> sh) (m * top % 2 ^ sh) sh
    | _ => top

/-- The binary16 grid (R47). -/
def gridHalf : Grid := ⟨10, 5, -14⟩

/-- The three link components of a pixel. -/
def linkPixel (bpc colour px : Nat) : List Nat :=
  ((channels colour px).take 3).map fun v =>
    if colour = 2 then linkLevel bpc (decodeIeee gridHalf v)
    else if colour = 0 ∧ bpc = 10 then (divRound (Int.ofNat (v * 1023)) 255).toNat
    else if colour = 1 ∧ bpc = 8 then (divRound (Int.ofNat (v * 255)) 1023).toNat
    else v

/-- A line of the fill colour. -/
def fillLine (c : GateConfig) : List Nat :=
  (List.replicate c.hActive (c.fill.map fun v => (divRound (Int.ofNat (v * (2 ^ c.bpc - 1))) 65535).toNat)).flatten

/-- The converted line. -/
def linkLine (c : GateConfig) (colour : Nat) (px : List Nat) : List Nat :=
  if px.isEmpty then fillLine c else px.flatMap (linkPixel c.bpc colour)

/-- DSC parameters of a line, for the encoder (R344, R345). -/
def dscParams (c : GateConfig) (y : Nat) : List Nat := [c.bpc, c.dscBpp, c.dscSlices, c.dscHeight, c.hActive, c.vActive, y]

/-- Secondary data of the vertical blanking (R343). -/
def blankingSdp (c : GateConfig) : List Sdp :=
  [.msa c.syncPol c.colorimetry, .vsc c.colorimetry] ++ (if c.hdr.isEmpty then [] else [.hdr c.hdr])

/-! ## PLL lock and frame starts -/

def execGatePllLock (g : Fin 4) (s : State) : Result :=
  .next (let s0 := s.fresh
    let x := s0.gate g.val
    match x.cfg with
    | none => s0
    | some c =>
      if !x.locking || !s0.clock.running then s0
      else
        let origin := s0.copy (gateIsland g.val) * subTicks
        let start := origin + lineTime c.hTotal 1 c.nominal
        let s1 := s0.updGate g.val fun y =>
          { y with locking := false, runningGen := true, frame := 0, origin := origin, lines := 1,
                   clocks := List.replicate 3 c.nominal }
        s1.completeDeferred (fun w => match w with
          | .gateReset k => k == g.val
          | _ => false) 0 (outputBody c (start / subTicks)))

/-- DSC parameters for which firmware builds the picture parameter set (R344, R345). -/
def ppsParams (c : GateConfig) : List Nat := [c.bpc, c.dscBpp, c.dscSlices, c.dscHeight, c.hActive, c.vActive]

/-- Put secondary data on the main link of a gate. -/
def State.sendSdp (s : State) (g : Nat) (ps : List Sdp) : State :=
  { s with out := { s.out with sdp := s.out.sdp ++ ps.map fun p => (g, p) } }

/-- With DSC on, the PPS goes out after a training before the first compressed line (R344). -/
def State.sendPps (s : State) (g : Nat) (c : GateConfig) : State :=
  let x := s.gate g
  if c.dsc && x.videoNext && !x.ppsSent then (s.sendSdp g [.pps (ppsParams c)]).updGate g fun y => { y with ppsSent := true } else s

/-- What starts with a frame: live fields, blanking, video after training with the PPS before it (R343, R344, R359, R362, R422). -/
def State.startEffects (s : State) (g : Nat) : State :=
  let blank := s.blankNow g
  let s1 := match (s.gate g).lineCfg with
    | some c => s.sendPps g c
    | none => s
  s1.updGate g fun x =>
    { x with cfg := (match x.live with
              | some c => some c
              | none => x.cfg), live := none, blanked := blank, linked := x.linked || x.videoNext, videoNext := false }

def execGateFrameStart (g : Fin 4) (s : State) : Result :=
  .next (let s0 := s.fresh
    let x := s0.gate g.val
    match x.cfg with
    | none => s0
    | some c =>
      if !x.runningGen then s0
      else if !x.begun then
        ((s0.advanceTo (x.startOf c 0 / subTicks)).startEffects g.val).updGate g.val fun y => { y with begun := true }
      else if !x.doneSent then s0
      else
        let next := x.position c 1
        ((s0.advanceTo (x.startOf c 1 / subTicks)).startEffects g.val).updGate g.val fun y =>
          { y with frame := y.frame + 1, origin := next.1, lines := next.2, clocks := y.clocks.drop 1 ++ [c.nominal], sobDone := false,
                   doneSent := false, lineMatched := false })

/-! ## Fetching a line (R346, R348) -/

/-- A fetch is urgent while fewer complete lines than the watermark stand in the buffer ahead of the read position (R27, R348). -/
def Gate.fetchUrgent (x : Gate) (c : GateConfig) : Bool :=
  decide ((x.buffer.filter fun b => decide (x.readLine ≤ b.1)).length < c.watermark)

def execLineFetch (g : Fin 4) (s : State) : Result :=
  .next (let s0 := s.fresh
    let x := s0.gate g.val
    match x.lineCfg with
    | none => s0
    | some c =>
      let k := x.fetchLine / max 1 c.vActive
      let y := x.fetchLine % max 1 c.vActive
      let f := x.workFrame + k
      if !x.runningGen || 1 < k || (k == 0 && s0.layerOff g.val) || (k == 1 && decide (c.ahead ≤ y)) ||
          (k == 0 && decide (x.readLine + c.ahead ≤ y)) || !s0.mayRequest (.gate g) (.gateFabric g) (x.fetchUrgent c) then s0
      else
        let n := bitN x.doneSent + k
        let t := if y < c.ahead then x.readTime c n y - lineTime c.hTotal c.ahead (x.clockOf c n) else 0
        let s1 := s0.advanceTo (t / subTicks)
        match s1.fetched g.val c f y with
        | none => s1
        | some e => s1.screen (.gate g) (s1.fetchRanges g.val c f y) [] fun s1 => s1.updGate g.val fun z =>
            { z with buffer := z.buffer ++ [(z.fetchLine, e.1, e.2)], fetchLine := z.fetchLine + 1 })

/-! ## Reading a line out (R341 to R344, R349, R350) -/

/-- The CRC registers of a row's tiles after one more line of pixels. -/
def crcLine (p : StreamParams) (y : Nat) (crcs : List Nat) (px : List Nat) : List Nat :=
  (List.range p.columns).map fun i =>
    let old := if y % 64 = 0 then 0xFFFF_FFFF else crcs.getD i 0xFFFF_FFFF
    let w := (p.tileInside (y / 64 * p.columns + i)).1
    (pixelBytes p.bpp ((px.drop (128 * i)).take w)).foldl (crcByte 0x82F63B78) old

/-- A record of Table 11.4. -/
def readbackBytes (stream gate flags frame tile ts crc : Nat) : List Byte :=
  let body := leBytes 2 stream ++ leBytes 1 gate ++ leBytes 1 flags ++ leBytes 4 frame ++ leBytes 2 tile ++ zeros 2 ++
    leBytes 8 ts ++ leBytes 4 crc ++ zeros 4
  body ++ leBytes 4 (crc32c body)

/-- Send records on the gate's crossing to the checker; those beyond its 16 credits wait at the gate, in order (R26). -/
def State.sendReadback (s : State) (g : Nat) (rs : List (List Byte)) : State :=
  { s with chk := { s.chk with fromGate :=
      if h : g < 4 then s.chk.fromGate.set g (s.chk.fromGate[g] ++ rs) else s.chk.fromGate } }

/-- The readback records of the tile row that line `y` ends, and after the last row the frame-end record. -/
def State.readbackRow (s : State) (g st : Nat) (c : GateConfig) (y : Nat) (filled : Bool) : State :=
  let x := s.gate g
  let z := s.stream st
  let f := x.workFrame - z.gateBase
  let n := bitN x.doneSent
  let ts := x.lineStart c n (64 * (y / 64)) / subTicks
  let tiles := z.p.rowTiles (y / 64)
  let l := s.latchedFor g st x.workFrame (y / 64)
  let recs := (List.range tiles.length).map fun i =>
    let t := tiles.getD i 0
    let lt := ((l.bind fun l => l.tile? t).getD ⟨t, 4, none, 4, 0, 0⟩)
    readbackBytes st g (lt.shown % 8 + 8 * bitN filled + 16 * bitN lt.composite.isSome) f t ts
      (if filled then 0 else x.crcs.getD i 0 ^^^ 0xFFFF_FFFF)
  let total := x.readbacks + recs.length
  let last := if y + 1 = c.vActive then
    [readbackBytes st g 0x20 f 0xFFFF (x.startOf c n / subTicks) total] else []
  (s.sendReadback g (recs ++ last)).updGate g fun w =>
    { w with readbacks := total, filled := w.filled + (if filled then tiles.length else 0) }

/-- The stream whose frame the gate reads back: only the holder's own frames, and only on the gate it holds (R350, R355). -/
def State.readbackStream (s : State) (g : Nat) : Option Nat :=
  match (s.gate g).holder with
  | some st => if (s.stream st).gateBase ≤ (s.gate g).workFrame then some st else none
  | none => none

/-- The line leaves for the transmitter: main link, DSC encoder, tile CRCs and readback records. -/
def State.transmit (s : State) (g : Nat) (c : GateConfig) (y : Nat) (off : Bool) (e : Nat × List Nat) : State :=
  let x := s.gate g
  let conv := if off then fillLine c else linkLine c e.1 e.2
  let past := (if y % max 1 c.dscHeight = 0 then [] else x.slice) ++ conv
  let line := if c.dsc then (Config.dscEncode (dscParams c y) past).map (·.toNat) else conv
  let s1 := s.updGate g fun w =>
    { w with slice := if c.dsc then past else [], readLine := y + 1, buffer := w.buffer.filter fun b => !(b.1 == y) }
  let s2 := if x.sends then { s1.sendPps g c with out := { (s1.sendPps g c).out with line := some (g, line) } } else s1
  match s.readbackStream g with
  | none => s2
  | some st =>
    let s3 := s2.updGate g fun w => { w with crcs := crcLine (s.stream st).p y w.crcs (if off then [] else e.2) }
    if y % 64 = 63 ∨ y + 1 = c.vActive then s3.readbackRow g st c y off else s3

/-- The next line is read at the present time: as fill with the picture layer off, from the buffer, or as an underrun. -/
def State.readNow (s : State) (g : Nat) (c : GateConfig) : State :=
  let y := (s.gate g).readLine
  if s.layerOff g then s.transmit g c y true (0, [])
  else match (s.gate g).buffer.find? fun b => b.1 == y with
    | some b => s.transmit g c y false b.2
    | none => (s.underrun g c y).transmit g c y true (0, [])

/-- The tick of the next line's read time; none past the last active line, or while the timing generator stands. -/
def Gate.readTick (x : Gate) : Option Nat :=
  x.lineCfg.bind fun c =>
    if x.runningGen && decide (x.readLine < c.vActive) then some (x.readTime c (bitN x.doneSent) x.readLine / subTicks) else none

def execLineRead (g : Fin 4) (s : State) : Result :=
  .next (let s0 := s.fresh
    match (s0.gate g.val).lineCfg, (s0.gate g.val).readTick with
    | some c, some t => (s0.advanceTo t).readNow g.val c
    | _, _ => s0)

/-! ## LINE_MATCH, SOB, FRAME_DONE and their order within a tick (R351, R352) -/

/-- LINE_MATCH of the frame being sent is still to come. -/
def Gate.matchWaits (x : Gate) (c : GateConfig) : Bool :=
  x.runningGen && x.begun && !x.lineMatched && decide (c.matchLine < c.vTotal) && !(x.sobDone && decide (c.matchLine ≤ c.vActive))

/-- Post LINE_MATCH. -/
def State.matchNow (s : State) (g : Nat) (c : GateConfig) : State :=
  (s.updGate g fun y => { y with lineMatched := true }).gateEvent g evLineMatch
    [Int.ofNat ((s.gate g).frame % 2 ^ 32), Int.ofNat c.matchLine]

/-- UNDERRUN of a line whose read time lies in the present tick comes before every other event of the tick. -/
def State.settleRead (s : State) (g : Nat) : State :=
  let x := s.gate g
  match x.lineCfg with
  | some c => if x.readTick == some s.clock.clap && !s.layerOff g && x.buffer.all (fun b => !(b.1 == x.readLine)) then s.readNow g c else s
  | none => s

/-- LINE_MATCH of the present tick comes after it. -/
def State.settleMatch (s : State) (g : Nat) : State :=
  let s1 := s.settleRead g
  match (s1.gate g).cfg with
  | some c =>
    if (s1.gate g).matchWaits c && (s1.gate g).lineStart c 0 c.matchLine / subTicks == s1.clock.clap then s1.matchNow g c else s1
  | none => s1

def execLineMatch (g : Fin 4) (s : State) : Result :=
  .next (let s0 := s.fresh
    let x := s0.gate g.val
    match x.cfg with
    | none => s0
    | some c =>
      if !x.matchWaits c then s0
      else ((s0.advanceTo (x.lineStart c 0 c.matchLine / subTicks)).settleRead g.val).matchNow g.val c)

/-- A pixel clock `f_px × (1 + num / den)` held to the limits and put on the PLL's nearest step (R356), in 1/256 Hz. -/
def steppedClock (c : GateConfig) (num : Int) (den : Nat) : Nat :=
  let lim := c.ppm * den
  let n := clampInt (num * 1_000_000) (-(Int.ofNat lim)) (Int.ofNat lim)
  let k := Int.ofNat (2 ^ 24) + divRound (n * Int.ofNat (2 ^ 24)) (max 1 (1_000_000 * den))
  (divRound (Int.ofNat c.nominal * k) (2 ^ 24)).toNat

/-- err of R356 times gen_ratio, in 2^-32 tick, from the newest two accepted edges. -/
def Gate.genError (x : Gate) (c : GateConfig) (newest before : Nat) : Int :=
  let p := x.startOf c 3
  let q := newest - before
  let off : Int := (Int.ofNat newest + Int.ofNat (lineTime c.hTotal c.genOffset c.nominal) - Int.ofNat p) * Int.ofNat c.ratio
  off + divRound (-off) (max 1 q) * Int.ofNat q

/-- The code of a genlock state in the payload of GENLOCK (R351). -/
def GenlockState.code : GenlockState → Nat
  | .locked => 0
  | .unlocked => 1
  | .lost => 2
  | .rateFault => 3

/-- The reference's rate, between the last two accepted edges, is within gen_ppm of the expected one (R356; DEDUCED, log 141). -/
def GateConfig.rateNear (c : GateConfig) (period : Nat) : Bool :=
  let want := c.ratio * lineTime c.hTotal c.vTotal c.nominal
  decide ((Int.ofNat want - Int.ofNat period).natAbs * 1_000_000 ≤ c.ppm * period)

/-- Change of the genlock state with its event. -/
def State.setGenlock (s : State) (g : Nat) (v : GenlockState) : State :=
  (s.updGate g fun x => { x with genState := v }).gateEvent g evGenlock [Int.ofNat v.code]

/-- The commitment at SOB (R356): the clock of frame f + 2, at f_px without genlock or without two edges; the number of
SOBs in a row below one line, at a rate within gen_ppm; a new genlock state. -/
def Gate.commit (x : Gate) (c : GateConfig) : Nat × Nat × Option GenlockState :=
  match c.genlock, x.genEdges with
  | true, a :: b :: _ =>
    let e := x.genError c a b
    let near : Bool := decide (e.natAbs < c.ratio * lineTime c.hTotal 1 c.nominal)
    let good := if near && c.rateNear (a - b) then x.genGood + 1 else 0
    (steppedClock c (-e) (c.ratio * lineTime c.hTotal c.vTotal c.nominal), good,
      if 4 ≤ good ∧ x.genState ≠ .locked then some .locked
      else if !near ∧ x.genState ≠ .unlocked then some .unlocked
      else none)
  | _, _ => (c.nominal, 0, none)

/-- The newest clock that a gate has committed: before its SOB the last of the list is still to be committed. -/
def Gate.committed (x : Gate) (c : GateConfig) : Nat := x.clocks.getD (if x.sobDone then 2 else 1) c.nominal

/-- What gate `g` commits at its SOB: a clone the clock that gate 0 has committed, and its genlock state (R355). -/
def State.commitOf (s : State) (g : Nat) (c : GateConfig) : Nat × Nat × Option GenlockState :=
  let x := s.gate g
  let z := s.gate 0
  if s.cloneMode && g != 0 then
    (z.committed c, 0, if z.genState = x.genState then none else some z.genState)
  else x.commit c

/-- SOB at the present time; the event of a genlock change waits for those of the tick that come before it (R352). -/
def State.sobNow (s : State) (g : Nat) (c : GateConfig) : State :=
  let x := s.gate g
  let k := s.commitOf g c
  let s1 := s.updGate g fun y => { y with sobDone := true, clocks := y.clocks.take 2 ++ [k.1], genGood := k.2.1 }
  let s2 := (if x.linked then s1.sendSdp g (blankingSdp c) else s1).gateEvent g evSob [Int.ofNat (x.frame % 2 ^ 32), Int.ofNat k.1]
  match k.2.2 with
  | some v => s2.updGate g fun y => { y with genState := v, genPost := some v }
  | none => s2

/-- The GENLOCK event that waits, last of its tick. -/
def State.genNow (s : State) (g : Nat) : State :=
  match (s.gate g).genPost with
  | some v => (s.updGate g fun y => { y with genPost := none }).gateEvent g evGenlock [Int.ofNat v.code]
  | none => s

def Gate.sobWaits (x : Gate) : Bool := x.runningGen && x.begun && !x.sobDone

/-- FRAME_DONE: the last active line has left, and every record of the frame has been accepted by the crossing. -/
def State.doneReady (s : State) (g : Nat) (c : GateConfig) : Bool :=
  let x := s.gate g
  x.runningGen && x.sobDone && !x.doneSent && decide (c.vActive ≤ x.readLine) &&
  (if h : g < 4 then decide ((s.chk.fromGate[g]).length ≤ (Config.credits (.gateContinuity ⟨g, h⟩)).req) else false)

def State.doneNow (s : State) (g : Nat) (c : GateConfig) : State :=
  let x := s.gate g
  let s1 := s.gateEvent g evFrameDone [Int.ofNat (x.frame % 2 ^ 32), Int.ofNat x.filled]
  (s1.updGate g fun y =>
    { y with doneSent := true, fetchLine := y.fetchLine - c.vActive, readLine := 0, pictureOff := false, filled := 0,
             readbacks := 0, crcs := [], slice := [],
             buffer := y.buffer.map fun b => (b.1 - c.vActive, b.2) }).releaseSlots fun h => match h.hold with
      | .gateFrame a b => a == g && b == x.frame
      | _ => false

/-- SOB, with a FRAME_DONE of the same tick where a genlock change follows both (R352). -/
def State.sobAndDone (s : State) (g : Nat) (c : GateConfig) : State :=
  let s1 := s.sobNow g c
  if (s1.gate g).genPost.isSome && s1.doneReady g c then s1.doneNow g c else s1

def execSob (g : Fin 4) (s : State) : Result :=
  .next (let s0 := s.fresh
    let x := s0.gate g.val
    match x.cfg with
    | none => s0
    | some c =>
      if !x.sobWaits then s0
      else (((s0.advanceTo (x.lineStart c 0 c.vActive / subTicks)).settleMatch g.val).sobAndDone g.val c).genNow g.val)

/-- The events of the present tick that come before HPD, LINK and GENLOCK: UNDERRUN, LINE_MATCH, SOB and FRAME_DONE (R352; log 127). -/
def State.settleGate (s : State) (g : Nat) : State :=
  let s1 := s.settleMatch g
  match (s1.gate g).cfg with
  | none => s1
  | some c =>
    let s2 := if (s1.gate g).sobWaits && (s1.gate g).lineStart c 0 c.vActive / subTicks == s1.clock.clap then s1.sobNow g c else s1
    if s2.doneReady g c then s2.doneNow g c else s2

def execFrameDone (g : Fin 4) (s : State) : Result :=
  .next (let s0 := s.fresh
    match (s0.gate g.val).cfg with
    | none => s0
    | some c => if s0.doneReady g.val c then (s0.settleMatch g.val).doneNow g.val c else s0)

/-! ## Hot plug (R360, R361) -/

/-- 0.25 ms and 2 ms in eighths of a tick. -/
def quarterMs : Nat := 500_000
def twoMs : Nat := 4_000_000

/-- Unplug: the main link goes off, the timing generator runs on. -/
def State.unplug (s : State) (g : Nat) : State :=
  (s.updGate g fun x =>
    { x with unplugged := true, linked := false, videoNext := false, mustTrain := false, irq := false, retryAt := none, fec := false,
             sink := none }).gateEvent g evHpd [0, 0]

/-- Plug: firmware is to read the sink and train the link. -/
def State.plug (s : State) (g : Nat) : State :=
  (s.updGate g fun x =>
    { x with unplugged := false, mustTrain := true, irq := false, retryAt := none, trainAt := s.clock.clap, fallAt := none }).gateEvent
    g evHpd [1, 1]

/-- An IRQ_HPD: firmware reads the sink's status at once; a training that was to be tried later still is (R362). -/
def State.irqHpd (s : State) (g : Nat) : State :=
  (s.updGate g fun y =>
    { y with mustTrain := true, irq := true, trainAt := s.clock.clap,
             retryAt := if y.mustTrain && !y.irq then some y.trainAt else y.retryAt }).gateEvent g evHpd [1, 2]

/-- An accepted edge of HPD, `t` eighths of a tick after the clapper began to count; the events that come before HPD in the tick have been
posted. -/
def State.hpdAccepted (s : State) (g : Nat) (level : Bool) (t : Nat) : State :=
  let x := s.gate g
  if !level then s.updGate g fun y => { y with fallAt := some t }
  else if x.unplugged then s.plug g
  else match x.fallAt with
    | none => s
    | some f =>
      let s1 := s.updGate g fun y => { y with fallAt := none }
      if t < f + quarterMs then s1
      else if t < f + twoMs then s1.irqHpd g
      else (s1.unplug g).plug g

/-- What a level seen on the HPD ball of a gate comes to; GATE_EVENTS shows the filtered level. -/
def State.hpdSeen (r : State × EdgeSeen) (g : Fin 4) : State :=
  let level := r.1.filtered (.hpd g)
  let s1 := r.1.updGate g.val fun x => { x with hpdLevel := level }
  match r.2 with
  | .accepted t => ((s1.settleGate g.val).hpdAccepted g.val (s1.level (.hpd g)) (s1.rawTime t)).genNow g.val
  | _ => s1

def execHpdEdge (g : Fin 4) (e : Edge) (s : State) : Result :=
  .next (State.hpdSeen (s.fresh.edge (.hpd g) e) g)

def execHpdUnplug (g : Fin 4) (s : State) : Result :=
  .next (let s0 := s.fresh
    let x := s0.gate g.val
    match x.fallAt with
    | none => s0
    | some f =>
      if x.unplugged || s0.level (.hpd g) then s0
      else ((((s0.advanceTo (s0.clapTime (f + twoMs) / 8)).settleGate g.val).updGate g.val fun y => { y with fallAt := none }).unplug g.val).genNow g.val)

/-! ## Link training (R362) -/

/-- A LINK event with its result. -/
def State.linkEvent (s : State) (g code : Nat) : State := s.gateEvent g evLink [Int.ofNat code]

/-- One training and how it ended. FEC is on with the trained link where the configuration uses it (R337). -/
def State.train (s : State) (g : Nat) (c : GateConfig) (k : SinkSeen) : State :=
  let off (x : Gate) : Gate := { x with irq := false, retryAt := none, linked := false, videoNext := false, fec := false, sink := some k }
  if !c.sinkFits k then (s.updGate g fun x => { off x with mustTrain := false, capMismatch := true }).linkEvent g 3
  else if k.trains then
    (s.updGate g fun x => { off x with mustTrain := false, videoNext := true, ppsSent := false, fec := c.fec }).linkEvent g 0
  else (s.updGate g fun x => { off x with trainAt := s.clock.clap + 25_000_000 }).linkEvent g 1

/-- An IRQ_HPD that reports no loss leaves the link; a training that waits for its retry still does. -/
def Gate.irqDone (x : Gate) : Gate :=
  { x with irq := false, mustTrain := x.retryAt.isSome, trainAt := x.retryAt.getD x.trainAt, retryAt := none }

def execLinkTraining (g : Fin 4) (seen : SinkSeen) (s : State) : Result :=
  .next (let s0 := s.fresh
    let x := s0.gate g.val
    if !s0.firmwareUp || x.unplugged || !s0.level (.hpd g) || !x.mustTrain then s0
    else match (if x.capMismatch then none else x.cfg) with
      -- a dark gate, or one whose link stays off until the next OUTPUT_CONFIGURE: the capabilities are read, nothing is trained
      | none => s0.updGate g.val fun y => { y with sink := some seen, mustTrain := false, irq := false, retryAt := none }
      | some c =>
        if !x.runningGen then s0
        else
          let s1 := (s0.advanceTo x.trainAt).settleGate g.val
          (if x.irq then
            (if !seen.lost then s1.updGate g.val Gate.irqDone
             else ((s1.updGate g.val fun y => { y with linked := false, videoNext := false }).linkEvent g.val 2).train g.val c seen)
          else s1.train g.val c seen).genNow g.val)

/-! ## GENLOCK_IN (R357) -/

/-- The expected reference period in 2^-32 tick. -/
def GateConfig.genPeriod (c : GateConfig) : Nat := c.ratio * lineTime c.hTotal c.vTotal c.nominal

/-- The gate follows the reference. -/
def Gate.genlocked (x : Gate) : Option GateConfig :=
  match x.cfg with
  | some c => if c.genlock && x.runningGen then some c else none
  | none => none

/-- A rate fault: the edge is ignored, the genlock state stays (R357). -/
def State.genFault (s : State) (g : Nat) : State := s.gateEvent g evGenlock [Int.ofNat GenlockState.rateFault.code]

/-- An accepted rising edge at `t` (2^-32 tick) for one gate. -/
def State.genEdge (s : State) (g t : Nat) : State :=
  let x := s.gate g
  match x.genlocked, x.genEdges with
  | none, _ => s
  | some c, a :: _ =>
    if 2 * (t - a) < c.genPeriod then s.genFault g
    else s.updGate g fun y => { y with genEdges := [t, a], genLast := some t }
  | some _, [] => s.updGate g fun y => { y with genEdges := [t], genLast := some t }

/-- Every gate that follows the reference, after the events that come before GENLOCK in the tick. -/
def State.onGenlocked (s : State) (f : State → Nat → State) : State :=
  (List.range 4).foldl (fun s g => if ((s.gate g).genlocked).isSome then f ((s.settleGate g).genNow g) g else s) s

/-- What a level on GENLOCK_IN comes to. -/
def State.genlockSeen (r : State × EdgeSeen) (rejected : Bool) : State :=
  match r.2 with
  | .accepted t => if r.1.level .genlock then r.1.onGenlocked fun s g => s.genEdge g (t * 2 ^ 29) else r.1
  | .fault => r.1.onGenlocked State.genFault
  | .none => if rejected then r.1.onGenlocked State.genFault else r.1

def execGenlockEdge (e : Edge) (s : State) : Result :=
  .next (let s0 := s.fresh
    State.genlockSeen (s0.edge .genlock e) (decide (e.samples < 17) && !(s0.filtered .genlock == e.level)))

def execGenlockLost (g : Fin 4) (s : State) : Result :=
  .next (let s0 := s.fresh
    let x := s0.gate g.val
    match x.genlocked with
    | none => s0
    | some c =>
      match x.genLast with
      | some a =>
        -- an edge in the sample of the expiry comes first (R515, log 136)
        let s1 := (((s0.advanceTo ((a + 2 * c.genPeriod) / subTicks + 1)).settleGate g.val).genNow g.val).updGate g.val fun y =>
          { y with genEdges := [], genLast := none, genGood := 0 }
        if x.genState = .lost then s1 else s1.setGenlock g.val .lost
      | none =>
        if x.genState ≠ .lost ∧ x.begun ∧ 2 * c.ratio ≤ x.frame then ((s0.settleGate g.val).genNow g.val).setGenlock g.val .lost else s0)

end Sys2Proof.Machine
end

