-- ==== Sys2Proof/Machine/Registers.lean ====
section
/-!
DEFINITION. The host's accesses (R435 to R450): registers of BAR 0, the mailbox's submission, MSI-X, BAR 2 windows,
configuration requests, and the host island's reset and return (R30, R449, R450).
-/
namespace Sys2Proof.Machine

/-- The host can reach the device: neither its island nor the chip is in reset (R30, R509, R515). -/
def State.hostThere (s : State) (f : State → State) : Result :=
  .next (if s.fresh.host.inReset || s.chipInReset then s.fresh else f s.fresh)

/-! ## Mailbox registers (R461) -/

def chanBit (c : Nat) : BitVec 16 := BitVec.ofNat 16 (2 ^ c)

def State.mboxRefuse (s : State) (c : Nat) : State :=
  ({ s with dev := { s.dev with mboxError := s.dev.mboxError ||| chanBit c } }).accessViolation 12 statusAccess

/-- MBOX_SUBMIT: accepted in state IDLE or DONE. -/
def State.submit (s : State) (v : Word32) : State :=
  let c := v.toNat % 16
  if bitOf s.dev.mboxBusy.toNat c then s.mboxRefuse c
  else
    { s with dev := { s.dev with mboxBusy := s.dev.mboxBusy ||| chanBit c, mboxDone := s.dev.mboxDone &&& ~~~ chanBit c },
             mbox := { s.mbox with order := s.mbox.order ++ [c] } }

def execMboxSubmit (v : Word32) (s : State) : Result := s.hostThere fun s => s.submit v

def State.clearDone (s : State) (v : Word32) : State :=
  { s with dev := { s.dev with mboxDone := rw1c s.dev.mboxDone (v.setWidth 16) } }
def State.clearMboxError (s : State) (v : Word32) : State :=
  { s with dev := { s.dev with mboxError := rw1c s.dev.mboxError (v.setWidth 16) } }
def State.clearErrStatus (s : State) (v : Word32) : State := { s with err := { s.err with status := rw1c s.err.status v } }
def State.clearGateEvents (s : State) (g : Nat) (v : Word32) : State :=
  s.updGate g fun x => { x with events := rw1c x.events (v.setWidth 7) }

def execMboxDoneClear (v : Word32) (s : State) : Result := s.hostThere fun s => s.clearDone v
def execMboxErrorClear (v : Word32) (s : State) : Result := s.hostThere fun s => s.clearMboxError v
def execErrStatusClear (v : Word32) (s : State) : Result := s.hostThere fun s => s.clearErrStatus v
def execGateEventsClear (g : Fin 4) (v : Word32) (s : State) : Result := s.hostThere fun s => s.clearGateEvents g.val v

/-! ## Latching reads -/

/-- A 64-bit value read at its low half: both halves in an 8-byte read. -/
def State.readHalf (s : State) (v : Nat) (wide : Bool) : State := s.answer (leBytes (if wide then 8 else 4) v)

/-- The upper half that a read of the lower half latches. -/
def hiHalf (v : Nat) : Word32 := BitVec.ofNat 32 (v / 2 ^ 32)

def State.latchClap (s : State) (wide : Bool) : State :=
  ({ s with dev := { s.dev with clapHi := hiHalf s.hostClap } }).readHalf s.hostClap wide
def State.latchBeat (s : State) (wide : Bool) : State :=
  ({ s with dev := { s.dev with beatHi := hiHalf (s.hostClap / 500) } }).readHalf (s.hostClap / 500) wide
def State.latchLastBeat (s : State) (wide : Bool) : State :=
  ({ s with dev := { s.dev with lastBeatHi := hiHalf s.errLastBeat } }).readHalf s.errLastBeat wide
def State.latchStart (s : State) (g : Nat) (wide : Bool) : State :=
  (s.updGate g fun x => { x with startHi := hiHalf x.startTick }).readHalf (s.gate g).startTick wide
def State.latchFpx (s : State) (g : Nat) (wide : Bool) : State :=
  (s.updGate g fun x => { x with fpxHi := hiHalf x.fpx }).readHalf (s.gate g).fpx wide

def execClapLoRead (wide : Bool) (s : State) : Result := s.hostThere fun s => s.latchClap wide
def execBeatLoRead (wide : Bool) (s : State) : Result := s.hostThere fun s => s.latchBeat wide
def execErrLastBeatLoRead (wide : Bool) (s : State) : Result := s.hostThere fun s => s.latchLastBeat wide
def execGateStartLoRead (g : Fin 4) (wide : Bool) (s : State) : Result := s.hostThere fun s => s.latchStart g.val wide
def execGateFpxLoRead (g : Fin 4) (wide : Bool) (s : State) : Result := s.hostThere fun s => s.latchFpx g.val wide

/-! ## The device event ring and MSI-X (R448, R460) -/

/-- DEV_EVENT_CONSUMER: a value in [consumer, producer] frees slots; another is logged with ring index 0xFF. -/
def State.writeConsumer (s : State) (v : Word32) : State :=
  let r := s.dev.ring
  let used := (r.producer + 2 ^ 32 - r.consumer % 2 ^ 32) % 2 ^ 32
  if (v.toNat + 2 ^ 32 - r.consumer % 2 ^ 32) % 2 ^ 32 ≤ used then
    { s with dev := { s.dev with ring := { r with consumer := v.toNat } } }
  else s.doorbellIgnored 0xFFFF 0xFF v.toNat

def execDevEventConsumer (v : Word32) (s : State) : Result := s.hostThere fun s => s.writeConsumer v

/-- A dword of the MSI-X table; a vector that becomes unmasked sends its pending message. -/
def State.writeMsix (s : State) (i : Nat) (v : Word32) : State :=
  ({ s with host := { s.host with msix := (i, v) :: s.host.msix.filter fun e => !(e.1 == i) } }).flushPending

def execMsixTableWrite (dword : Fin 8192) (v : Word32) (s : State) : Result := s.hostThere fun s => s.writeMsix dword.val v

/-! ## Writes of BAR 0 registers (R438, R443) -/

/-- A write into a mailbox channel; a BUSY channel refuses it (R461). -/
def State.writeChannel (s : State) (o : Nat) (v : Word32) : State :=
  let c := (o - 0x2000) / 256
  if bitOf s.dev.mboxBusy.toNat c then s.mboxRefuse c
  else s.setChan c (patch (s.chanBytes c) (o % 256) (leBytes 4 v.toNat))

/-- One 4-byte write; read-only and unlisted offsets ignore it. -/
def State.write4 (s : State) (o : Nat) (v : Word32) : State :=
  let n := v.toNat
  if o = 0x010 then s.submit v
  else if o = 0x018 then s.clearDone v
  else if o = 0x01C then s.clearMboxError v
  else if o = 0x020 then { s with dev := { s.dev with
      bar2Base := s.dev.bar2Base / 2 ^ 32 * 2 ^ 32 + n / 2 ^ 28 * 2 ^ 28 } }
  else if o = 0x024 then { s with dev := { s.dev with bar2Base := n % 2 ^ 16 * 2 ^ 32 + s.dev.bar2Base % 2 ^ 32 } }
  else if o = 0x02C then s.writeConsumer v
  else if o = 0x034 then { s with dev := { s.dev with scratch := v } }
  else if 0x1000 ≤ o ∧ o < 0x2000 then
    { s with doorbells := s.doorbells ++ [(⟨(o - 0x1000) / 4, n % 256, n / 256, s.copy hostIsland⟩ : DoorbellWrite)] }
  else if 0x2000 ≤ o ∧ o < 0x3000 then s.writeChannel o v
  else if o = 0x3000 then s.clearErrStatus v
  else if 0x5000 ≤ o ∧ o < 0x5100 ∧ o % 0x40 = 0 then s.clearGateEvents ((o - 0x5000) / 0x40) v
  else if 0x8000 ≤ o ∧ o < 0x1_0000 then s.writeMsix ((o - 0x8000) / 4) v
  else s

/-- A bad access of BAR 0: a write is discarded, a read returns ones; both are access violations (R438). -/
def State.badAccess (s : State) (write : Bool) (size : Nat) : State :=
  let s1 := s.accessViolation 12 statusAccess
  if write then s1 else s1.answer (List.replicate size 0xFF)

def execBar0RegisterWrite (offset : Nat) (lo : Word32) (hi : Option Word32) (s : State) : Result :=
  s.hostThere fun s =>
    match hi with
    | none => if offset % 4 ≠ 0 then s.badAccess true 4 else s.write4 offset lo
    | some h => if offset % 8 ≠ 0 then s.badAccess true 8 else (s.write4 offset lo).write4 (offset + 4) h

/-- The access is one that R438 accepts. -/
def goodAccess (offset size : Nat) : Bool := (size == 4 && offset % 4 == 0) || (size == 8 && offset % 8 == 0)

def execBar0BadAccess (write : Bool) (offset size : Nat) (s : State) : Result :=
  s.hostThere fun s => if goodAccess offset size then s else s.badAccess write size

/-! ## BAR 2 (R228, R439, R440) -/

/-- The device address of an offset of BAR 2: the low bits of the base that break its alignment are ignored. -/
def State.bar2Address (s : State) (offset : Nat) : Nat := s.dev.bar2Base / 2 ^ s.dev.bar2Size * 2 ^ s.dev.bar2Size + offset

/-- Every byte lies in one host window that allows the access, and the firewall passes it. -/
def State.hostMay (s : State) (write : Bool) (a n : Nat) : Bool :=
  decide (a + n ≤ Config.dramEnd s.fuses.grade) && s.wall.passes .host write a n &&
  s.pool.windows.any fun w => decide (w.base ≤ a) && decide (a + n ≤ w.base + w.len) && (w.write || !write)

def execBar2Access (offset len : Nat) (write : Option (List Byte)) (s : State) : Result :=
  s.hostThere fun s =>
    let n := match write with
      | some bs => bs.length
      | none => len
    let a := s.bar2Address offset
    if n = 0 || decide (2 ^ s.dev.bar2Size < offset + n) then s
    else if !s.hostMay write.isSome a n then
      let s1 := s.accessViolation 12 statusWindow
      if write.isSome then s1 else s1.answer (List.replicate n 0xFF)
    else
      match write with
      | some bs => s.writeBytes a bs
      | none =>
        let s1 := s.answer (s.readBytes a n)
        { s1 with out := { s1.out with poisoned := s.poisonedAt a n } }

/-! ## Configuration (R435, R437, R448, R476) -/

/-- The capabilities of Table 14.1 and no others, by their PCI Express IDs, with the dwords of their structures (PRESUMED, log 15): of the
standard ones Power Management, PCI Express and MSI-X, of the extended ones AER, Device Serial Number, Resizable BAR, Data Link Feature,
Physical Layer 16.0 GT/s, Lane Margining and Physical Layer 32.0 GT/s. -/
def capabilityIds (extended : Bool) : List (Nat × Nat) :=
  if extended then [(0x01, 18), (0x03, 3), (0x15, 3), (0x25, 3), (0x26, 12), (0x27, 18), (0x2A, 12)] else [(0x01, 2), (0x10, 15), (0x11, 3)]

/-- Insert a capability by its key. -/
def insertCapability (extended : Bool) (c : Nat × Nat) : List (Nat × Nat) → List (Nat × Nat)
  | [] => [c]
  | d :: ds => if Config.capabilityKey extended c.1 ≤ Config.capabilityKey extended d.1 then c :: d :: ds
    else d :: insertCapability extended c ds

/-- Place structures one after the other from a dword on, with the gaps that leave room for all: capability ID and first dword. -/
def placeCapabilities (extended : Bool) (at_ slack : Nat) : List (Nat × Nat) → List (Nat × Nat)
  | [] => []
  | c :: cs =>
    let g := min (Config.capabilityGap extended c.1) slack
    (c.1, at_ + g) :: placeCapabilities extended (at_ + g + c.2) (slack - g) cs

/-- The capability list: in order of the keys, without overlap, from byte 0x40 to 0xFF, or from byte 0x100, where the first extended
capability stands, to 0xFFF. -/
def capabilityList (extended : Bool) : List (Nat × Nat) :=
  match (capabilityIds extended).foldl (fun cs c => insertCapability extended c cs) [] with
  | [] => []
  | c :: cs => if extended then (c.1, 0x40) :: placeCapabilities true (0x40 + c.2) (960 - 69) cs
    else placeCapabilities false 0x10 (48 - 20) (c :: cs)

/-- First dword of a capability, and the byte at which the one after it stands, 0 at the end of the list. -/
def capabilityAt (extended : Bool) (id : Nat) : Nat :=
  match (capabilityList extended).find? fun c => c.1 == id with
  | some c => c.2
  | none => 0
def capabilityNext (extended : Bool) (id : Nat) : Nat :=
  match (capabilityList extended).dropWhile fun c => !(c.1 == id) with
  | _ :: c :: _ => 4 * c.2
  | _ => 0

/-- A capability of Table 14.1 stands at the dword at `o` less `k` dwords. -/
def capabilityDword (o : Nat) (extended : Bool) (id k : Nat) : Bool := o == 4 * (capabilityAt extended id + k)

/-- Put `x` into bits `hi` to `lo` of a dword. -/
def putBits (v hi lo x : Nat) : Nat := v % 2 ^ lo + x % 2 ^ (hi + 1 - lo) * 2 ^ lo + v / 2 ^ (hi + 1) * 2 ^ (hi + 1)

/-- A dword of a capability structure (R435), with the bits that the manual leaves to PCI Express from `v` (log 15): Power Management
with D0 and D3hot alone; MSI-X with 2,048 vectors; PCI Express with payloads of at most 512 B, Function Level Reset, a link of at most
32.0 GT/s and 16 lanes and the speeds of Table 14.1; Resizable BAR of BAR 2 with its sizes from 2^28 to 2^37 bytes; the Device Serial
Number (the chip ID of R380); the IDs of the others; and in each the place of the next, so that the lists hold no other. -/
def State.capability (s : State) (o v : Nat) : Option Nat :=
  let id16 (id : Nat) : Nat := putBits (putBits v 15 0 id) 31 20 (capabilityNext true id)
  let id8 (id : Nat) : Nat := putBits (putBits v 7 0 id) 15 8 (capabilityNext false id)
  if capabilityDword o false 0x01 0 then some (putBits (id8 0x01) 26 25 0)
  else if capabilityDword o false 0x01 1 then some (v / 4 * 4 + if s.host.d3hot then 3 else 0)
  else if capabilityDword o false 0x11 0 then some (id8 0x11 % 2 ^ 16 + 2 ^ 16 * 2047 + 2 ^ 31 * bitN s.host.msixEnable)
  else if capabilityDword o false 0x10 0 then some (id8 0x10)
  else if capabilityDword o false 0x10 1 then some (putBits (putBits v 2 0 2) 28 28 1)
  else if capabilityDword o false 0x10 2 then some (putBits v 15 15 0)
  else if capabilityDword o false 0x10 3 then some (putBits (putBits v 3 0 5) 9 4 16)
  else if capabilityDword o false 0x10 11 then some (putBits v 7 1 0x1F)
  else if capabilityDword o true 0x03 0 then some (id16 0x03)
  else if capabilityDword o true 0x03 1 then some (s.fuses.chipId % 2 ^ 32)
  else if capabilityDword o true 0x03 2 then some (s.fuses.chipId / 2 ^ 32 % 2 ^ 32)
  else if capabilityDword o true 0x15 0 then some (id16 0x15)
  else if capabilityDword o true 0x15 1 then some (2 ^ 4 * ((2 ^ 10 - 1) * 2 ^ 8) % 2 ^ 32)
  else if capabilityDword o true 0x15 2 then some (2 + 2 ^ 5 + 2 ^ 8 * (s.dev.bar2Size - 20))
  else ([0x01, 0x25, 0x26, 0x27, 0x2A].find? fun id => capabilityDword o true id 0).map id16

/-- A configuration dword (R435, R437): vendor and device ID, class code, a header of one function, the head of the capability list, BAR 0
(64-bit, non-prefetchable, 64 KiB), BAR 2 (64-bit, prefetchable, of its present size), BAR 4 (none), the capabilities; the rest, and the
places of the header's fields and of the capabilities, are PCI Express's (PRESUMED, log 15). -/
def State.configDword (s : State) (o : Nat) : Nat :=
  let v := (Config.configSpace o).toNat
  match o with
  | 0x00 => Config.pciVendorId.toNat + 2 ^ 16 * Config.part s.fuses.grade
  | 0x08 => v % 256 + 0x12_0000 * 256
  | 0x10 => s.host.bar0 % 2 ^ 32 + 4
  | 0x14 => s.host.bar0 / 2 ^ 32
  | 0x18 => s.host.bar2 % 2 ^ 32 + 12
  | 0x1C => s.host.bar2 / 2 ^ 32
  | 0x04 => putBits v 20 20 1
  | 0x0C => putBits v 23 16 0
  | 0x20 | 0x24 => 0
  | 0x34 => putBits v 7 0 (((capabilityList false).head?.map fun c => 4 * c.2).getD 0)
  | _ => (s.capability o v).getD v

/-- Replace the upper or the lower dword of a base address, whose bits below the BAR's size read as 0. -/
def setBase (old size : Nat) (upper : Bool) (v : Nat) : Nat :=
  let w := v % 2 ^ 32
  (if upper then w * 2 ^ 32 + old % 2 ^ 32 else old / 2 ^ 32 * 2 ^ 32 + w) / 2 ^ size * 2 ^ size

/-- Set the size of BAR 2 (R437). -/
def State.resizeBar2 (s : State) (n : Nat) : State :=
  if within 28 37 n then { s with dev := { s.dev with bar2Size := n }, host := { s.host with bar2 := s.host.bar2 / 2 ^ n * 2 ^ n } } else s

/-- Set or clear the MSI-X enable bit (R448). -/
def State.enableMsix (s : State) (on : Bool) : State := ({ s with host := { s.host with msixEnable := on } }).flushPending

/-- A configuration write (R435, R437, R448): the base addresses, the power state (D0 or D3hot), the MSI-X enable bit and the size of
BAR 2, and the bit of PCI Express's Device Control that asks for a Function Level Reset (R449); every other field is read-only or PCI
Express's own (log 15). -/
def State.configWrite (s : State) (o v : Nat) : State :=
  match o with
  | 0x10 => { s with host := { s.host with bar0 := setBase s.host.bar0 16 false v } }
  | 0x14 => { s with host := { s.host with bar0 := setBase s.host.bar0 16 true v } }
  | 0x18 => { s with host := { s.host with bar2 := setBase s.host.bar2 s.dev.bar2Size false v } }
  | 0x1C => { s with host := { s.host with bar2 := setBase s.host.bar2 s.dev.bar2Size true v } }
  | 0x00 | 0x08 | 0x20 | 0x24 => s
  | _ =>
    if capabilityDword o false 0x01 0 then s
    else if capabilityDword o false 0x01 1 then
      if v % 4 = 0 then { s with host := { s.host with d3hot := false } }
      else if v % 4 = 3 then { s with host := { s.host with d3hot := true } }
      else s
    else if capabilityDword o false 0x11 0 then s.enableMsix (bitOf v 31)
    else if capabilityDword o false 0x10 2 then (if bitOf v 15 then s.hostReset else s)
    else if capabilityDword o true 0x15 2 then s.resizeBar2 (v / 2 ^ 8 % 2 ^ 6 + 20)
    else s

/-- Requests before firmware is ready end with Configuration Request Retry Status (R476). -/
def State.retryStatus (s : State) : Bool := !s.dev.fwReady && !(s.dev.fwPhase == 4)

def execConfigRequest (access : ConfigAccess) (s : State) : Result :=
  s.hostThere fun s =>
    if s.retryStatus then { s with out := { s.out with crs := true } }
    else
      match access with
      | .read o => s.answer (leBytes 4 (s.configDword o))
      | .resizeBar2 n => s.resizeBar2 n
      | .msixEnable on => s.enableMsix on
      | .write o v => s.configWrite o v

/-! ## Loss and return of the host (R449, R450) -/

def execHostIslandReset (_cause : HostResetCause) (s : State) : Result := .next s.fresh.hostReset

/-- The link has trained again: the island leaves reset. -/
def execHostLinkUp (s : State) : Result :=
  .next (let s0 := s.fresh
    if !s0.host.inReset || !s0.level .perstN then s0
    else
      let e := (s0.dev.hostEpoch + 1) % 256
      (({ s0 with host := { s0.host with inReset := false, lossBeat := none },
                  dev := { s0.dev with hostEpoch := e } }).postDevice 0x0026 1 0 [Int.ofNat e]))

/-- 50,000 beats after the host was lost, the streams opened with close_on_host_loss close. -/
def execHostLossClose (s : State) : Result :=
  .next (let s0 := s.fresh
    match s0.host.lossBeat with
    | none => s0
    | some b =>
      if !s0.host.inReset || !s0.firmwareUp then s0
      else
        let s1 := s0.advanceTo (500 * (b + 50_000))
        s1.openStreams.foldl (fun s i =>
          let x := s.stream i
          if x.p.closeOnLoss && !(x.state == .closing) then (s.beginClose i).finishClose i else s) s1)

end Sys2Proof.Machine
end

