-- ==== Sys2Proof/Machine/Splice.lean ====
section
/-!
DEFINITION. The splice links of chapter 12: flits (R367 to R370), replay and retraining
(R372 to R375), credits (R376), packets that cross chips (R371, R378, R284), training (R364, R366) and SPLICE_LINK (R365).
-/
namespace Sys2Proof.Machine

/-! ## Packets that arrive -/

/-- A response ends the wait of its request at a port: the request's tag is free, a write of this chip is acknowledged (R379, R397), and
a remote read has its data (R394). -/
def State.takeResponse (s : State) (p : Nat) (bytes : List Byte) : State :=
  match (s.port p).waiting.find? fun q => Config.packetAnswers (bytes.take 32) q.1 with
  | none => s
  | some q =>
    let fetch := (s.set.inFlight.find? fun f => f.tag == q.2).bind (·.fetch)
    ((s.noteFetched fetch (bytes.drop 32) (Config.packetPoisoned (bytes.take 32))).dropTag q.2).updPort p fun x =>
      { x with waiting := x.waiting.erase q }

/-- A whole packet has arrived at a port (R378, R284): the port increments hops, and delivers, forwards or discards it. A response for
this chip ends at its requester (R379). -/
def State.deliver (s : State) (p : Fin 6) (rsp : Bool) (bytes : List Byte) : State :=
  let h := bytes.take 32
  let s1 := if rsp then s.takeResponse p.val bytes else s
  let hops := packetHops h + 1
  if 16 ≤ hops then
    let s2 := { s1 with set := { s1.set with hopErrors := s1.set.hopErrors + 1 } }.detectBrief .spliceHopLimit p.val none
    if !rsp && Config.packetWaits h then s2.errorResponse h eLink else s2
  else
    let moved := patch bytes 0x1A (leBytes 1 hops)
    if !rsp then s1.admitPacket p false moved
    else
      (if packetDst h = s1.set.index then { s1 with set := { s1.set with inbox := s1.set.inbox ++ [moved] } }
       else s1.admitPacket p true moved).resumeRequests

/-- Cut whole packets off the bytes of one class: each a 32-byte header and its data (R369). -/
def cutPackets : Nat → List Byte → List (List Byte) × List Byte
  | 0, bs => ([], bs)
  | n + 1, bs =>
    let len := 32 + (Config.packetData (bs.take 32)).val
    if 32 ≤ bs.length ∧ len ≤ bs.length then
      let r := cutPackets n (bs.drop len)
      (bs.take len :: r.1, r.2)
    else ([], bs)

/-! ## Flits (Table 12.2) -/

/-- A flit of the given kind, flags, seq, first, fill and payload, with the port's ack and the credits it returns. -/
def flitOf (x : Port) (kind flags seq first fill : Nat) (payload : List Byte) : List Byte :=
  let ack := if x.ackValid then (x.rxSeq + 4095) % 4096 + 0x8000 else 0
  let body := leBytes 1 kind ++ leBytes 1 flags ++ leBytes 2 seq ++ leBytes 2 ack ++ leBytes 1 (min 255 x.reqReturn) ++
    leBytes 1 (min 255 x.rspReturn) ++ leBytes 1 first ++ leBytes 1 fill ++ zeros 2 ++ slice payload 0 240
  body ++ leBytes 4 (crc32c body)

/-- Send a flit: it takes the credits that wait to be returned with it. -/
def State.sendFlit (s : State) (p : Nat) (flit : List Byte) : State :=
  let s1 := s.updPort p fun x => { x with reqReturn := x.reqReturn - min 255 x.reqReturn,
                                          rspReturn := x.rspReturn - min 255 x.rspReturn }
  { s1 with out := { s1.out with flit := some (p, flit) } }

/-- Payload of the TIME flit (Table 12.5); a chip not configured is a set of one with index 0 (R380), and root_offset counts the
corrections made since e was measured (R383). The fraction of a tick at which a flit leaves is a free value (log 43). -/
def State.timePayload (s : State) (p : Nat) : List Byte :=
  let echo := match (s.port p).peer with
    | some (bs, rx, frac) =>
      (1, leBytes 8 (leNat bs 0 8) ++ leBytes 1 (leNat bs 8 1) ++ zeros 3 ++ leBytes 8 rx ++ leBytes 1 frac)
    | none => (0, zeros 21)
  let depth := if s.clock.state == .root then 0 else if s.clock.state == .free then 0xFF else s.clock.depth
  leBytes 8 (s.copy spliceIsland) ++ leBytes 1 (Config.freeValue s.free % 256) ++ leBytes 1 echo.1 ++ zeros 2 ++ echo.2 ++
  leBytes 1 s.set.index ++ leBytes 1 (clapCode s.clock.state) ++ leBytes 1 depth ++
  leBytes 8 s.fuses.chipId ++ slice s.setDigestNow 0 32 ++
  leBytes 4 (ofSigned 32 (if s.clock.state == .root then 0 else s.clock.offset + s.clock.moved)) ++ zeros 160

/-- Bytes of one class for one flit: the bytes, the offset of the first packet that starts in them, whether all belong to
urgent packets, and what stays queued. With `onlyUrgent`, packing stops at the first packet that is not urgent. -/
def packClass (rsp onlyUrgent : Bool) : List Packet → List Byte → Option Nat → Bool → List Byte × Option Nat × Bool × List Packet
  | [], acc, first, urgent => (acc, first, urgent, [])
  | k :: ks, acc, first, urgent =>
    if k.rsp != rsp then
      let r := packClass rsp onlyUrgent ks acc first urgent
      (r.1, r.2.1, r.2.2.1, k :: r.2.2.2)
    else if 240 ≤ acc.length ∨ (onlyUrgent && !k.urgent) = true then (acc, first, urgent, k :: ks)
    else
      let room := 240 - acc.length
      let first1 := if first.isSome ∨ k.begun = true then first else some acc.length
      let acc1 := acc ++ k.bytes.take room
      if k.bytes.length ≤ room then packClass rsp onlyUrgent ks acc1 first1 (urgent && k.urgent)
      else (acc1, first1, urgent && k.urgent, { k with bytes := k.bytes.drop room, begun := true } :: ks)

/-- A class can send a DATA flit: room in the retry buffer, and a credit (R372, R376, R27). -/
def Port.canSend (x : Port) (rsp : Bool) : Bool :=
  let credits := if rsp then x.rspCredits else x.reqCredits
  decide (x.kept.length < 256) && (match x.queue.find? fun k => k.rsp == rsp with
    | none => false
    | some k => decide (Config.flitReserved < credits) || (k.urgent && decide (0 < credits)))

/-- Send a DATA flit of a class (R369, R370). -/
def State.sendData (s : State) (p : Nat) (rsp : Bool) : State :=
  let x := s.port p
  let credits := if rsp then x.rspCredits else x.reqCredits
  let r := packClass rsp (!decide (Config.flitReserved < credits)) x.queue [] none true
  let flit := flitOf x 1 (bitN rsp + 2 * bitN r.2.2.1) x.txSeq (r.2.1.getD 0xFF) r.1.length r.1
  let s1 := s.updPort p fun y =>
    { y with queue := r.2.2.2, txSeq := (x.txSeq + 1) % 4096, kept := y.kept ++ [(x.txSeq, flit)],
             lastAck := if y.kept.isEmpty then s.clock.clap else y.lastAck,
             reqCredits := if rsp then y.reqCredits else y.reqCredits - 1,
             rspCredits := if rsp then y.rspCredits - 1 else y.rspCredits,
             rspRun := if rsp then (if x.canSend false then x.rspRun + 1 else 0) else 0 }
  s1.sendFlit p flit

/-- Send a kept flit again with the newest ack and credits (R374). -/
def State.sendAgain (s : State) (p : Nat) (old : List Byte) : State :=
  let x := s.port p
  let flit := flitOf x 1 (leNat old 1 1) (leNat old 2 2) (leNat old 8 1) (leNat old 9 1) (slice old 0x0C 240)
  (s.updPort p fun y => { y with replay := y.replay.drop 1 }).sendFlit p flit

/-- One flit slot of a port (R370). DATA goes only to a member (R381). -/
def execFlitSlot (port : Fin 6) (s : State) : Result :=
  .next (let s0 := s.fresh
    let p := port.val
    let x := s0.port p
    let member := (s0.memberAt p).isSome
    if !(x.state == .up) then s0
    else if x.retryDue then
      (s0.updPort p fun y => { y with retryDue := false, retrySent := true, retryAt := s0.clock.clap }).sendFlit p
        (flitOf x 2 0 0 0 0 (leBytes 2 x.rxSeq))
    else if 200 < s0.copy spliceIsland % 500 ∧ x.timeBeat ≠ some (s0.copy spliceIsland / 500) then
      ((s0.updPort p fun y => { y with timeBeat := some (s0.copy spliceIsland / 500) }).sendFlit p
        (flitOf x 3 0 0 0 0 (s0.timePayload p))).spend
    else
      match member, x.replay with
      | false, _ => s0.sendFlit p (flitOf x 0 0 0 0 0 [])
      | true, old :: _ => s0.sendAgain p old
      | true, [] =>
        if x.canSend true && !(decide (3 ≤ x.rspRun) && x.canSend false) then (s0.sendData p true).resumeRequests
        else if x.canSend false then (s0.sendData p false).resumeRequests
        else s0.sendFlit p (flitOf x 0 0 0 0 0 []))

/-! ## Receiving -/

/-- Bad flits of one second that are more than one in 10^6 (R366): a port sends 218.75 × 10^6 flits a second, half of them at two
lanes (R363, R364). -/
def Port.badLimit (x : Port) : Nat := if x.width = 4 then 219 else 110

/-- Note a flit discarded for bad CRC; too many in one second make the port degraded (R366). -/
def State.noteRejected (s : State) (p : Nat) : State :=
  let now := s.clock.clap
  let s1 := s.updPort p fun x =>
    { x with rejected := (now :: x.rejected.filter fun t => decide (now < t + Config.ticksPerSecond)).take x.badLimit }
  if (s1.port p).badLimit ≤ (s1.port p).rejected.length ∧ (s1.port p).degraded = false then
    (s1.updPort p fun x => { x with degraded := true }).postLink p
  else s1

/-- A discarded flit asks for one RETRY (R373). -/
def State.askRetry (s : State) (p : Nat) : State :=
  s.updPort p fun x => if x.retrySent then x else { x with retryDue := true }

/-- The ack and the credits of a flit that is not discarded (R368, R372, R376). -/
def State.takeAck (s : State) (p : Nat) (bs : List Byte) : State :=
  let ack := leNat bs 4 2
  s.updPort p fun x =>
    let covered := bitOf ack 15 && x.kept.any fun k => k.1 == ack % 4096
    let kept := if covered then (x.kept.dropWhile fun k => !(k.1 == ack % 4096)).drop 1 else x.kept
    { x with kept := kept, replay := x.replay.filter fun f => kept.any fun k => k.1 == leNat f 2 2,
             lastAck := if covered then s.clock.clap else x.lastAck, replays := if covered then 0 else x.replays,
             reqCredits := min Config.flitCredits (x.reqCredits + leNat bs 6 1),
             rspCredits := min Config.flitCredits (x.rspCredits + leNat bs 7 1) }

/-- The flits whose payload bytes still stand among the `left` newest bytes, the oldest of them in part. -/
def heldFlits : List Nat → Nat → List Nat
  | [], _ => []
  | n :: ns, left => if left ≤ ns.sum then heldFlits ns left else n :: ns

/-- The bytes of an accepted DATA flit join those of its class: whole packets are cut off, and the flits whose bytes all belong to them
await the credit's return (R369, R376). -/
def Port.accept (x : Port) (rsp : Bool) (got : List Byte) (n : Nat) : Port × List (List Byte) :=
  let cut := cutPackets (got.length / 32 + 1) got
  let lens := (if rsp then x.rspFlits else x.reqFlits) ++ [n]
  let kept := heldFlits lens cut.2.length
  let done := lens.length - kept.length
  let y := { x with rxSeq := (x.rxSeq + 1) % 4096, ackValid := true, retrySent := false, retryDue := false }
  (if rsp then { y with asmRsp := cut.2, rspFlits := kept, unreturnedRsp := y.unreturnedRsp + done }
   else { y with asmReq := cut.2, reqFlits := kept, unreturned := y.unreturned + done }, cut.1)

/-- A DATA flit (R373): the expected one of a member is accepted, with its ack and credits (R368); its bytes go on as packets, and its
credit returns once they have passed. -/
def State.takeData (s : State) (q : Fin 6) (bs : List Byte) : State :=
  let p := q.val
  if leNat bs 2 2 % 4096 ≠ (s.port p).rxSeq ∨ (s.memberAt p).isNone = true then s.askRetry p
  else
    let s1 := s.takeAck p bs
    let x := s1.port p
    let rsp := bitOf (leNat bs 1 1) 0
    let n := min 240 (leNat bs 9 1)
    let r := x.accept rsp ((if rsp then x.asmRsp else x.asmReq) ++ slice bs 0x0C n) n
    (r.2.foldl (fun s k => s.deliver q rsp k) (s1.updPort p fun _ => r.1)).returnHeld q

/-- One replay of flits (R374). After eight in a row without the ack advancing the port enters RETRAINING, where a ninth would be
needed. -/
def State.startReplay (s : State) (p : Nat) (flits : List (List Byte)) : State :=
  let n := (s.port p).replays
  if 8 ≤ n then s.portEnters p .retraining else s.updPort p fun x => { x with replay := flits, replays := n + 1 }

/-- A RETRY flit (R374): every kept flit from the named seq onward is sent again, which is a replay where there is one (log 96). -/
def State.takeRetry (s : State) (p : Nat) (bs : List Byte) : State :=
  let n := leNat bs 0x0C 2 % 4096
  match ((s.port p).kept.dropWhile fun k => !(k.1 == n)).map (·.2) with
  | [] => s
  | flits => s.startReplay p flits

/-! ## Offsets (R384, R386) -/

/-- A new e of R384 in 1/256 tick. ALIGNED after 16 beats of |e| < 1 tick in a row (Table 12.7). The newest e of an earlier beat is
kept beside it (R385). -/
def State.measured (s : State) (e : Int) : State :=
  let bad := decide (256 ≤ e.natAbs)
  let again := s.clock.offsetBeat == some s.beat
  let steady := if bad then 0 else if again then s.clock.steady else satAdd s.clock.steady 1 16
  let before := if again then s.clock.before else s.clock.offsetBeat.map fun b => (s.clock.offset, b)
  let c := { s.clock with offset := e, offsetBeat := some s.beat, before := before, moved := 0, steady := steady,
                          lastTime := some s.rawTick }
  ({ s with clock := c }).setClap (if 16 ≤ steady then .aligned else .acquiring)

/-- 2d of R384 in 1/256 tick, from the payload of a TIME flit that arrived at `rx` and `frac`; none without valid echo fields. -/
def twiceDelay (t : List Byte) (rx frac : Nat) : Option Int :=
  let at_ (o : Nat) : Int := Int.ofNat (256 * leNat t o 8 + leNat t (o + 8) 1)
  if leNat t 9 1 = 0 then none else some (Int.ofNat (256 * rx + frac) - at_ 0x0C - (at_ 0x00 - at_ 0x18))

/-- A round trip of 1/256 ticks in ns: a tick has 4 ns. -/
def roundTripNs (twice : Int) : Nat := twice.toNat / 64

/-- A TIME flit's payload (R381, R384): the peer's figures, the round trip, and the offset when the chip takes its clapper from this
port. -/
def State.takeTime (s : State) (p : Nat) (t : List Byte) (frac : Nat) : State :=
  let who (x : Option (List Byte × Nat × Nat)) : Option (List Byte) := x.map fun y => slice y.1 0x24 40
  let rx := s.copy spliceIsland
  let was := s.memberAt p
  let same := who (s.port p).peer == who (some (t, rx, frac))
  let twice := twiceDelay t rx frac
  let s1 := s.updPort p fun x => { x with peer := some (t, rx, frac), roundTrip := (twice.map roundTripNs).getD x.roundTrip }
  let s2 := if (s1.memberAt p).isNone && !same then s1.postDevice 0x0021 p 0 [Int.ofNat (leNat t 0x24 8)] else s1
  let lost := match was with
    | some j => s.onRoute j && !(s2.memberAt p == was)
    | none => false
  let s3 := if lost then s2.endEpoch 2 else s2
  if !(s3.clock.source == .splice) || !(s3.upstream == some p) then s3
  else
    let depth := min 15 (leNat t 0x23 1 + 1)
    let s4 := { s3 with clock := { s3.clock with depth := depth, lastTime := some s3.rawTick } }
    match twice with
    | none => s4
    | some w =>
      let d := Int.fdiv (w + Int.ofNat (Config.roundHalf s4.free).val) 2
      let t3 : Int := Int.ofNat (256 * leNat t 0 8 + leNat t 8 1)
      s4.spend.measured (Int.ofNat (256 * rx + frac) - (t3 + d) + leInt t 0x4C 4)

/-- A flit arrives at a port (R368, R373). -/
def execFlitReceive (port : Fin 6) (bytes : List Byte) (frac : Byte) (s : State) : Result :=
  .next (let s0 := s.fresh
    let p := port.val
    let bs := slice bytes 0 256
    let kind := leNat bs 0 1
    if !((s0.port p).state == .up) then s0
    else if leNat bs 0xFC 4 ≠ crc32c (bs.take 0xFC) then (s0.noteRejected p).askRetry p
    else match kind with
      | 0 => s0.takeAck p bs
      | 1 => s0.takeData port bs
      | 2 => (s0.takeAck p bs).takeRetry p bs
      | 3 => (s0.takeAck p bs).takeTime p (slice bs 0x0C 240) frac.toNat
      | _ => s0.askRetry p)

/-- 2 µs after a RETRY (R373): another may be sent. -/
def execRetryWaitExpiry (port : Fin 6) (s : State) : Result :=
  .next (let s0 := s.fresh
    let p := port.val
    let x := s0.port p
    if x.state == .up && x.retrySent then
      (s0.advanceTo (x.retryAt + 500)).updPort p fun y => { y with retrySent := false }
    else s0)

/-- Acks have stalled for 8 µs (R374). -/
def execReplayTimeout (port : Fin 6) (s : State) : Result :=
  .next (let s0 := s.fresh
    let p := port.val
    let x := s0.port p
    if !(x.state == .up) || x.kept.isEmpty then s0
    else
      let s1 := s0.advanceTo (x.lastAck + 2000)
      (s1.updPort p fun y => { y with lastAck := s1.clock.clap }).startReplay p (x.kept.map (·.2)))

/-! ## Training and states (Table 12.1) -/

/-- 10 ms, 5 ms and 100 ms in ticks. -/
def attemptTicks : Nat := 2_500_000
def trainingTicks : Nat := 1_250_000
def retrainTicks : Nat := 25_000_000

/-- Bring the clapper forward until an island's copy shows a value (R24). -/
def State.advanceCopy (s : State) (island t : Nat) : State :=
  if t ≤ s.copy island then s
  else s.advanceTo (([t - 1, t].find? fun c => decide (t ≤ islandCopy island c)).getD (t + 1))

/-- A port begins a training attempt of its own every 10 ms of its splice-island copy, or answers a peer's at once (R364). Its own first
TIME flit goes out with the attempt (DEDUCED, log 130). -/
def execSpliceTrainingAttempt (port : Fin 6) (peer : Bool) (s : State) : Result :=
  .next (let s0 := s.fresh
    let p := port.val
    let x := s0.port p
    if !(x.state == .down || x.state == .retraining) || x.trainingAt.isSome then s0
    else
      let s1 := match peer, x.attemptAt with
        | false, some t => s0.advanceCopy spliceIsland (t + attemptTicks)
        | _, _ => s0
      let s2 := s1.updPort p fun y => { y with trainingAt := some s1.clock.clap,
                                               attemptAt := if peer then y.attemptAt else some (s1.copy spliceIsland) }
      (s2.sendFlit p (flitOf (s2.port p) 3 0 0 0 0 (s2.timePayload p))).spend)

/-- The lanes that a link uses of those that work: all four, else 0 and 1, else 2 and 3; none fails the attempt (R364). -/
def lanesOf (lanes : List Bool) : Option (List Nat) :=
  let ok (i : Nat) : Bool := lanes.getD i false
  if ok 0 && ok 1 && ok 2 && ok 3 then some [0, 1, 2, 3]
  else if ok 0 && ok 1 then some [0, 1]
  else if ok 2 && ok 3 then some [2, 3]
  else none

/-- The width that the working lanes give: 4, 2 or none (R364). -/
def widthOf (lanes : List Bool) : Option Nat := (lanesOf lanes).map List.length

/-- What a training attempt settles: the lanes, and the round trip of the first TIME flits, of at most 8 µs (R364, R366). An attempt
whose flit has no valid echo has measured no round trip, and fails (DEDUCED, log 130). -/
def State.trainedTo (s : State) (seen : TrainSeen) : Option (List Nat × Nat) :=
  match lanesOf seen.lanes, twiceDelay (slice seen.time 0 240) (s.copy spliceIsland) seen.frac.toNat with
  | some ls, some w => if w ≤ 512_000 then some (ls, roundTripNs w) else none
  | _, _ => none

/-- A training attempt ends (R364, R366, R375). A port that was DOWN starts afresh; one that was RETRAINING replays from its
oldest kept flit. The peer's first TIME flit counts as one received. A returned port that reaches UP completes its UNIT_RETURN
(Table 14.24). -/
def execSpliceTrainingDone (port : Fin 6) (seen : TrainSeen) (s : State) : Result :=
  .next (let s0 := s.fresh
    let p := port.val
    let x := s0.port p
    match x.trainingAt with
    | none => s0
    | some t =>
      let s1 := s0.updPort p fun y => { y with trainingAt := none }
      match s1.trainedTo seen with
      | none => s1
      | some (ls, trip) =>
        if t + trainingTicks < s0.clock.clap then s1
        else
          let s2 := s1.updPort p fun y =>
            let z := { y with width := ls.length, lanes := ls, roundTrip := trip, degraded := false, rejected := [],
                              attemptAt := none, replays := 0, lastAck := s1.clock.clap, retrySent := false, retryDue := false }
            if x.state = .retraining then { z with replay := z.kept.map (·.2) }
            else { z with txSeq := 0, rxSeq := 0, ackValid := false, kept := [], replay := [], peer := none, timeBeat := none }
          let s3 := (s2.portEnters p .up).takeTime p (slice seen.time 0 240) seen.frac.toNat
          if (s3.waiting? (Waits.onUnit .port p)).isNone then s3
          else
            ((s3.updPort p fun y => { y with retired := false }).writeService).completeDeferred (Waits.onUnit .port p) 0
              (leBytes 1 0 ++ leBytes 1 s3.nextArrays))

/-- The buffers of a port that enters DOWN (R375): kept flits, partial packets and the requests that wait for a response go, and the
credits are those of Table 12.4 again. -/
def Port.emptied (x : Port) : Port :=
  { x with kept := [], replay := [], asmReq := [], asmRsp := [], reqFlits := [], rspFlits := [], waiting := [], peer := none,
           queue := x.queue.filter (fun k => !k.begun && (k.rsp || !Config.packetWaits (k.bytes.take 32))),
           reqCredits := Config.flitCredits, rspCredits := Config.flitCredits, reqReturn := 0, rspReturn := 0,
           unreturned := 0, unreturnedRsp := 0 }

/-- A port enters DOWN (R375): buffers go, waiting requests are answered, credits return. Leaving UP for DOWN is an error
(Table 15.7), and an epoch with a route over the port ends (R392). A clapper taken from the port loses its source (R388) before the
peer is forgotten. -/
def State.portDown (s : State) (p : Nat) : State :=
  let x := s.port p
  let member := (match x.peer with
    | some (bs, _, _) => if slice bs 0x2C 32 == s.set.digest then some (s.set.members.findIdx (· == leNat bs 0x24 8)) else none
    | none => none)
  let s1 := (s.detect .spliceDown p none .spliceEvent).portEnters p .down
  let s2 := s1.updPort p Port.emptied
  let s3 := x.waiting.foldl (fun s q => (s.failTag q.2).errorResponse q.1 eLink) s2
  let s4 := match member with
    | some j => if s3.onRoute j then s3.endEpoch 1 else s3
    | none => s3
  s4.resumeRequests

/-- 100 ms in RETRAINING (R375). -/
def execRetrainTimeout (port : Fin 6) (s : State) : Result :=
  .next (let s0 := s.fresh
    let x := s0.port port.val
    if x.state == .retraining then (s0.advanceTo (x.since + retrainTicks)).portDown port.val else s0)

/-! ## Operation tags that are held too long (R488) -/

/-- The request of a tag that was reclaimed gets an error response: a held move of the engine ends with an error status, a request
that was forwarded is answered. -/
def State.requestFails (s : State) (h : TagHold) : State :=
  match h.who, s.set.inFlight.any fun f => f.tag == h.tag with
  | .dolly e, false => { s with arr := { s.arr with held := s.arr.held.map fun m => if m.engine = e then { m with failed := true } else m } }
  | _, _ => (List.range 6).foldl (fun s p =>
      match (s.port p).waiting.find? fun q => q.2 == h.tag with
      | some q => (s.updPort p fun x => { x with waiting := x.waiting.erase q }).errorResponse q.1 eAddress
      | none => s) s

/-- An operation tag has been held for 1,000 beats: it is reclaimed and its requester gets an error response. -/
def execTagTimeout (tag : Fin 16384) (s : State) : Result :=
  .next (let s0 := s.fresh
    match s0.tags.find? fun t => t.tag == tag.val with
    | none => s0
    | some h =>
      let s1 := s0.advanceTo (h.since + 500_000)
      let s2 := (((s1.requestFails h).failTag tag.val).detectBrief .tagTimeout 0 none).resumeRequests
      { s2 with out := { s2.out with errorResponse := true } })

end Sys2Proof.Machine
end

