-- ==== Sys2Proof/Machine/Clapper.lean ====
section
/-!
DEFINITION. The clapper across a set (R382 to R389): CLAP_OUT, the CLAP_IN receiver, the correction of each beat, loss of the
source, and SET_CONFIGURE (R380, R381, R471).
-/
namespace Sys2Proof.Machine

/-- The level that CLAP_OUT has (R387): high from the start of a beat for 125 ticks, or 375 for a 1 bit of V; none at high impedance,
in reset (R516). -/
def State.clapOut (s : State) : Option Bool :=
  let v := 500 * (s.beat / 64 * 64 + 64)
  if s.chipInReset then none
  else some (s.clock.running && decide (s.tickInBeat < if bitOf v (s.beat % 64) then 375 else 125))

/-! ## CLAP_IN (R387) -/

/-- The value of the 64 newest bits, oldest first in the list of newest first; least significant bit first on the wire. -/
def clapFrame (bits : List Bool) : Nat := (bits.take 64).foldl (fun acc b => 2 * acc + bitN b) 0

/-- A bit has been read: V is accepted after two frames in a row that differ by 32,000. -/
def ClapRx.addBit (r : ClapRx) (b : Bool) : ClapRx :=
  let bits := (b :: r.bits).take 128
  let v := clapFrame bits
  { r with bits := bits, nominal := if bits.length = 128 ∧ v = clapFrame (bits.drop 64) + 32_000 then some v else r.nominal }

/-- A rising edge at `t` (1/8 tick): the nominal value of this edge, and the receiver after it. -/
def ClapRx.rises (r : ClapRx) (t : Nat) : ClapRx × Option Nat :=
  let beats := match r.rise with
    | some u => (t - u + 2000) / 4000
    | none => 1
  let now := r.nominal.map fun v => v + 500 * (beats - 1)
  ({ r with rise := some t, bits := if beats = 1 then r.bits else [], nominal := now.map (· + 500) }, now)

/-- A falling edge: 125 ticks after the rising edge for a 0 bit, 375 for a 1 bit. -/
def ClapRx.falls (r : ClapRx) (t : Nat) : ClapRx :=
  match r.rise with
  | some u => r.addBit (decide (u + 2000 ≤ t))
  | none => r

/-- An accepted edge of CLAP_IN at `t`, at the given level. -/
def State.clapEdge (s : State) (t : Nat) (level : Bool) : State :=
  if !level then { s with clock := { s.clock with rx := s.clock.rx.falls (s.rawTime t) } }
  else
    let r := s.clock.rx.rises (s.rawTime t)
    let s1 := { s with clock := { s.clock with rx := r.1 } }
    if s1.clock.source = .clapIn then
      let s2 := { s1 with clock := { s1.clock with lastTime := some s1.rawTick, depth := Config.clapInDepth.val } }
      match r.2 with
      | some v => s2.measured (Int.ofNat (32 * t) - Int.ofNat (256 * v) - Int.ofNat s2.clock.delay)
      | none => s2
    else s1

def execClapInEdge (e : Edge) (s : State) : Result :=
  .next (let s0 := s.fresh
    let r := s0.edge .clapIn e
    match r.2 with
    | .accepted t => r.1.clapEdge t e.level
    -- a pulse that the glitch filter rejects raises a rate fault too (R388)
    | .none => if e.samples < 17 ∧ s0.filtered .clapIn ≠ e.level then { r.1 with board := r.1.board.rateFault .clapIn } else r.1
    | .fault => r.1)

/-! ## Corrections (R385, R389) -/

/-- No open stream and no launched epoch: the clapper may step directly (R389). -/
def State.idleForStep (s : State) : Bool := s.openStreams.isEmpty && s.set.epoch.isNone

/-- The newest e measured in beat `b` (R385), as it was measured (DEDUCED, log 128). -/
def Clock.measuredIn (c : Clock) (b : Nat) : Option Int :=
  if c.offsetBeat == some b then some c.offset else (c.before.filter fun q => q.2 == b).map (·.1)

/-- The clapper against the root's now, in 1/256 tick: the newest e with the corrections made since (R383, R389). -/
def Clock.againstRoot (c : Clock) : Int := c.offset + c.moved

/-- A correction of one tick by the e of the previous beat (R385): the master holds its value, steps by 2, or runs on. -/
def Clock.correctBy (c : Clock) (e : Int) : Clock :=
  if 192 ≤ e then { c with holding := true, stepped := c.stepped - 1, moved := c.moved - 256 }
  else if e ≤ -192 then { c with clap := c.clap + 2, stepped := c.stepped + 1, moved := c.moved + 256 }
  else c

/-- The direct step to the root's value (R389). The clapper's beats are numbered anew, so no e of a beat before it counts
(DEDUCED, log 128). -/
def Clock.stepToRoot (c : Clock) : Clock :=
  let root := Int.ofNat c.clap - Int.fdiv (c.againstRoot + 128) 256
  { c with clap := (root % 2 ^ 64).toNat, corrected := some (root.toNat / 500), stepped := c.stepped + root - Int.ofNat c.clap,
           moved := c.moved + 256 * (root - Int.ofNat c.clap), offsetBeat := none, before := none }

/-- Tick 100 of a beat: the correction of at most one tick, or the direct step. -/
def execClapperCorrection (s : State) : Result :=
  .next (let s0 := s.fresh
    let m := if s0.tickInBeat ≤ 100 then s0.beat else s0.beat + 1
    if !s0.clock.running || decide (s0.clock.source = .internal) || s0.clock.corrected == some m then s0
    else
      let s1 := s0.advanceTo (500 * m + 100)
      let c := { s1.clock with corrected := some m }
      let s2 := { s1 with clock := c }
      match (if c.state == .free || m == 0 then none else c.measuredIn (m - 1)) with
      | none => s2
      | some e => { s2 with clock := if s2.idleForStep && decide (128_000 ≤ c.againstRoot.natAbs) then c.stepToRoot else c.correctBy e })

/-- The source is lost (R388): CLAP_IN without a rising edge for 4 µs, a SPLICE source without a TIME flit for 4 beats. An edge in the
sample of the expiry comes first (R515), so the loss takes effect with the tick after (log 136). -/
def execClapSourceLost (s : State) : Result :=
  .next (let s0 := s.fresh
    let c := s0.clock
    if c.state == .free || c.state == .root then s0
    else match c.source, c.lastTime with
      | .internal, _ => s0
      | .clapIn, some t => (s0.advanceTo (s0.clapTick (t + 1001))).loseSource
      | .splice, some t => (s0.advanceTo (s0.clapTick (t + 2001))).loseSource
      | _, none => s0.loseSource)

/-! ## SET_CONFIGURE (R380, R381, R471) -/

/-- A clapper source of Table 14.23. -/
def clapSourceOf : Nat → Option ClapSource
  | 0 => some .internal
  | 1 => some .clapIn
  | 2 => some .splice
  | _ => none

/-- Ports after SET_CONFIGURE (Table 12.1): a port left out is DISABLED, an enabled one enters DOWN. -/
def State.enablePorts (s : State) (mask : Nat) : State :=
  (List.range 6).foldl (fun s p =>
    let x := s.port p
    if !bitOf mask p then
      if x.state = .disabled then s
      else (s.portEnters p .disabled).updPort p fun y => { Port.reset with retired := y.retired }
    else if x.state = .disabled ∧ !x.retired then s.portEnters p .down
    else s) s

/-- The clapper takes a new source (R382, R386). -/
def State.takeSource (s : State) (src : ClapSource) (delay : Nat) : State :=
  let s1 := { s with clock := { s.clock with delay := delay } }
  if s.clock.source = src then s1
  else
    let c := { s1.clock with source := src, depth := 0, steady := 0, offsetBeat := none, before := none, moved := 0,
                                  lastTime := none, rx := ⟨none, [], none⟩ }
    ({ s1 with clock := c }).setClap (if src = ClapSource.internal then .root else .free)

/-- SET events for the UP ports whose peers were members and are none of the new set (R381). -/
def State.postStrangers (s : State) (before : State) : State :=
  (List.range 6).foldl (fun s p => match (s.port p).peer with
    | some (bs, _, _) => if (before.memberAt p).isSome && (s.memberAt p).isNone && (s.port p).state == .up then
        s.postDevice 0x0021 p 0 [Int.ofNat (leNat bs 0x24 8)] else s
    | none => s) s

/-- The message after its checks: ports that are left out leave the old set, and lose its clapper source, before the new one is taken
(R388). -/
def State.configureSet (s : State) (members : List Nat) (ports : Nat) (src : ClapSource) (delay : Nat) : State :=
  let index := members.findIdx (· == s.fuses.chipId)
  let s1 := s.enablePorts ports
  let s2 := { s1 with set := { s1.set with members := members, index := index, configured := true, ports := ports,
                                           digest := setDigest members,
                                           ending := if s1.set.epoch.isSome then some (s1.beat + 1, 0) else s1.set.ending } }
  (s2.postStrangers s).takeSource src delay

def execSetConfigure (s : State) : Result :=
  .next (s.fresh.mboxRun 0x40 fun s c m =>
    let n := leNat m 0x10 1
    let ports := leNat m 0x11 1
    let members := (List.range (min n 16)).map fun i => leNat m (0x20 + 8 * i) 8
    let busy := s.openStreams.any fun i => (s.reel? (s.stream i).p.reel).any fun r => r.setScope
    if busy then s.respondError c eState
    else
      match clapSourceOf (leNat m 0x12 1) with
      | none => s.respondError c eParam
      | some src =>
        if !within 1 16 n || !members.contains s.fuses.chipId || !decide members.Nodup || decide (64 ≤ ports) ||
            (decide (src = .splice) && ports == 0) then s.respondError c eParam
        else
          let s1 := s.configureSet members ports src (leNat m 0x14 2)
          s1.respond c 0 0 (leBytes 1 s1.set.index ++ zeros 15 ++ s1.set.digest))

end Sys2Proof.Machine
end

