-- ==== Sys2Proof/Machine/Launch.lean ====
section
/-!
DEFINITION. Launching together (R390 to R392): LAUNCH_AT, the messages of the control cores, the GO point and the commit.
-/
namespace Sys2Proof.Machine

/-- The other members. -/
def State.peers (s : State) : List Nat := (List.range s.set.members.length).filter (· ≠ s.set.index)

/-- The topology digest (R391), one byte for each number of a link. -/
def topologyDigest (links : List (Nat × Nat × Nat)) : List Byte :=
  sha3_256 (links.flatMap fun l => leBytes 1 l.1 ++ leBytes 1 l.2.1 ++ leBytes 1 l.2.2)

/-- Members reached from index `me` over the links, grown one link at a time. -/
def reachedBy (links : List (Nat × Nat × Nat)) (n me : Nat) : Nat → List Nat
  | 0 => [me]
  | k + 1 =>
    let prev := reachedBy links n me k
    (List.range n).filter fun i => prev.contains i || prev.any fun j => joined links i j

/-- Every member can be reached over member ports in UP state. -/
def State.allReached (s : State) : Bool :=
  let n := s.set.members.length
  s.peers.all fun i => (reachedBy s.links n s.set.index n).contains i

/-- The reel of set scope with the digests of one line of the list: reel digest, then weight digest. -/
def State.setReel? (s : State) (line : List Byte) : Option LoadedReel :=
  s.reels.find? fun r => r.setScope && r.digest == slice line 0 32 && r.weightDigest == slice line 32 32

/-- The first check of R390 that fails, in their order. The list tensor is looked for before its reels (log 44). -/
def State.launchRefused (s : State) (c epoch n list : Nat) : Option Nat :=
  let now := s.clock.clap
  if c % 500 ≠ 0 ∨ c / 500 % 512 = 0 ∨ !(within 25_000 250_000_000 (c - now)) ∨ c < now ∨ epoch = 0 ∨ 8 < n then some eParam
  else if !(s.clock.state == .root || s.clock.state == .aligned) then some eClapper
  else if !s.allReached then some eSet
  else if n = 0 then none
  else
    match s.tensor? list with
    | none => some eNoTensor
    | some t => if (List.range n).all fun i => (s.setReel? (s.readBytes (t.base + 64 * i) 64)).isSome then none else some eNoReel

def execLaunchAt (s : State) : Result :=
  .next (s.fresh.mboxRun 0x41 fun s ch m =>
    let c := leNat m 0x10 8
    let epoch := leNat m 0x18 4
    let n := leNat m 0x1C 1
    let list := leNat m 0x20 4
    match s.launchRefused c epoch n list with
    | some e => s.respondError ch e
    | none =>
      let digests := match s.tensor? list with
        | some t => s.readBytes t.base (64 * n)
        | none => []
      let reels := (List.range n).filterMap fun i => (s.setReel? (slice digests (64 * i) 64)).map (·.handle)
      let links := s.links
      let topo := topologyDigest links
      let s1 := s.endEpoch 0
      let l : Launch := { c := c, epoch := epoch, digests := digests, links := links, topology := topo, reels := reels, voted := false,
                          sentGo := false, gos := [], committed := false }
      let ready := s1.peers.map fun i => (i, LaunchMsg.ready c epoch digests topo)
      let s2 := { s1 with set := { s1.set with launch := some l }, out := { s1.out with peers := s1.out.peers ++ ready } }
      s2.defer ch .launch (if n = 0 then none else some list))

/-- READY is kept until the launch is decided; GO and NOGO count for the launch in progress (R391). -/
def execLaunchMessage (peer : Fin 16) (msg : LaunchMsg) (s : State) : Result :=
  .next (let s0 := s.fresh
    let i := peer.val
    if !s0.firmwareUp || !s0.peers.contains i then s0
    else
      match msg, s0.set.launch with
      | .ready .., _ => { s0 with set := { s0.set with heard := (i, msg) :: s0.set.heard.filter (fun h => !(h.1 == i)) } }
      | .go, some l => { s0 with set := { s0.set with launch := some { l with gos := insertUnit i l.gos } } }
      | .nogo, some l => { s0 with set := { s0.set with launch := some { l with gos := l.gos.filter (· ≠ i) } } }
      | _, none => s0)

/-- Every peer's READY names the same C, epoch and digests. -/
def State.allReady (s : State) (l : Launch) : Bool :=
  s.peers.all fun i => s.set.heard.any fun h => h.1 == i && h.2 == .ready l.c l.epoch l.digests l.topology

/-- C − 10,000 (R391). -/
def execLaunchGoPoint (s : State) : Result :=
  .next (let s0 := s.fresh
    match s0.set.launch with
    | none => s0
    | some l =>
      if l.voted || l.committed || !s0.firmwareUp then s0
      else
        let s1 := s0.advanceTo (l.c - 10_000)
        let go := s1.allReady l
        let votes := s1.peers.map fun i => (i, if go then LaunchMsg.go else LaunchMsg.nogo)
        { s1 with set := { s1.set with launch := some { l with voted := true, sentGo := go } },
                  out := { s1.out with peers := s1.out.peers ++ votes } })

/-- The new epoch lets the set streams of its reels go on from beat C / 500 (R392, R493). -/
def State.clearEpochEnded (s : State) (reels : List Nat) (n : Nat) : State :=
  (s.openStreams.filter fun i => reels.contains (s.stream i).p.reel).foldl (fun s i => s.updStream i fun x =>
    { x with held := x.held.map fun h => if h.cause = .epochEnded then { h with clears := some n } else h }) s

/-- The first frame start of a set reel after a set epoch launches is a reload (R492): the reels of set scope, whose counts the set
fixes (DEDUCED, log 135). -/
def State.reloadSet (s : State) : State :=
  { s with reels := s.reels.map fun r => if r.setScope then { r with reload := true } else r }

/-- C − 2,500 (R391, R392): commit and fix the route tables of the agreed topology, or abort. -/
def execLaunchCommit (s : State) : Result :=
  .next (let s0 := s.fresh
    match s0.set.launch with
    | none => s0
    | some l =>
      if l.committed || !s0.firmwareUp then s0
      else
        let s1 := s0.advanceTo (l.c - 2_500)
        if l.sentGo && s1.peers.all l.gos.contains then
          let n := s1.set.members.length
          let e : Epoch := ⟨l.epoch, l.c / 500, routeTable l.links n s1.set.index, levels l.links n n, l.reels⟩
          ({ s1 with set := { s1.set with launch := some { l with committed := true }, epoch := some e, ending := none,
                                          heard := [] } }).reloadSet.clearEpochEnded l.reels (l.c / 500)
        else
          let s2 := { s1 with set := { s1.set with launch := none, heard := [] } }
          (s2.postDevice 0x0023 0 0 [Int.ofNat l.epoch, Int.ofNat l.c]).completeDeferred Waits.isLaunch eLaunch [])

end Sys2Proof.Machine
end

