-- ==== Sys2Proof/Machine/Service.lean ====
section
/-!
DEFINITION. Units that leave and return (R255, R256, R472, R494 to R499): UNIT_RETIRE, UNIT_RETURN, the returning tests, the
return of a splice port; and errors reported at a unit (R488): ERROR_DETECT.
-/
namespace Sys2Proof.Machine

/-! ## UNIT_RETIRE (R472, R495) -/

/-- Unit kind and index of a message (Table 14.24). -/
def unitKindIn (m : List Byte) : Option UnitKind := unitKindOf (leNat m 0x10 1)
def unitIndexIn (m : List Byte) : Nat := leNat m 0x18 8

/-- The unit exists on this part. -/
def State.unitExists (s : State) (k : UnitKind) (i : Nat) : Bool :=
  match k with
  | .block => decide (i < 36)
  | .page => decide (i < Config.dramEnd s.fuses.grade) && i % Config.pageSize == 0
  | .engine => decide (i < 9)
  | .port => decide (i < 6)

def State.unitRetired (s : State) (k : UnitKind) (i : Nat) : Bool :=
  match k with
  | .block => (s.block i).retired
  | .page => s.pool.retired.contains i
  | .engine => (s.engine i).retired
  | .port => (s.port i).retired

/-- The resulting P of UNIT_RETIRE and UNIT_RETURN (Table 14.24): that of the next reload once the substitutions and returns that wait
for a frame start have taken effect (R492, R494, R496). -/
def State.resultingArrays (s : State) : Nat :=
  let s1 := s.units.returns.foldl (fun s b => s.updBlock b fun u => { u with retired := false }) s
  (s1.units.substs.foldl (fun s x => s.updBlock x.old fun u => { u with retired := true }) s1).nextArrays

/-- Answer with the state and the resulting P. -/
def State.respondUnit (s : State) (c state : Nat) : State := s.respond c 0 0 (leBytes 1 state ++ leBytes 1 s.resultingArrays)

/-- A block (R495): at once outside every map, else by substitution; the last healthy block stays (R497, log 45). -/
def State.retireBlockMsg (s : State) (c b : Nat) : State :=
  if s.units.substs.any fun x => x.old == b then s.respondUnit c 1
  else if s.fitBlocks.all (· == b) then s.respondError c eInUse
  else if !s.mappedBlock b then (s.retireBlock b).respondUnit c 0
  else if s.spares.isEmpty then s.respondError c eInUse
  else (s.takeOut b []).respondUnit c 1

/-- An engine (R495): the standby or an unmapped engine at once, a mapped one by the standby at the next frame start. -/
def State.retireEngineMsg (s : State) (c k : Nat) : State :=
  let free := s.standbys.filter fun e => e ≠ k
  if s.units.engineSubsts.any fun x => x.1 == k then s.respondUnit c 1
  else if s.standbys.contains k || !(s.reels.any fun r => r.ready && r.engineMap.contains k) then (s.retireEngine k).respondUnit c 0
  else
    match free with
    | [] => s.respondError c eInUse
    | e :: _ =>
      ({ s with units := { s.units with engineSubsts := s.units.engineSubsts ++ [(k, some e)] } }).respondUnit c 1

/-- A splice port: DISABLED; an epoch with a route over it ends, also while the port is in training (R495). -/
def State.retirePortMsg (s : State) (c p : Nat) : State :=
  let ends := match s.memberSeen p with
    | some j => s.onRoute j
    | none => false
  let s1 := (s.portEnters p .disabled).updPort p fun _ => { Port.reset with retired := true }
  ((if ends then s1.endEpoch 1 else s1).writeService).respondUnit c 0

/-- A page (R255, R256): by its content. -/
def State.retirePageMsg (s : State) (c page : Nat) : State :=
  if s.pool.candidates.any fun x => x.page == page then s.respondUnit c 1
  else if 512 ≤ s.pool.retired.length then s.respondError c eNoMemory
  else
    let s1 := s.pageCandidate page
    if s1.pool.retired.contains page then s1.respondUnit c 0
    else if s1.pool.candidates.any fun x => x.page == page && x.untilClose then s1.respondUnit c 1
    else s1.defer c (.pageRetire page) none

def execUnitRetire (s : State) : Result :=
  .next (s.fresh.mboxRun 0x50 fun s c m =>
    let i := unitIndexIn m
    match unitKindIn m with
    | none => s.respondError c eParam
    | some k =>
      if !s.unitExists k i then s.respondError c eNoUnit
      else if s.unitRetired k i then s.respondError c eState
      else match k with
        | .block => s.retireBlockMsg c i
        | .page => s.retirePageMsg c i
        | .engine => s.retireEngineMsg c i
        | .port => s.retirePortMsg c i)

/-! ## UNIT_RETURN (R256, R496) -/

/-- Start the return of a retired unit. -/
def State.startReturn (s : State) (k : UnitKind) (i : Nat) : State :=
  match k with
  | .block => s.updBlock i fun u => { u with testing := true }
  | .engine => s.updEngine i fun u => { u with testing := true }
  | .page => { s with units := { s.units with pageTests := s.units.pageTests ++ [i] } }
  | .port => s.portEnters i .down

def execUnitReturn (s : State) : Result :=
  .next (s.fresh.mboxRun 0x51 fun s c m =>
    let i := unitIndexIn m
    match unitKindIn m with
    | none => s.respondError c eParam
    | some k =>
      if !s.unitExists k i then s.respondError c eNoUnit
      else if !s.unitRetired k i then s.respondError c eState
      else (s.startReturn k i).defer c (.unitReturn k i s.beat) none)

/-- Complete the UNIT_RETURN of a unit with state 0 and the resulting P, or with an error. -/
def State.returnDone (s : State) (k : UnitKind) (i status : Nat) : State :=
  s.completeDeferred (Waits.onUnit k i) status (if status = 0 then leBytes 1 0 ++ leBytes 1 s.resultingArrays else [])

/-- A failed test of a block (R496, R498): BLOCK_TEST_FAIL in its block slot, and the block is retired where it is not yet; an
escalation gets its level's response. The entry of the last healthy block says that the chip halts (R497). -/
def State.blockTestFails (s : State) (b : Nat) (stream : Option Nat) : State :=
  let s1 := s.detectAs .blockTestFail b (if (s.block b).retired then 3 else s.retireAction b) stream (.response s.responseEnd)
  if (s.block b).retired then s1 else s1.retireBlock b

/-- The end of a block's returning test: of the search of R498, or of UNIT_RETURN. -/
def State.blockTestDone (s : State) (b : Nat) (pass : Bool) : State :=
  if !(s.block b).testing then s
  else if (s.block b).retired then
    let s1 := s.updBlock b fun u => { u with testing := false }
    if pass then ({ s1 with units := { s1.units with returns := insertUnit b s1.units.returns } }).returnDone .block b 0
    else (s1.blockTestFails b none).returnDone .block b eTest
  else
    let s1 := s.updBlock b fun u => { u with testing := false }
    let s2 := if pass then s1.clearLoadFailed else s1.blockTestFails b none
    match s.dailies.search with
    | some (h, pos, some x) => if x = b then s2.searchNext h (pos + 1) else s2
    | _ => s2

/-- The end of an engine's test: one that passes becomes the standby if there is none (R496). -/
def State.engineTestDone (s : State) (k : Nat) (pass : Bool) : State :=
  if !(s.engine k).testing then s
  else if pass then
    let s1 := s.updEngine k fun _ => ⟨false, false⟩
    let s2 := if s.standbys.isEmpty then { s1 with units := { s1.units with standby := some k } } else s1
    s2.writeService.returnDone .engine k 0
  else (s.updEngine k fun u => { u with testing := false }).returnDone .engine k eTest

def execReturningTestDone (kind : UnitKind) (index : Nat) (pass : Bool) (s : State) : Result :=
  .next (match kind with
    | .block => s.fresh.blockTestDone index pass
    | .engine => s.fresh.engineTestDone index pass
    | .page | .port => s.fresh)

/-- The pattern passes of a returned page have ended (R256). -/
def execPagePatternTestDone (page : Nat) (pass : Bool) (s : State) : Result :=
  .next (let s0 := s.fresh
    if !s0.units.pageTests.contains page then s0
    else
      let s1 := { s0 with units := { s0.units with pageTests := s0.units.pageTests.filter (· ≠ page) } }
      if pass then
        (({ s1 with pool := { s1.pool with retired := s1.pool.retired.filter (· ≠ page) } }).writeService).returnDone .page page 0
      else s1.returnDone .page page eTest)

/-- When the return of a port began, while it waits. -/
def State.portReturnSince (s : State) (p : Nat) : Option Nat :=
  s.mbox.deferred.findSome? fun d => match d.waits with
    | .unitReturn .port i b => if i = p then some b else none
    | _ => none

/-- A returned port has not reached UP within 12,500 beats (R496). -/
def execPortReturnTimeout (port : Fin 6) (s : State) : Result :=
  .next (let s0 := s.fresh
    let p := port.val
    match s0.portReturnSince p with
    | none => s0
    | some b =>
      let s1 := s0.advanceTo (500 * (b + 12_500))
      ((s1.portEnters p .disabled).updPort p fun y => { Port.reset with retired := y.retired }).returnDone .port p eLink)

/-! ## ERROR_DETECT (R488) -/

/-- The unit exists for the cause. -/
def State.causeUnitOk (s : State) (cause : Cause) (unit : Nat) : Bool :=
  match cause with
  | .residue | .joinResidue | .benchUncorrectable | .benchRowsExhausted | .blockTestFail => decide (unit < 36)
  | .stageUncorrectable | .stageRowsExhausted | .transformSumcheck => decide (unit < 9)
  | .accessViolation => decide (unit < 20)
  | .sramUncorrectable => unit == 9 || unit == 18
  | .dramUncorrectable => decide (unit < Config.stackCount s.fuses.grade)
  | .spliceDown => decide (unit < 6)
  | .lineBufferUncorrectable => decide (unit < 4)
  | _ => true

/-- Until the running take's final token, or for the first response when none runs. -/
def State.takeHold (s : State) : HeldUntil :=
  match s.arr.running with
  | some r => HeldUntil.takeEnd r.entry.takeId
  | none => .response s.responseEnd

/-- The latch of the last row that OVERLAY has begun and not completed, or the first response. -/
def State.overlayHold (s : State) : HeldUntil :=
  match (s.ovl.rows.filter fun r => !r.finished).getLast? with
  | some r => .latch r.stream r.frame r.row
  | none => .response s.responseEnd

/-- A chip-level cause with action 9 halts the chip (R491), unless it is held in reset. -/
def State.haltFor (s : State) (cause : Cause) : State :=
  if s.chipInReset then s else
  let s1 := s.detect cause 0 none .fundamental
  if s1.err.halted then s1 else s1.halt

/-- No valid image, or bad fuses (R479): fw_phase 4 without a checker and without a write to the flash. -/
def State.bootInvalid (s : State) : State :=
  let s1 := s.detect .bootImageInvalid 0 none .fundamental
  { s1 with dev := { s1.dev with fwPhase := 4 }, fw := { s1.fw with noImage := true } }

/-- The response of a cause that entered its own slot. -/
def State.ownResponse (s : State) (cause : Cause) (unit : Nat) (stream addr : Option Nat) : State :=
  match cause with
  | .residue | .joinResidue | .benchUncorrectable | .stageUncorrectable | .transformSumcheck =>
    s.detect cause unit stream s.takeHold
  | .benchRowsExhausted =>
    s.benchExhausted unit stream
  | .stageRowsExhausted => match addr.bind bankAt with
    | some (.stage r k, _) => if r.val = unit then s.stageExhausted r.val k.val stream else s.detect cause unit stream .frameStart
    | _ => s.detect cause unit stream .frameStart
  | .blockTestFail => s.blockTestFails unit stream
  | .motionFault => (s.detect cause unit stream (.motionDiscard s.responseEnd)).motionFails stream
  | .overlayFault => (s.detect cause unit stream s.overlayHold).overlayFails
  | .lineBufferUncorrectable => s.lineLost unit stream
  | .spliceHopLimit =>
    ({ s with set := { s.set with hopErrors := s.set.hopErrors + 1 } }).detectBrief cause unit stream
  | .fabricIntegrity | .tagTimeout =>
    let s1 := s.detectBrief cause unit stream
    { s1 with out := { s1.out with errorResponse := true } }
  | .fallbackRecordCrc | .accessViolation | .dramUncorrectable | .sheetLate | .sramUncorrectable | .dailiesMismatch
  | .bootFallback => s.detectBrief cause unit stream
  | .spliceDown | .checkerFault | .doorbellIgnored | .controlWatchdog | .firmwareUncorrectable | .clapperFault
  | .bootImageInvalid => s

/-- What an error does to the place where it was met (R250, R252, R254, R255): an SRAM word is poisoned and its row marked; a DRAM
sector is poisoned, which `sectorLost` does with the retirement of its page. -/
def State.placeLost (s : State) (cause : Cause) (unit a : Nat) : State :=
  let fits : BankId → Bool := fun b => match cause, b with
    | .benchUncorrectable, .bench k _ => k.val == unit
    | .stageUncorrectable, .stage k _ => k.val == unit
    | .lineBufferUncorrectable, .lineBuffer g _ => g.val == unit
    | .sramUncorrectable, .motion _ => unit == 9
    | .sramUncorrectable, .control _ => unit == 18
    | _, _ => false
  match bankAt a with
  | some (b, row) => if fits b then (s.poisonRange a 1).markRow ⟨b, row, true⟩ false else s
  | none => s

/-- A block cause met while the block is under a returning test is reported to the test and enters no slot (R496). -/
def State.testTakes (s : State) (cause : Cause) (unit : Nat) : Bool :=
  match causeSlot cause unit with
  | some (.cell b) | some (.block b) => (s.block b).testing
  | _ => false

/-- An error is detected at a unit, unless the chip is held in reset. The stored detail of DOORBELL_IGNORED is that of the doorbell's own
command; here its ring and index are 0. -/
def State.errorAt (s : State) (cause : Cause) (unit : Nat) (stream addr : Option Nat) : State :=
  if !s.causeUnitOk cause unit || s.chipInReset || s.testTakes cause unit then s
  else
    match cause with
    | .spliceDown =>
      let st := (s.port unit).state
      if st == .up || st == .retraining then s.portDown unit else s
    | .checkerFault => s.failChecker .memory
    | .doorbellIgnored => s.doorbellIgnored (stream.getD 0xFFFF) 0 0
    | .controlWatchdog | .firmwareUncorrectable | .clapperFault => s.haltFor cause
    | .bootImageInvalid => s.bootInvalid
    | .dramUncorrectable => match addr with
      | some a => if a < Config.dramEnd s.fuses.grade ∧ stackOf s.fuses.grade a = unit then s.sectorLost unit a stream
          else s.detectBrief cause unit stream
      | none => s.detectBrief cause unit stream
    | _ =>
      let s := match addr with
        | some a => s.placeLost cause unit a
        | none => s
      if s.ownSlotFree cause unit then s.ownResponse cause unit stream addr
      else s.detectBrief cause unit stream

def execErrorDetect (cause : Cause) (unit : ErrorAt) (stream : Option (Fin 1024)) (s : State) : Result :=
  .next (s.fresh.errorAt cause unit.unit (stream.map (·.val)) unit.addr)

end Sys2Proof.Machine
end

