-- ==== Sys2Proof/Machine/Sign.lean ====
section
/-!
DEFINITION. The two signatures that an image carries (R482): Ed25519 under RFC 8032 and ML-DSA-65 under FIPS 204 with an empty context
string. Both standards are outside the manual, which names them; what they say is PRESUMED (log 13).
-/
namespace Sys2Proof.Machine

/-! ## Ed25519 (RFC 8032, 5.1) -/

/-- b to the power e modulo m, over the `n` low bits of e. -/
def powMod (m : Nat) : Nat → Nat → Nat → Nat
  | 0, _, _ => 1 % m
  | n + 1, b, e =>
    let h := powMod m n (b * b % m) (e / 2)
    if e % 2 = 1 then b * h % m else h

/-- The field's prime, the order of the base point, and inverses in the field. -/
def edP : Nat := 2 ^ 255 - 19
def edL : Nat := 2 ^ 252 + 27742317777372353535851937790883648493
def edInv (x : Nat) : Nat := powMod edP 255 x (edP - 2)

/-- Negation in the field. -/
def edNeg (x : Nat) : Nat := (edP - x % edP) % edP

/-- The curve constant −121665 / 121666. -/
def edD : Nat := edNeg 121665 * edInv 121666 % edP

/-- A point in extended homogeneous coordinates X, Y, Z, T. -/
structure EdPoint where
  x : Nat
  y : Nat
  z : Nat
  t : Nat

/-- Point addition. -/
def EdPoint.add (p q : EdPoint) : EdPoint :=
  let a := (p.y + edNeg p.x) * (q.y + edNeg q.x) % edP
  let b := (p.y + p.x) * (q.y + q.x) % edP
  let c := p.t * 2 * edD * q.t % edP
  let d := p.z * 2 * q.z % edP
  let e := (b + edNeg a) % edP
  let f := (d + edNeg c) % edP
  let g := (d + c) % edP
  let h := (b + a) % edP
  ⟨e * f % edP, g * h % edP, f * g % edP, e * h % edP⟩

/-- The neutral point. -/
def edZero : EdPoint := ⟨0, 1, 1, 0⟩

/-- A multiple of a point, over the `n` low bits of the scalar. -/
def EdPoint.times (p : EdPoint) : Nat → Nat → EdPoint
  | 0, _ => edZero
  | n + 1, k =>
    let h := EdPoint.times p n (k / 2)
    let d := h.add h
    if k % 2 = 1 then d.add p else d

/-- Two points are the same. -/
def EdPoint.same (p q : EdPoint) : Bool := p.x * q.z % edP == q.x * p.z % edP && p.y * q.z % edP == q.y * p.z % edP

/-- The x coordinate of a point with the given y and low bit of x; none where there is no such point. -/
def edRecover (y sign : Nat) : Option Nat :=
  if edP ≤ y then none
  else
    let u := (y * y + edNeg 1) % edP
    let v := (edD * (y * y % edP) + 1) % edP
    let v3 := v * v % edP * v % edP
    let x := u * v3 % edP * powMod edP 255 (u * (v3 * v3 % edP) % edP * v % edP) ((edP - 5) / 8) % edP
    let vx := v * (x * x % edP) % edP
    let root := if vx = u then some x
      else if vx = edNeg u then some (x * powMod edP 255 2 ((edP - 1) / 4) % edP) else none
    root.bind fun r => if r = 0 ∧ sign = 1 then none else some (if r % 2 = sign then r else edNeg r)

/-- Decode a point of 32 bytes. -/
def edDecode (bs : List Byte) : Option EdPoint :=
  let n := leNat bs 0 32
  let y := n % 2 ^ 255
  (edRecover y (n / 2 ^ 255)).map fun x => ⟨x, y, 1, x * y % edP⟩

/-- The base point: y = 4/5, x even. -/
def edBase : EdPoint :=
  let y := 4 * edInv 5 % edP
  let x := (edRecover y 0).getD 0
  ⟨x, y, 1, x * y % edP⟩

/-- Ed25519 verification: [8][S]B = [8]R + [8][k]A, the equation that RFC 8032 requires (log 13). -/
def ed25519Valid (key sig msg : List Byte) : Bool :=
  let r := sig.take 32
  let s := leNat sig 32 32
  match edDecode key, edDecode r with
  | some a, some rp =>
    let k := leNat (sha512 (r ++ key ++ msg)) 0 64 % edL
    decide (s < edL) && ((edBase.times 253 s).times 4 8).same (((rp.add (a.times 253 k))).times 4 8)
  | _, _ => false

/-! ## ML-DSA-65 (FIPS 204) -/

/-- The parameters of ML-DSA-65: q, the degree, k and l, γ1, γ2, τ, β, ω and the length of the commitment hash. -/
def dsaQ : Nat := 8380417
def dsaK : Nat := 6
def dsaL : Nat := 5
def dsaGamma1 : Nat := 2 ^ 19
def dsaGamma2 : Nat := (dsaQ - 1) / 32
def dsaTau : Nat := 49
def dsaBeta : Nat := 196
def dsaOmega : Nat := 55
def dsaHash : Nat := 48

/-- A polynomial modulo X^256 + 1, or its image under the NTT: 256 numbers modulo q. -/
abbrev Poly := List Nat

def Poly.sub (a b : Poly) : Poly := (a.zip b).map fun p => (p.1 + dsaQ - p.2) % dsaQ
def Poly.add (a b : Poly) : Poly := (a.zip b).map fun p => (p.1 + p.2) % dsaQ
def Poly.pointwise (a b : Poly) : Poly := (a.zip b).map fun p => p.1 * p.2 % dsaQ

/-- Eight bits in the opposite order. -/
def bitRev8 (n : Nat) : Nat := (List.range 8).foldl (fun r i => 2 * r + n / 2 ^ i % 2) 0

/-- The roots ζ^(2 BitRev8(i) + 1) of X^256 + 1, with ζ = 1753 (FIPS 204, 7.5). -/
def nttRoots : List Nat := (List.range 256).map fun i => powMod dsaQ 23 1753 (2 * bitRev8 i + 1)

/-- The NTT: the polynomial's values at the roots. -/
def ntt (w : Poly) : Poly := nttRoots.map fun r => w.foldr (fun c acc => (c + r * acc) % dsaQ) 0

/-- The inverse of the NTT: coefficient j is the mean of ŵ_i r_i^(−j). -/
def nttInverse (v : Poly) : Poly :=
  let inv := nttRoots.map fun r => powMod dsaQ 23 r (dsaQ - 2)
  let n := powMod dsaQ 23 256 (dsaQ - 2)
  ((List.range 256).foldl (fun (acc : List Nat × List Nat) _ =>
    ((acc.2.foldl (· + ·) 0 * n % dsaQ) :: acc.1, (acc.2.zip inv).map fun p => p.1 * p.2 % dsaQ)) ([], v)).1.reverse

/-- The `i`-th field of `bits` bits of a byte string, whose bits run from the low end of each byte. -/
def bitField (bs : List Byte) (bits i : Nat) : Nat :=
  leNat bs (bits * i / 8) 4 / 2 ^ (bits * i % 8) % 2 ^ bits

/-- Unpack the 256 fields of `bits` bits of a polynomial. -/
def unpackPoly (bs : List Byte) (bits : Nat) : Poly := (List.range 256).map (bitField (bs ++ zeros 4) bits)

/-- RejNTTPoly: the first 256 candidates of three bytes below q, among those of 1,008 bytes (FIPS 204, algorithm 30; its appendix C
allows the bound). -/
def rejNttPoly (seed : List Byte) : Poly :=
  let bs := shake128 1008 seed
  (((chunks 3 bs).map fun c => leNat c 0 3 % 2 ^ 23).filter fun z => decide (z < dsaQ)).take 256

/-- ExpandA: row r, column s (algorithm 32). -/
def expandA (rho : List Byte) (r s : Nat) : Poly := rejNttPoly (rho ++ leBytes 1 s ++ leBytes 1 r)

/-- SampleInBall: τ coefficients of ±1 (algorithm 29), from 264 bytes of SHAKE256. -/
def sampleInBall (seed : List Byte) : Poly :=
  let bs := shake256 272 seed
  let signs := leNat bs 0 8
  let step (acc : Poly × List Byte) (i : Nat) : Poly × List Byte :=
    let rest := acc.2.dropWhile fun b => decide (i < b.toNat)
    let j := (byteAt rest 0).toNat
    let c := acc.1.set i (acc.1.getD j 0)
    (c.set j (if bitOf signs (i + dsaTau - 256) then dsaQ - 1 else 1), rest.drop 1)
  (((List.range dsaTau).map (256 - dsaTau + ·)).foldl step (List.replicate 256 0, bs.drop 8)).1

/-- HintBitUnpack: the places of the hints of each polynomial; none where the encoding is not the one the signer gives
(algorithm 21). -/
def hintUnpack (y : List Byte) : Option (List (List Nat)) :=
  let at_ (i : Nat) : Nat := (byteAt y i).toNat
  let r := (List.range dsaK).foldl (fun (acc : Option (List (List Nat) × Nat)) i => acc.bind fun a =>
    let last := at_ (dsaOmega + i)
    let ps := (List.range (last - a.2)).map fun j => at_ (a.2 + j)
    if last < a.2 ∨ dsaOmega < last ∨ !(ps.zip (ps.drop 1)).all fun p => decide (p.1 < p.2) then none
    else some (a.1 ++ [ps], last)) (some ([], 0))
  r.bind fun a => if (List.range (dsaOmega - a.2)).all fun j => at_ (a.2 + j) == 0 then some a.1 else none

/-- Decompose: r = r1 · 2γ2 + r0 (algorithm 36). -/
def decompose (r : Nat) : Nat × Int :=
  let m := r % (2 * dsaGamma2)
  let r0 : Int := if m ≤ dsaGamma2 then Int.ofNat m else Int.ofNat m - Int.ofNat (2 * dsaGamma2)
  let hi := Int.ofNat r - r0
  if hi = Int.ofNat (dsaQ - 1) then (0, r0 - 1) else (hi.toNat / (2 * dsaGamma2), r0)

/-- UseHint (algorithm 40). -/
def useHint (h : Bool) (r : Nat) : Nat :=
  let d := decompose r
  let m := (dsaQ - 1) / (2 * dsaGamma2)
  if !h then d.1 else if 0 < d.2 then (d.1 + 1) % m else (d.1 + m - 1) % m

/-- w1Encode of one polynomial: four bits each. -/
def packW1 (w : Poly) : List Byte := (chunks 2 w).map fun p => BitVec.ofNat 8 (p.getD 0 0 + 16 * p.getD 1 0)

/-- ML-DSA.Verify with an empty context string (algorithms 3 and 8). -/
def mldsaValid (key sig msg : List Byte) : Bool :=
  let rho := key.take 32
  let t1 := (List.range dsaK).map fun i => unpackPoly (slice key (32 + 320 * i) 320) 10
  let hash := sig.take dsaHash
  let zs := (List.range dsaL).map fun i => unpackPoly (slice sig (dsaHash + 640 * i) 640) 20
  match hintUnpack (slice sig (dsaHash + 640 * dsaL) (dsaOmega + dsaK)) with
  | none => false
  | some h =>
    let small := zs.all fun z => z.all fun v => decide ((Int.ofNat dsaGamma1 - Int.ofNat v).natAbs < dsaGamma1 - dsaBeta)
    let zHat := zs.map fun z => ntt (z.map fun v => (dsaQ + dsaGamma1 - v) % dsaQ)
    let cHat := ntt (sampleInBall hash)
    let mu := shake256 64 (shake256 64 key ++ zeros 2 ++ msg)
    let w (r : Nat) : Poly :=
      let az := (List.range dsaL).foldl (fun acc s => Poly.add acc (Poly.pointwise (expandA rho r s) (zHat.getD s []))) (List.replicate 256 0)
      let ct := Poly.pointwise cHat (ntt ((t1.getD r []).map fun v => v * 2 ^ 13 % dsaQ))
      let hints := h.getD r []
      (nttInverse (Poly.sub az ct)).mapIdx fun i v => useHint (hints.contains i) v
    small && shake256 dsaHash (mu ++ (List.range dsaK).flatMap fun r => packW1 (w r)) == hash

end Sys2Proof.Machine
end

