-- ==== Sys2Proof/Machine/Boot.lean ====
section
/-!
DEFINITION. Resets and boot (R474 to R483), protection locked at boot (R485, R487), the service area at boot (R499), firmware
staged, switched and counted against rollback (R473, R484, R500 to R502), and power (R507 to R513, R523).
-/
namespace Sys2Proof.Machine

/-! ## Fundamental reset (R474) -/

/-- Every island resets; fuses, flash, straps and what waits in the queue stay (log 57), and with a reset by a pin the levels on the
balls. After a loss of power no other state is kept (R508). -/
def State.resetChip (s : State) (hold : PowerHold) (trip power : Bool) : State :=
  let r := State.afterReset s.fuses s.flash s.board.straps
  let r1 := { r with pending := s.pending, free := s.free, out := s.out, board := { r.board with hold := hold, thermTrip := trip } }
  if power then r1
  else { r1 with gates := s.gates.map Gate.resetByChip, inputs := s.inputs.map (fun i => { i with lastEdge := none }) }

/-- RESET_N or PERST_N: power or a trip still holds the chip in reset (R509, R523). -/
def State.resetByPin (s : State) : State := s.resetChip s.board.hold s.board.thermTrip false

def execFundamentalReset (cause : ResetCause) (s : State) : Result :=
  .next (let s0 := s.fresh
    match cause with
    | .powerUp => s0.resetChip .none false true
    | .resetN => s0.resetByPin
    | .perstN => if s0.dev.fwPhase = 4 then s0.resetByPin else s0)

/-- RESET_N held low for 1 µs (R474, R515). -/
def State.resetNSeen (r : State × EdgeSeen) : State :=
  match r.2 with
  | .accepted t => if r.1.level .resetN then r.1 else (r.1.advanceTo (ceilDiv t 8 + 250)).resetByPin
  | _ => r.1

def execResetNAssert (e : Edge) (s : State) : Result := .next (State.resetNSeen (s.fresh.edge .resetN e))

/-- PERST_N held low for 1 µs: the host island, or the chip in fw_phase 4 (R449, R474). -/
def State.perstNSeen (r : State × EdgeSeen) : State :=
  match r.2 with
  | .accepted t =>
    if r.1.level .perstN then r.1
    else
      let s1 := r.1.advanceTo (ceilDiv t 8 + 250)
      if s1.dev.fwPhase = 4 then s1.resetByPin else s1.hostReset
  | _ => r.1

def execPerstNAssert (e : Edge) (s : State) : Result := .next (State.perstNSeen (s.fresh.edge .perstN e))

/-- A deferred edge (R525): without a timestamp on GENLOCK_IN and CLAP_IN, as an accepted edge on the others. -/
def execDeferredEdge (pin : InputPin) (s : State) : Result :=
  .next (let r := s.fresh.deferredEdge pin
    match pin with
    | .genlock =>
      match r.2 with
      | .accepted t => if r.1.level .genlock then
          r.1.onGenlocked fun s g => s.updGate g fun x => { x with genLast := some (t * 2 ^ 29) } else r.1
      | _ => r.1
    | .clapIn =>
      match r.2 with
      | .accepted _ =>
        if r.1.level .clapIn && decide (r.1.clock.source = .clapIn) then
          { r.1 with clock := { r.1.clock with lastTime := some r.1.rawTick } }
        else r.1
      | _ => r.1
    | .safeAck => State.ackSeenEdge r
    | .hpd g => State.hpdSeen r g
    | .resetN => State.resetNSeen r
    | .perstN => State.perstNSeen r)

/-! ## Power (R509, R513, R523) -/

/-- A brown-out holds the chip in reset and counts as a power-up. -/
def execBrownOut (s : State) : Result :=
  .next (let s0 := s.fresh
    if s0.board.hold = .thermal then s0 else s0.resetChip .brownOut false true)

/-- The trip point: THERMTRIP_N low, reset until power is removed; no log entry. -/
def execThermalTrip (s : State) : Result := .next (s.fresh.resetChip .thermal true true)

def execClapperFault (s : State) : Result := .next (s.fresh.haltFor .clapperFault)

/-! ## Boot (Table 15.1) -/

/-- Step 2: PLLs locked, the clapper starts at 0 in state ROOT, and the boot ROM reads and verifies the image: fw_phase 1 from here to
the end of BOOT_IMAGE_VERIFY (DESIGN CHOICE, log 131). -/
def execBootPllLock (s : State) : Result :=
  .next (let s0 := s.fresh
    if s0.clock.running || s0.chipInReset then s0
    else { s0 with clock := { Clock.reset with running := true }, fw := { s0.fw with bootStep := 2 },
                   dev := { s0.dev with fwPhase := 1 } })

/-- Flash header copies (R480): sequence and slot of a valid one. -/
def State.flashHeader (s : State) (copy : Nat) : Option (Nat × Nat) :=
  let bs := s.flashBytes (0x8000 * copy) 16
  if leNat bs 0 4 = 0x4E524648 ∧ leNat bs 12 4 = crc32c (bs.take 12) then some (leNat bs 4 4, min 1 (leNat bs 8 1)) else none

/-- The governing copy: its number, sequence and slot; of two valid copies with equal sequence, copy 0 (DESIGN CHOICE, log 150). -/
def State.governing (s : State) : Option (Nat × Nat × Nat) :=
  match s.flashHeader 0, s.flashHeader 1 with
  | some a, some b => if a.1 < b.1 then some (1, b) else some (0, a)
  | some a, none => some (0, a)
  | none, some b => some (1, b)
  | none, none => none

/-- The slot that boot tries first: the governing header's, else A. -/
def State.bootSlot (s : State) : Nat :=
  match s.governing with
  | some g => g.2.2
  | none => 0

/-- The header figures of an image (Table 15.3). -/
def imageOf (bs : List Byte) : Image :=
  ⟨leNat bs 8 4, leNat bs 0x0C 1, leNat bs 0x0E 2, leNat bs 0x10 2, leNat bs 0x12 2⟩

/-- Check 1 of R482: magic, image_bytes within the bytes there are, reserved bytes 0. -/
def imageFormatOk (bs : List Byte) : Bool :=
  leNat bs 0 4 == 0x4E52494D && within 0x2000 0x40_0000 (leNat bs 4 4) && decide (leNat bs 4 4 ≤ bs.length) &&
  leNat bs 0x0D 1 == 0 && (slice bs 0x14 12).all (· == 0) && (slice bs 0x150D 2803).all (· == 0)

/-- Checks 2 to 4 of R482: both key digests and both signatures. -/
def Fuses.imageSigned (f : Fuses) (bs : List Byte) : Bool :=
  let ed := slice bs 0x20 32
  let ml := slice bs 0x40 1952
  let m := sha3_512 (bs.take 0x7E0 ++ (bs.take (leNat bs 4 4)).drop 0x2000)
  sha3_256 ed == f.edDigest && sha3_256 ml == f.mldsaDigest && ed25519Valid ed (slice bs 0x7E0 64) m &&
  mldsaValid ml (slice bs 0x820 3309) m

/-- The first failed check of R482, in its order. A staged image must also read the running firmware's handover format
(R500), looked at with check 1 (log 46). -/
def Fuses.imageRefused (f : Fuses) (running : Option Image) (bs : List Byte) : Option Nat :=
  let i := imageOf bs
  let reads := match running with
    | some r => within i.hmin i.hmax r.handover
    | none => true
  if !imageFormatOk bs || !reads then some eFormat
  else if !f.imageSigned bs then some eSignature
  else if i.rollback < f.rollback then some eRollback
  else none

/-- The bytes of a flash slot. -/
def State.slotBytes (s : State) (slot : Nat) : List Byte := s.flashBytes (0x1_0000 + slot * 0x40_0000) 0x40_0000

/-- The image of a slot as it is read into the stage of ARRAY0 (Table 15.1 step 5): image_bytes of it, at most 4 MiB. -/
def State.readSlot (s : State) (slot : Nat) : State :=
  let bs := s.slotBytes slot
  s.writeBytes Config.stageBase (bs.take (leNat bs 4 4))

/-- Steps 3 to 5 (R483): the governing slot is read and checked, else the other with BOOT_FALLBACK, else fw_phase 4 (R479). -/
def execBootImageVerify (s : State) : Result :=
  .next (let s0 := s.fresh
    if !(s0.fw.bootStep == 2) || s0.dev.fwPhase == 4 then s0
    else
      let first := s0.bootSlot
      let ok (slot : Nat) : Bool := (s0.fuses.imageRefused none (s0.slotBytes slot)).isNone
      let boot (slot : Nat) (s : State) : State :=
        { s with fw := { s.fw with bootStep := 5, image := some (imageOf (s.slotBytes slot)), fromSlot := some slot },
                 dev := { s.dev with fwPhase := 2 } }
      if !s0.fuses.ok then s0.bootInvalid
      else
        let s1 := s0.readSlot first
        if ok first then boot first s1
        else
          let s2 := s1.readSlot (1 - first)
          if ok (1 - first) then (boot (1 - first) s2).detectBrief .bootFallback 18 none else s2.bootInvalid)

/-! ## Protection (R485, R487) -/

/-- Windows 0 to 6 of Table 15.6. -/
def bootWindows (g : Grade) : List FwWindow :=
  let unit (a : Nat) : Nat := a / 0x1_0000
  let win (base size read write : Nat) : FwWindow := ⟨unit base, unit (base + size) - 1, read, write⟩
  [win 0 (Config.firmwareBase g) 0x3FF 0x3FF, win (Config.firmwareBase g) 0x4000_0000 0x00C 0x00C,
   win Config.benchBase (36 * Config.benchSize) 0x00E 0x106, win Config.stageBase (9 * Config.stageSize) 0x00C 0x104,
   win Config.motionBase (Config.motionEnd - Config.motionBase) 0x22C 0x224, win Config.lineBase (4 * Config.lineSize) 0x018 0x010,
   win Config.controlBase (Config.controlEnd - Config.controlBase) 0x008 0x008]

/-- Step 6: boot code has written the windows and policies and writes FW_LOCK; firmware starts on all cores. After the lock
the write is discarded and reported (R11). -/
def execFwLock (v : Word32) (s : State) : Result :=
  .next (let s0 := s.fresh
    if s0.wall.lock then s0.accessViolation 18 statusAccess
    else if !(s0.fw.bootStep == 5) || !v.getLsbD 0 then s0
    else
      let ws := bootWindows s0.fuses.grade ++ (Firewall.reset.windows.drop 7)
      { s0 with wall := { lock := true, jtagPolicy := 0, fusePolicy := 1, windows := ws },
                dev := { s0.dev with configLock := true },
                fw := { s0.fw with bootStep := 6, runSince := s0.clock.clap, served := Vector.replicate 8 s0.beat } })

/-! ## Firmware ready (Table 15.1 steps 7 and 9) -/

/-- The copy of the service area in force, if one is valid (R499). -/
def State.serviceCopy (s : State) : Option (List Byte) :=
  let a := s.serviceValid 0
  let b := s.serviceValid 1
  if a && (!b || decide (s.serviceSeqOf 1 ≤ s.serviceSeqOf 0)) then some (s.flashBytes (serviceBase 0) 0x4000)
  else if b then some (s.flashBytes (serviceBase 1) 0x4000)
  else none

/-- Redirected rows of the service area. -/
def serviceRepairs (bs : List Byte) : List Repair :=
  let bench := (List.finRange 36).flatMap fun b => (List.finRange 16).flatMap fun k => (List.range 2).map fun sp =>
    ((.bench b k, sp, leNat bs (0x1040 + 2 * ((b.val * 16 + k.val) * 2 + sp)) 2) : BankId × Nat × Nat)
  let stage := (List.finRange 9).flatMap fun r => (List.finRange 24).flatMap fun k => (List.range 4).map fun sp =>
    ((.stage r k, sp, leNat bs (0x1940 + 2 * ((r.val * 24 + k.val) * 4 + sp)) 2) : BankId × Nat × Nat)
  ((bench ++ stage).filter fun x => x.2.2 ≠ 0xFFFF).map fun x => ⟨x.1, x.2.1, x.2.2⟩

/-- The log entry in the bytes of ERROR_QUERY (Table 14.18). -/
def logEntryOf (bs : List Byte) : LogEntry :=
  { seq := leNat bs 0 4, level := leNat bs 4 1, unit := leNat bs 5 1, nested := bitOf (leNat bs 6 1) 0,
    fatal := bitOf (leNat bs 6 1) 1, action := leNat bs 7 1, beat := leNat bs 8 8, cause := leNat bs 0x10 2,
    stream := leNat bs 0x12 2, detail := leNat bs 0x14 8 }

/-- Entries of the fatal record, newest first; unused places have cause 0. -/
def fatalEntries (bs : List Byte) : List LogEntry :=
  ((List.range 16).map fun i => logEntryOf (slice bs (0x2000 + 32 * i) 32)).filter fun e => e.cause ≠ 0

/-- Put entries before those of the log and number all of them in order (R491, log 47). -/
def State.prependLog (s : State) (old : List LogEntry) : State :=
  if old.isEmpty then s
  else
    let all := s.err.log ++ old
    let n := all.length
    { s with err := { s.err with log := all.mapIdx (fun i e => { e with seq := n - 1 - i }), nextSeq := n } }

/-- Apply a copy of the service area. -/
def State.applyService (s : State) (bs : List Byte) : State :=
  let u := { s.units with
    blocks := s.units.blocks.mapIdx (fun i b => { b with retired := leNat bs (0x10 + i) 1 == 1 }),
    engines := s.units.engines.mapIdx (fun k e => { e with retired := bitOf (leNat bs 0x0A 2) k }),
    repairs := serviceRepairs bs,
    stageOut := (List.range 9).flatMap fun r => ((List.range 24).filter fun b => bitOf (leNat bs (0x2200 + 3 * r) 3) b).map fun b => (r, b) }
  let pages := (List.range (min 512 (leNat bs 8 2))).map fun i => leNat bs (0x40 + 8 * i) 8
  let ports := s.ports.mapIdx fun p x => { x with retired := bitOf (leNat bs 0x0C 1) p }
  ({ s with units := u, pool := { s.pool with retired := pages }, ports := ports }).prependLog (fatalEntries bs)

/-- Slots of the device event ring: 4,096 of 64 bytes (R460). -/
def eventRingBytes : Nat := 4096 * 64

def State.allocEvents (s : State) : State :=
  match s.alloc eventRingBytes .deviceRing with
  | none => s
  | some (s1, base) =>
    let s2 := s1.openWindow base eventRingBytes false .deviceRing
    { s2 with dev := { s2.dev with ring := { s2.dev.ring with base := base } } }

/-- Step 7 before the tests: the service area applied (R499), splice ports DOWN (R478). -/
def State.bootUnits (s : State) : State :=
  let s1 := match s.serviceCopy with
    | some bs => s.applyService bs
    | none => s
  let s2 := (List.range 6).foldl (fun s p =>
    if (s.port p).state = .disabled ∧ !(s.port p).retired then s.portEnters p .down else s) s1
  { s2 with fw := { s2.fw with bootStep := 7 } }

/-- CHECKER_START (R403), which firmware sends once it runs and step 7 is done (Table 15.1), never in fw_phase 4 (R479): phase RUN;
SAFE_STATE is released without an acknowledgement unless another cause is set. A checker in phase FAULT stays there (R402), and the boot
goes on. -/
def State.startChecker (s : State) : State :=
  if decide (s.fw.bootStep < 6) || s.dev.fwPhase == 4 then s
  else
    let s0 := if s.fw.bootStep = 6 then s.bootUnits else s
    let s1 := { s0 with fw := { s0.fw with bootStep := max 8 s0.fw.bootStep } }
    if !(s1.chk.phase == .rom) then s1
    else
      -- what came over the same crossing before it was taken in phase ROM, which judges nothing (R23)
      let s2 := { s1 with chk := { s1.chk with phase := .run, cause := s1.chk.cause &&& ~~~ (0x40 : Word32), fromFabric := [],
                                               fabricWait := [] } }
      if s2.chk.causes = 0 then s2.releaseSafe else s2

def execCheckerStart (s : State) : Result := .next s.fresh.startChecker

/-- The end of step 7, and step 9: blocks that failed the boot SRAM test retired, the device event ring allocated, fw_ready. -/
def execFwReady (failedBlocks : List (Fin 36)) (s : State) : Result :=
  .next (let s0 := s.fresh
    if !s0.wall.lock || s0.dev.fwReady || !(s0.dev.fwPhase == 2) || decide (s0.fw.bootStep < 8) then s0
    else
      let s2 := failedBlocks.foldl (fun s b => if (s.block b.val).retired then s else s.blockTestFails b.val none) s0
      if s2.err.halted then s2
      else
        let s4 := s2.allocEvents
        { s4 with dev := { s4.dev with fwReady := true, fwVersion := (s4.fw.image.map fun i => i.version).getD 0 },
                  fw := { s4.fw with bootStep := 9, served := Vector.replicate 8 s4.beat } })

/-! ## Staging and switching (R473, R500 to R502) -/

/-- Where the copy of a staged image lies in the firmware area, whose layout is not stated (log 11). -/
def State.stageHome (s : State) : Nat :=
  Config.firmwareBase s.fuses.grade + Config.placeHint s.free % 8192 * Config.poolUnit

def execFwStage (s : State) : Result :=
  .next (s.fresh.mboxRun 0x60 fun s c m =>
    match s.tensor? (leNat m 0x10 4) with
    | none => s.respondError c eNoTensor
    | some t =>
      let bs := s.readBytes t.base (min t.bytes 0x40_0000)
      match s.fuses.imageRefused s.fw.image bs with
      | some e => s.respondError c e
      | none =>
        let i := imageOf bs
        let whole := bs.take (leNat bs 4 4)
        let s1 := (s.writeBytes s.stageHome whole).spend
        let slot := 1 - s1.bootSlot
        let flash := bitOf (leNat m 0x14 1) 0
        let s2 := { s1 with fw := { s1.fw with staged := some i, stagedSlot := none,
                                               writing := if flash then some (slot, whole) else none,
                                               stageDue := if flash then none
                                                 else some (s1.beat + 1 + (Config.stageBeats s1.free).val) } }
        (s2.defer c (.fwStage slot) (some t.handle)).spend)

/-- The write of the boot flash ends (R473). -/
def execFlashWriteDone (s : State) : Result :=
  .next (let s0 := s.fresh
    match s0.fw.writing, s0.fw.staged with
    | some (slot, bs), some i =>
      let s1 := s0.flashWrite (0x1_0000 + slot * 0x40_0000) bs
      ({ s1 with fw := { s1.fw with writing := none, stagedSlot := some slot } }).completeDeferred Waits.isStage 0
        (leBytes 4 i.version ++ leBytes 4 i.rollback)
    | _, _ => s0)

def execFwSwitch (s : State) : Result :=
  .next (s.fresh.mboxRun 0x61 fun s c m =>
    match s.fw.staged with
    | none => s.respondError c eState
    | some i =>
      if leNat m 0x10 4 ≠ i.version then s.respondError c eState
      else
        ({ s with dev := { s.dev with fwPhase := 3 }, fw := { s.fw with switch := some ⟨s.beat⟩ } }).defer c .fwSwitch none)

/-- Rewrite the flash header to name a slot: the other copy, with sequence + 1 (R480). -/
def State.writeHeader (s : State) (slot : Nat) : State :=
  let g := s.governing
  let copy := match g with
    | some (k, _, _) => 1 - k
    | none => 0
  let seq := match g with
    | some (_, n, _) => n + 1
    | none => 1
  let head := leBytes 4 0x4E524648 ++ leBytes 4 seq ++ leBytes 1 slot ++ zeros 3
  s.flashWrite (0x8000 * copy) (head ++ leBytes 4 (crc32c head))

/-- The new firmware signals ready in time and takes over (Table 15.10): FW_VERSION, fw_phase 2, FW_SWITCHED, the response. -/
def execFwSwitchReady (s : State) : Result :=
  .next (let s0 := s.fresh
    match s0.fw.switch, s0.fw.staged with
    | some w, some i =>
      if s0.err.halted || decide (w.since + 400 < s0.beat) then s0
      else
        let old := s0.dev.fwVersion
        let s1 := match s0.fw.stagedSlot with
          | some slot => s0.writeHeader slot
          | none => s0
        let s2 := { s1 with
          dev := { s1.dev with fwPhase := 2, fwVersion := i.version },
          fw := { s1.fw with image := some i, fromSlot := s1.fw.stagedSlot, staged := none, stagedSlot := none, switch := none,
                             runSince := s1.clock.clap } }
        (s2.postDevice 0x0027 0 0 [Int.ofNat old, Int.ofNat i.version]).completeDeferred Waits.isSwitch 0 (leBytes 4 i.version)
    | _, _ => s0)

/-- No ready signal by beat 400 (R502). -/
def execFwSwitchTimeout (s : State) : Result :=
  .next (let s0 := s.fresh
    match s0.fw.switch with
    | none => s0
    | some w =>
      if s0.err.halted then s0
      else
        let s1 := s0.advanceTo (500 * (w.since + 400))
        ({ s1 with dev := { s1.dev with fwPhase := 2 }, fw := { s1.fw with switch := none } }).completeDeferred Waits.isSwitch eTest [])

/-- 3,600 s of clapper time. -/
def fuseTicks : Nat := 3600 * Config.ticksPerSecond

/-- The fuse count follows the running image (R484). -/
def execRollbackFuseUpdate (s : State) : Result :=
  .next (let s0 := s.fresh
    match s0.fw.image with
    | none => s0
    | some i =>
      let clean := match s0.err.chipAt with
        | some t => decide (t < s0.fw.runSince)
        | none => true
      let named := match s0.governing, s0.fw.fromSlot with
        | some g, some slot => g.2.2 == slot
        | _, _ => false
      if !s0.firmwareUp || !clean || !named || !bitOf s0.wall.fusePolicy 0 then s0
      else
        let s1 := s0.advanceTo (s0.fw.runSince + fuseTicks)
        { s1 with fuses := { s1.fuses with rollback := max s1.fuses.rollback (min 64 i.rollback) } })

end Sys2Proof.Machine
end

