-- ==== Sys2Proof/Machine/Board.lean ====
section
/-!
DEFINITION. Board management: temperatures and alerts (R520 to R522), the SMBus target (R504, R520, Tables 16.9 to 16.11) and
JTAG (R485, R486, R519). Temperatures are in 1/16 °C.
-/
namespace Sys2Proof.Machine

/-! ## Temperatures -/

/-- SMB_TDRAM's alert threshold and the refresh threshold: 90 °C and 85 °C. -/
def dramAlertAt : Int := 1440
def dramHotAt : Int := 1360

/-- Set alert bits. -/
def Board.alarm (b : Board) (bits : BitVec 16) : Board := { b with alert := b.alert ||| bits }

/-- A die temperature: tj_alert on a rise to or above the limit. -/
def Board.setTj (b : Board) (t : Int) : Board :=
  let b1 := { b with tj := t, tjPeak := max b.tjPeak t }
  if b.tj < b.limit ∧ b.limit ≤ t then b1.alarm 1 else b1

/-- A stack temperature: dram_hot and the doubled refresh rate above 85 °C (R522), dram_alert on a rise of the hottest to or
above 90 °C. -/
def Board.setDram (b : Board) (stack : Nat) (t : Int) : Board :=
  let b1 := { b with tdram := b.tdram.set stack t,
                     hot := if dramHotAt < t then insertUnit stack b.hot else b.hot.filter (· ≠ stack) }
  if b.hottest < dramAlertAt ∧ dramAlertAt ≤ b1.hottest then b1.alarm 2 else b1

def execTjAlert (tempQ : Int) (s : State) : Result :=
  .next (let s0 := s.fresh
    if s0.chipInReset then s0 else { s0 with board := s0.board.setTj tempQ })

def execDramHot (stack : Fin 4) (tempQ : Int) (s : State) : Result :=
  .next (let s0 := s.fresh
    if Config.stackCount s0.fuses.grade ≤ stack.val || s0.chipInReset then s0 else { s0 with board := s0.board.setDram stack.val tempQ })

/-- SMB_TDRAM changes: the stack that was hottest has the temperature. -/
def execDramAlert (tempQ : Int) (s : State) : Result :=
  .next (let s0 := s.fresh
    if s0.chipInReset then s0 else { s0 with board := s0.board.setDram (s0.board.tdram.findIdx (· == s0.board.hottest)) tempQ })

/-! ## SMBus (R520) -/

/-- The target NAKs its address during every reset and until 1 ms after time 0 of Table 15.1, which the lock of the PLLs follows (log
48). -/
def State.smbThere (s : State) : Bool :=
  s.clock.running && !s.chipInReset && decide (250_000 ≤ s.rawTick + Config.lockTicks.val)

/-- The target's 7-bit address (R504). -/
def Board.address (b : Board) : Nat := 0x58 + b.straps % 4

/-- The packet error code of SMBus 3.1 over the bytes of a transfer, address bytes among them: CRC-8 of x^8 + x^2 + x + 1 (PRESUMED, log
152). -/
def pecOf (bs : List Byte) : Byte :=
  bs.foldl (fun c b => (List.range 8).foldl (fun (c : Byte) _ => if c.getLsbD 7 then c <<< 1 ^^^ 7 else c <<< 1) (c ^^^ b)) 0

/-- What a read of an RC register clears (R11). -/
def Board.readClears (b : Board) (code : Nat) : Board :=
  match code with
  | 0x03 => { b with tjPeak := 0 }
  | 0x09 => { b with rateGen := 0, rateClap := 0 }
  | 0x0A => { b with rateAck := 0, rateHpd := 0 }
  | _ => b

/-- The three bytes that a Read Word returns: the word, low byte first, and the packet error code. -/
def State.smbWord (s : State) (code : Nat) : List Byte :=
  let word := leBytes 2 (s.smbRead code)
  let a := 2 * s.board.address
  word ++ [pecOf ([BitVec.ofNat 8 a, BitVec.ofNat 8 code, BitVec.ofNat 8 (a + 1)] ++ word)]

/-- Read Word: the register, then what the read clears. -/
def State.smbReadWord (s : State) (code : Nat) : State :=
  if !s.smbThere then s
  else
    let s1 := (s.answer (s.smbWord code)).spend
    { s1 with board := s1.board.readClears code }

/-- Write Word of SMB_ALERT_LIMIT or SMB_ALERT; other codes ignore writes. -/
def Board.smbWrite (b : Board) (code : Nat) (v : Word16) : Board :=
  match code with
  | 0x05 => { b with limit := toSigned 16 v.toNat }
  | 0x06 => { b with alert := rw1c b.alert v }
  | _ => b

def State.smbWriteWord (s : State) (code : Nat) (v : Word16) (pecGood : Bool) : State :=
  if s.smbThere && pecGood then { s with board := s.board.smbWrite code v } else s

def execSmbReadWord (code : Byte) (s : State) : Result := .next (s.fresh.smbReadWord code.toNat)

def execSmbTjPeakRead (s : State) : Result := .next (s.fresh.smbReadWord 0x03)

def execSmbRateFaultsRead (second : Bool) (s : State) : Result := .next (s.fresh.smbReadWord (if second then 0x0A else 0x09))

def execSmbWriteWord (code : Byte) (v : Word16) (pecGood : Bool) (s : State) : Result :=
  .next (s.fresh.smbWriteWord code.toNat v pecGood)

def execSmbAlertClear (v : PecWord) (s : State) : Result := .next (s.fresh.smbWriteWord 0x06 v.word v.pecGood)

/-- The Alert Response Address: answered with the target's address in the upper seven bits; the last bit is a free value
(log 48). -/
def execSmbAlertResponse (s : State) : Result :=
  .next (let s0 := s.fresh
    if s0.smbThere && s0.board.alertLow then
      (s0.answer (leBytes 1 (2 * s0.board.address + Config.freeValue s0.free % 2))).spend
    else s0)

/-! ## JTAG (R519) -/

/-- IDCODE. -/
def State.idcode (s : State) : Nat :=
  0xB * 2 ^ 28 + Config.part s.fuses.grade * 2 ^ 12 + Config.jedecCode.toNat * 2 + 1

/-- The instruction in force, with what stands in the boundary register. -/
def State.jtagAt (s : State) (code : Nat) (bypass : Bool) : State := { s with jtag := { s.jtag with last := code, bypass := bypass } }

/-- A boundary-scan instruction: the scan shifts its bytes into the boundary register and as many out, which are a free value (log 15). -/
def State.boundary (s : State) (code : Nat) (shift : List Byte) : State :=
  ({ s with jtag := ⟨code, false, shift⟩ }).spend.answer (leBytes shift.length (Config.jtagValue s.free))

/-- EXTEST drives the balls from the boundary register, whatever the chip does meanwhile. -/
def State.extestDrives (s : State) : Bool := s.jtag.last == 3 && !s.jtag.bypass && !s.chipInReset

/-- The level that Balim drives on a ball, none at high impedance (R510, R516, R520, R523). SAFE_STATE is pulled low only while the checker
holds it released, also under EXTEST (R510; log 15). -/
def State.ball (s : State) (b : OutBall) : Option Bool :=
  let low (on : Bool) : Option Bool := if on then some false else none
  match b with
  | .safeState => if s.chk.safe then none else if s.extestDrives then Config.boundaryLevel s.jtag.cells b else some false
  | _ => if s.extestDrives then Config.boundaryLevel s.jtag.cells b
    else match b with
      | .clapOut => s.clapOut
      | .thermTripN => low s.board.thermTrip
      | .smbAlertN => low (s.board.alertLow && !s.chipInReset)
      | .qspiCsN => if s.qspiHighZ then none else some true
      | .safeState => none

/-- An instruction without permission behaves as BYPASS and is logged as an access violation in the CONTROL slot (R486). -/
def State.jtagDenied (s : State) : State := (s.jtagAt 0 true).accessViolation 18 0

/-- An access of the SRAM aperture that JTAG_POLICY allows: the firewall and the address map still decide (R486). -/
def State.jtagSram (s : State) (addr : Nat) (write : Option (List Byte)) : State :=
  let n := match write with
    | some bs => bs.length
    | none => 8
  if addr < Config.benchBase then s.jtagDenied
  else if !s.allows .jtag write.isSome addr n then
    let s1 := s.accessViolation 18 0
    { s1.jtagAt 7 false with out := { s1.out with errorResponse := true } }
  else
    let s1 := s.jtagAt 7 false
    match write with
    | some bs => s1.storeBytes addr bs
    | none =>
      let s2 := s1.answer (s1.readBytes addr 8)
      { s2 with out := { s2.out with poisoned := s.poisonedAt addr 8 } }

/-- An instruction runs when it is one of the standard ones or JTAG_POLICY allows it (Table 15.4). -/
def State.jtagRun (s : State) (i : JtagInstr) : State :=
  let p := s.wall.jtagPolicy
  match i with
  | .bypass => s.jtagAt 0 true
  | .idcode => (s.jtagAt 1 false).answer (leBytes 4 s.idcode)
  | .samplePreload d => s.boundary 2 d
  | .extest d => s.boundary 3 d
  | .extestPulse d => s.boundary 4 d
  | .extestTrain d => s.boundary 5 d
  | .readSram a => if 1 ≤ p % 4 ∧ p % 4 ≤ 2 then s.jtagSram a none else s.jtagDenied
  | .writeSram a bs => if p % 4 = 2 then s.jtagSram a (some bs) else s.jtagDenied
  | .haltCore c =>
    if bitOf p 2 then { s.jtagAt 8 false with fw := { s.fw with halted := insertUnit c.val s.fw.halted } } else s.jtagDenied
  | .stepCore _ => if bitOf p 2 then (s.spend.answer (leBytes 8 (Config.jtagValue s.free))) else s.jtagDenied
  | .other => s.jtagDenied

/-- JTAG takes no part while the chip is held in reset (R516). -/
def execJtagInstruction (i : JtagInstr) (s : State) : Result := .next (if s.chipInReset then s.fresh else s.fresh.jtagRun i)

end Sys2Proof.Machine
end

