-- ==== Sys2Proof/Machine/Dispatch.lean ====
section
/-!
DEFINITION. One arm per command: a direct call of its meaning.
-/
namespace Sys2Proof.Machine

def exec (i : Instr) (s : State) : Host.Outcome State Fault Refusal :=
  match i with
  | .deviceInfo => Sys2Proof.Machine.execDeviceInfo s
  | .errorQuery => Sys2Proof.Machine.execErrorQuery s
  | .streamQuery => Sys2Proof.Machine.execStreamQuery s
  | .tensorAlloc => Sys2Proof.Machine.execTensorAlloc s
  | .tensorFree => Sys2Proof.Machine.execTensorFree s
  | .reelLoad content => Sys2Proof.Machine.execReelLoad content s
  | .reelDrop => Sys2Proof.Machine.execReelDrop s
  | .streamOpen => Sys2Proof.Machine.execStreamOpen s
  | .streamClose => Sys2Proof.Machine.execStreamClose s
  | .outputConfigure => Sys2Proof.Machine.execOutputConfigure s
  | .setConfigure => Sys2Proof.Machine.execSetConfigure s
  | .launchAt => Sys2Proof.Machine.execLaunchAt s
  | .unitRetire => Sys2Proof.Machine.execUnitRetire s
  | .unitReturn => Sys2Proof.Machine.execUnitReturn s
  | .fwStage => Sys2Proof.Machine.execFwStage s
  | .fwSwitch => Sys2Proof.Machine.execFwSwitch s
  | .mboxSubmit v => Sys2Proof.Machine.execMboxSubmit v s
  | .mboxDoneClear v => Sys2Proof.Machine.execMboxDoneClear v s
  | .mboxErrorClear v => Sys2Proof.Machine.execMboxErrorClear v s
  | .errStatusClear v => Sys2Proof.Machine.execErrStatusClear v s
  | .gateEventsClear g v => Sys2Proof.Machine.execGateEventsClear g v s
  | .clapLoRead wide => Sys2Proof.Machine.execClapLoRead wide s
  | .beatLoRead wide => Sys2Proof.Machine.execBeatLoRead wide s
  | .errLastBeatLoRead wide => Sys2Proof.Machine.execErrLastBeatLoRead wide s
  | .gateStartLoRead g wide => Sys2Proof.Machine.execGateStartLoRead g wide s
  | .gateFpxLoRead g wide => Sys2Proof.Machine.execGateFpxLoRead g wide s
  | .devEventConsumer v => Sys2Proof.Machine.execDevEventConsumer v s
  | .doorbell stream v => Sys2Proof.Machine.execDoorbell stream v s
  | .doorbellHandle => Sys2Proof.Machine.execDoorbellHandle s
  | .msixTableWrite dword v => Sys2Proof.Machine.execMsixTableWrite dword v s
  | .bar0RegisterWrite offset lo hi => Sys2Proof.Machine.execBar0RegisterWrite offset lo hi s
  | .bar0BadAccess write offset size => Sys2Proof.Machine.execBar0BadAccess write offset size s
  | .bar2Access offset len write => Sys2Proof.Machine.execBar2Access offset len write s
  | .configRequest access => Sys2Proof.Machine.execConfigRequest access s
  | .hostIslandReset cause => Sys2Proof.Machine.execHostIslandReset cause s
  | .hostLinkUp => Sys2Proof.Machine.execHostLinkUp s
  | .hostLossClose => Sys2Proof.Machine.execHostLossClose s
  | .rushSlice stream => Sys2Proof.Machine.execRushSlice stream s
  | .retime stream => Sys2Proof.Machine.execRetime stream s
  | .proxy stream => Sys2Proof.Machine.execProxy stream s
  | .unknownCommandEntry stream => Sys2Proof.Machine.execUnknownCommandEntry stream s
  | .ovlList stream => Sys2Proof.Machine.execOvlList stream s
  | .arrivalWindowOpen stream => Sys2Proof.Machine.execArrivalWindowOpen stream s
  | .keyframeCutoff stream => Sys2Proof.Machine.execKeyframeCutoff stream s
  | .pyramidBuild stream group => Sys2Proof.Machine.execPyramidBuild stream group s
  | .blockMatch stream group => Sys2Proof.Machine.execBlockMatch stream group s
  | .censusRefine stream group => Sys2Proof.Machine.execCensusRefine stream group s
  | .occlusionConfidence stream group => Sys2Proof.Machine.execOcclusionConfidence stream group s
  | .rayTraversal stream group => Sys2Proof.Machine.execRayTraversal stream group s
  | .warpFallback stream frame row => Sys2Proof.Machine.execWarpFallback stream frame row s
  | .warpDoneToken stream frame row => Sys2Proof.Machine.execWarpDoneToken stream frame row s
  | .beatBoundary => Sys2Proof.Machine.execBeatBoundary s
  | .callSheetSeal => Sys2Proof.Machine.execCallSheetSeal s
  | .callSheetArrive corrupt => Sys2Proof.Machine.execCallSheetArrive corrupt s
  | .takeAdmit => Sys2Proof.Machine.execTakeAdmit s
  | .takeEnd seen => Sys2Proof.Machine.execTakeEnd seen s
  | .spareRefillDone => Sys2Proof.Machine.execSpareRefillDone s
  | .takeDoneToken remote => Sys2Proof.Machine.execTakeDoneToken remote s
  | .dueBeatPassed stream frame tile => Sys2Proof.Machine.execDueBeatPassed stream frame tile s
  | .frameClose stream frame => Sys2Proof.Machine.execFrameClose stream frame s
  | .downgradeNotice => Sys2Proof.Machine.execDowngradeNotice s
  | .repairWindow found => Sys2Proof.Machine.execRepairWindow found s
  | .dollyMoveComplete engine move purpose failed => Sys2Proof.Machine.execDollyMoveComplete engine move purpose failed s
  | .dramPatrol stack finding => Sys2Proof.Machine.execDramPatrol stack finding s
  | .errorDetect cause unit stream => Sys2Proof.Machine.execErrorDetect cause unit stream s
  | .controlWatchdog core => Sys2Proof.Machine.execControlWatchdog core s
  | .tagTimeout tag => Sys2Proof.Machine.execTagTimeout tag s
  | .generatedRecord => Sys2Proof.Machine.execGeneratedRecord s
  | .fallbackRecord => Sys2Proof.Machine.execFallbackRecord s
  | .regionRecord => Sys2Proof.Machine.execRegionRecord s
  | .readbackRecord g => Sys2Proof.Machine.execReadbackRecord g s
  | .storeRecord => Sys2Proof.Machine.execStoreRecord s
  | .dailiesRecord => Sys2Proof.Machine.execDailiesRecord s
  | .checkerStart => Sys2Proof.Machine.execCheckerStart s
  | .checkerFault kind => Sys2Proof.Machine.execCheckerFault kind s
  | .checkerSelfTest good bad => Sys2Proof.Machine.execCheckerSelfTest good bad s
  | .checkerScrub uncorrectable => Sys2Proof.Machine.execCheckerScrub uncorrectable s
  | .safeAckEdge e => Sys2Proof.Machine.execSafeAckEdge e s
  | .safeAckTimeout => Sys2Proof.Machine.execSafeAckTimeout s
  | .ackStuck => Sys2Proof.Machine.execAckStuck s
  | .spiRead bytes => Sys2Proof.Machine.execSpiRead bytes s
  | .spiWrite bytes => Sys2Proof.Machine.execSpiWrite bytes s
  | .chkRelease v => Sys2Proof.Machine.execChkRelease v s
  | .chkChallenge v => Sys2Proof.Machine.execChkChallenge v s
  | .chkCauseClear v => Sys2Proof.Machine.execChkCauseClear v s
  | .overlayBinRow stream frame row => Sys2Proof.Machine.execOverlayBinRow stream frame row s
  | .overlayPass stream frame row => Sys2Proof.Machine.execOverlayPass stream frame row s
  | .overlayPassAbandon stream frame row => Sys2Proof.Machine.execOverlayPassAbandon stream frame row s
  | .tileRowLatch stream frame row => Sys2Proof.Machine.execTileRowLatch stream frame row s
  | .lineFetch g => Sys2Proof.Machine.execLineFetch g s
  | .lineRead g => Sys2Proof.Machine.execLineRead g s
  | .lineMatch g => Sys2Proof.Machine.execLineMatch g s
  | .sob g => Sys2Proof.Machine.execSob g s
  | .frameDone g => Sys2Proof.Machine.execFrameDone g s
  | .gatePllLock g => Sys2Proof.Machine.execGatePllLock g s
  | .hpdEdge g e => Sys2Proof.Machine.execHpdEdge g e s
  | .hpdUnplug g => Sys2Proof.Machine.execHpdUnplug g s
  | .linkTraining g seen => Sys2Proof.Machine.execLinkTraining g seen s
  | .genlockEdge e => Sys2Proof.Machine.execGenlockEdge e s
  | .genlockLost g => Sys2Proof.Machine.execGenlockLost g s
  | .flitSlot port => Sys2Proof.Machine.execFlitSlot port s
  | .flitReceive port bytes frac => Sys2Proof.Machine.execFlitReceive port bytes frac s
  | .retryWaitExpiry port => Sys2Proof.Machine.execRetryWaitExpiry port s
  | .replayTimeout port => Sys2Proof.Machine.execReplayTimeout port s
  | .spliceTrainingAttempt port peer => Sys2Proof.Machine.execSpliceTrainingAttempt port peer s
  | .spliceTrainingDone port seen => Sys2Proof.Machine.execSpliceTrainingDone port seen s
  | .retrainTimeout port => Sys2Proof.Machine.execRetrainTimeout port s
  | .clapperCorrection => Sys2Proof.Machine.execClapperCorrection s
  | .clapInEdge e => Sys2Proof.Machine.execClapInEdge e s
  | .clapSourceLost => Sys2Proof.Machine.execClapSourceLost s
  | .launchMessage peer msg => Sys2Proof.Machine.execLaunchMessage peer msg s
  | .launchGoPoint => Sys2Proof.Machine.execLaunchGoPoint s
  | .launchCommit => Sys2Proof.Machine.execLaunchCommit s
  | .setCue cue => Sys2Proof.Machine.execSetCue cue s
  | .exchangePhase takeId => Sys2Proof.Machine.execExchangePhase takeId s
  | .batchFrameComplete stream => Sys2Proof.Machine.execBatchFrameComplete stream s
  | .returningTestDone kind index pass => Sys2Proof.Machine.execReturningTestDone kind index pass s
  | .portReturnTimeout port => Sys2Proof.Machine.execPortReturnTimeout port s
  | .fwSwitchReady => Sys2Proof.Machine.execFwSwitchReady s
  | .fwSwitchTimeout => Sys2Proof.Machine.execFwSwitchTimeout s
  | .rollbackFuseUpdate => Sys2Proof.Machine.execRollbackFuseUpdate s
  | .fundamentalReset cause => Sys2Proof.Machine.execFundamentalReset cause s
  | .bootPllLock => Sys2Proof.Machine.execBootPllLock s
  | .bootImageVerify => Sys2Proof.Machine.execBootImageVerify s
  | .fwLock v => Sys2Proof.Machine.execFwLock v s
  | .fwReady failedBlocks => Sys2Proof.Machine.execFwReady failedBlocks s
  | .resetNAssert e => Sys2Proof.Machine.execResetNAssert e s
  | .perstNAssert e => Sys2Proof.Machine.execPerstNAssert e s
  | .deferredEdge pin => Sys2Proof.Machine.execDeferredEdge pin s
  | .brownOut => Sys2Proof.Machine.execBrownOut s
  | .thermalTrip => Sys2Proof.Machine.execThermalTrip s
  | .clapperFault => Sys2Proof.Machine.execClapperFault s
  | .dramHot stack tempQ => Sys2Proof.Machine.execDramHot stack tempQ s
  | .tjAlert tempQ => Sys2Proof.Machine.execTjAlert tempQ s
  | .smbReadWord code => Sys2Proof.Machine.execSmbReadWord code s
  | .smbWriteWord code v pecGood => Sys2Proof.Machine.execSmbWriteWord code v pecGood s
  | .smbAlertResponse => Sys2Proof.Machine.execSmbAlertResponse s
  | .smbTjPeakRead => Sys2Proof.Machine.execSmbTjPeakRead s
  | .smbRateFaultsRead second => Sys2Proof.Machine.execSmbRateFaultsRead second s
  | .smbAlertClear v => Sys2Proof.Machine.execSmbAlertClear v s
  | .jtagInstruction instr => Sys2Proof.Machine.execJtagInstruction instr s
  | .gateFrameStart g => Sys2Proof.Machine.execGateFrameStart g s
  | .acceptedSourceWrite => Sys2Proof.Machine.execAcceptedSourceWrite s
  | .dramAlert tempQ => Sys2Proof.Machine.execDramAlert tempQ s
  | .flashWriteDone => Sys2Proof.Machine.execFlashWriteDone s
  | .pagePatternTestDone page pass => Sys2Proof.Machine.execPagePatternTestDone page pass s
  | .idleTimeRepair bank => Sys2Proof.Machine.execIdleTimeRepair bank s

end Sys2Proof.Machine
end

