-- ==== Sys2Proof/Safety.lean ====
section
/-!
DEFINITION. What counts as a safe state and a safe step, in the terms the statements use: canonical memory, a command that
completes, a message that firmware begins and its answer.
-/
namespace Sys2Proof.Machine

/-- Device memory and flash are in canonical form. -/
def State.memoryCanonical (s : State) : Bool := Memory.wf s.mem && Memory.wfAt flashDefault s.flash

/-- The command completes in a next state that satisfies `P`. -/
def completes (c : Instr) (s : State) (P : State → Prop) : Prop := ∃ t, exec c s = .next t ∧ P t

/-- The host reaches the device (R30, R449, R509, R515). -/
def State.hostUp (s : State) : Prop := s.host.inReset = false ∧ s.chipInReset = false

/-- BAR 0 has something to write at the 4-byte offset (R443, Table 14.6): MBOX_SUBMIT, MBOX_DONE, MBOX_ERROR, BAR2_BASE, the event
ring's consumer, SCRATCH, doorbells, mailbox channels, ERR_STATUS, GATE_EVENTS, the MSI-X table. -/
def bar0Writable (o : Nat) : Bool :=
  [0x010, 0x018, 0x01C, 0x020, 0x024, 0x02C, 0x034, 0x3000, 0x5000, 0x5040, 0x5080, 0x50C0].contains o ||
  (decide (0x1000 ≤ o) && decide (o < 0x3000)) || (decide (0x8000 ≤ o) && decide (o < 0x1_0000))

/-- The slot of a region is free (R488). -/
def State.regionFree (s : State) (k : Nat) : Prop := s.slotHeld (.region k) = false

/-- Firmware begins the message of channel `c` with opcode `op`: it is next in mailbox order, its opcode and units are those
of Table 14.16, its stream field is one the opcode allows, and no pending message names what it names (R463). -/
structure State.Begins (s : State) (op c : Nat) : Prop where
  next : s.mbox.order.head? = some c
  chan : c < 16
  ready : s.dev.fwReady = true
  phase : s.dev.fwPhase ≠ 4
  switch : s.waiting? Waits.isSwitch = none
  known : msgKnown (s.chanBytes c) = true
  opcode : msgOpcode (s.chanBytes c) = op
  stream : msgStreamOk (s.chanBytes c) = true
  free : s.namesPending (s.chanBytes c) = false

/-- The state in which firmware carries a message out: answers of the command before cleared, the message taken from mailbox
order. -/
def State.taken (s : State) : State := s.fresh.takeHead

/-- Channel `c` of `t` is DONE and holds the response to the message it held in `s` (R461, R462). -/
structure State.Answered (s t : State) (c status detail : Nat) (body : List Byte) : Prop where
  response : t.chanBytes c = patch (s.chanBytes c) 0 (slice (responseHeader (s.chanBytes c) status detail ++ body) 0
    (64 * responseUnits (msgOpcode (s.chanBytes c))))
  busy : t.dev.mboxBusy = s.dev.mboxBusy &&& ~~~ chanBit c
  done : t.dev.mboxDone = s.dev.mboxDone ||| chanBit c
  order : t.mbox.order = s.mbox.order.drop 1
  deferred : t.mbox.deferred = s.mbox.deferred
  others : ∀ k, k ≠ c → t.chanBytes k = s.chanBytes k
  regs : t.dev = { s.dev with mboxBusy := t.dev.mboxBusy, mboxDone := t.dev.mboxDone }
  pend : t.host = { s.host with pend := t.host.pend }

/-- The message is taken from mailbox order and waits as the deferred message `d`; no channel changes (R463). -/
def State.Postponed (s t : State) (d : Deferred) : Prop :=
  t.mbox = { s.mbox with order := s.mbox.order.drop 1, deferred := s.mbox.deferred ++ [d] }

/-- Of the clapper only its value may have risen, with a held value let go. -/
def State.timePassed (s t : State) : Prop :=
  s.clock.clap ≤ t.clock.clap ∧ t.clock = { s.clock with clap := t.clock.clap, holding := t.clock.holding }

/-- Of the host's side only pending bits may have been set, and MSI-X messages sent. -/
def State.onlyRaised (s t : State) : Prop :=
  t.host = { s.host with pend := t.host.pend } ∧ (∀ v ∈ s.host.pend, v ∈ t.host.pend) ∧ t.out = { Out.none with msix := t.out.msix }

/-- The new level on an input passes the glitch filter and comes no sooner than the pin's minimum interval after the last
accepted edge: an accepted edge (R514, R515). -/
structure State.Accepts (s : State) (pin : InputPin) (e : Edge) : Prop where
  known : s.input pin ∈ s.inputs
  named : (s.input pin).pin = pin
  long : 17 ≤ e.samples
  changed : (s.input pin).filtered = !e.level
  spaced : ∀ l, (s.input pin).lastEdge = some l → l + minInterval pin ≤ s.edgeRaw e

/-- The deferred messages that `p` names have left, their channels DONE, each other one still waits; a message that is the only
one named is answered with the status and body. -/
def State.answersDeferred (s t : State) (p : Waits → Bool) (status : Nat) (body : List Byte) : Prop :=
  (∀ d ∈ s.mbox.deferred, (p d.waits = true → d ∉ t.mbox.deferred ∧ (d.chan < 16 → t.dev.mboxDone.getLsbD d.chan = true)) ∧
    (p d.waits = false → d ∈ t.mbox.deferred)) ∧
  (∀ d, (s.mbox.deferred.filter fun d => p d.waits) = [d] → d.chan < 16 →
    t.chanBytes d.chan = patch (s.chanBytes d.chan) 0 (slice (responseHeader (s.chanBytes d.chan) status 0 ++ body) 0
      (64 * responseUnits (msgOpcode (s.chanBytes d.chan)))))

/-- What a fundamental reset leaves: every island at its reset values, with fuses, flash, straps and the waiting commands kept
(R474). -/
structure State.Wiped (s t : State) (hold : PowerHold) (power : Bool) : Prop where
  clock : t.clock = Clock.reset
  dev : t.dev = Device.reset
  chk : t.chk = Checker.reset
  err : t.err = ⟨0, 0, 0, [], [], false, none, []⟩
  mem : t.mem = []
  streams : ∀ i, t.stream i = Stream.reset
  ports : ∀ p, t.port p = Port.reset
  gates : ∀ g < 4, (t.gate g).cfg = none ∧ (t.gate g).runningGen = false ∧ (t.gate g).holder = none ∧
    (t.gate g).hpdLevel = (!power && (s.gate g).hpdLevel) ∧ (t.gate g).unplugged = !(t.gate g).hpdLevel ∧ (t.gate g).sink = none ∧
    (t.gate g).fallAt = none
  inputs : power = true → t.inputs = inputsReset
  fw : t.fw = Firmware.reset
  board : t.board = { Board.reset with straps := s.board.straps, hold := hold, thermTrip := t.board.thermTrip }
  flash : t.flash = s.flash
  fuses : t.fuses = s.fuses
  pending : t.pending = s.pending

/-! ### Memory and events -/

/-- No byte at the addresses `off` changes, and no unit that begins at one of them is poisoned or loses its poison. -/
def State.onlyWrites (s t : State) (off : Nat → Prop) : Prop :=
  ∀ a, off a → t.readByte a = s.readByte a ∧ (a ∈ t.poison ↔ a ∈ s.poison)

/-- The slot of the device event ring's next entry (R460). -/
def State.deviceSlot (s : State) : Nat := s.dev.ring.base + s.dev.ring.producer % 4096 * 64

/-- Outside that slot. -/
def State.offDeviceEvent (s : State) (a : Nat) : Prop := a < s.deviceSlot ∨ s.deviceSlot + 64 ≤ a

/-- Outside the slot and the indices of a stream's ring that an entry of `n` bytes is written to (R452, R454). -/
def State.offPush (s : State) (st i n a : Nat) : Prop :=
  let r := s.ring st i
  (a < r.slotAt r.producer ∨ r.slotAt r.producer + n ≤ a) ∧ (a < r.at_ + 16 ∨ r.at_ + 28 ≤ a)

/-- Outside the consumer index of a stream's ring. -/
abbrev State.offConsumer (s : State) (st i a : Nat) : Prop := a < (s.ring st i).at_ + 20 ∨ (s.ring st i).at_ + 24 ≤ a

/-- Outside the tile map and the tile records of a frame half of a stream (R64, R326). -/
def Stream.offFrame (x : Stream) (half a : Nat) : Prop :=
  (a < x.mapAt half ∨ x.mapAt half + 8 * x.p.tileCount ≤ a) ∧
  (x.p.overlayArea = 0 ∨ a < x.recordAt half 0 ∨ x.recordAt half 0 + 4 * x.p.tileCount ≤ a)

/-- An event of this code stands in the device event ring, where firmware is ready and the ring has room (R459, R460). -/
def State.deviceEvent (s t : State) (code : Nat) : Prop :=
  let r := s.dev.ring
  s.dev.fwReady = true → (r.producer + 2 ^ 32 - r.consumer % 2 ^ 32) % 2 ^ 32 < 4096 →
    t.dev.ring.producer = (r.producer + 1) % 2 ^ 32 ∧
    ∃ detail stamp frame payload, t.readBytes s.deviceSlot 64 = eventEntry 0xFFFF code detail stamp frame r.lostSince payload

/-- An event of this code stands in the stream's event ring, where that ring has room and its slots lie outside its descriptor
(R454, R459). -/
def State.streamEvent (s t : State) (st code : Nat) : Prop :=
  let r := s.ring st 3
  (s.stream st).state ≠ .free → r.entryBytes ≠ 0 → r.full = false →
    (r.slotAt r.producer + 64 ≤ r.at_ + 16 ∨ r.at_ + 28 ≤ r.slotAt r.producer) →
    t.readNat (r.at_ + 16) 4 = (r.producer + 1) % 2 ^ 32 ∧
    ∃ detail stamp frame payload, t.readBytes (r.slotAt r.producer) 64 =
      eventEntry st code detail stamp frame (s.stream st).lostEvent payload

/-- No packet waits at a port for a tag or a credit, and no write of this chip to another member (R26, R31). -/
abbrev State.nothingWaits (s : State) : Prop :=
  (∀ q : Fin 6, (s.port q).stalled = [] ∧ (s.port q).stalledRsp = []) ∧ s.set.unsent = [] ∧ s.set.answers = []

/-- At the clapper's value no line of the gate is missing at its read time, so that no UNDERRUN comes first (R352). -/
abbrev State.readQuiet (s : State) (g : Nat) : Prop :=
  (s.gate g).readTick ≠ some s.clock.clap ∨ s.layerOff g = true ∨ ∃ b ∈ (s.gate g).buffer, b.1 = (s.gate g).readLine

/-- At the clapper's value no LINE_MATCH of the gate is due (R352). -/
def State.matchQuiet (s : State) (g : Nat) : Prop :=
  ∀ c, (s.gate g).cfg = some c → (s.gate g).matchWaits c = true → (s.gate g).lineStart c 0 c.matchLine / subTicks ≠ s.clock.clap

/-- At the clapper's value no UNDERRUN, LINE_MATCH, SOB or FRAME_DONE of the gate is due, which would come before another event of the
tick, and no GENLOCK that would come after it (R352). -/
def State.gateQuiet (s : State) (g : Nat) : Prop :=
  s.readQuiet g ∧ s.matchQuiet g ∧ (s.gate g).genPost = none ∧ ∀ c, (s.gate g).cfg = some c →
    ((s.gate g).sobWaits = true → (s.gate g).lineStart c 0 c.vActive / subTicks ≠ s.clock.clap) ∧ s.doneReady g c = false

/-- Only the mailbox, the DEVICE block, the answers and pending interrupts differ. -/
def State.onlyMail (s t : State) : Prop := t = { s with mbox := t.mbox, dev := t.dev, out := t.out, host := t.host }

end Sys2Proof.Machine
end

