-- ==== Sys2Proof/Certificates/Slice0/Obligations.lean ====
section
/-!
DEFINITION. The statements for the provers, family by family: each says for which states a command completes, what its
next state holds, and what it leaves alone.
-/
open Sys2Proof Sys2Proof.Machine

/-! ## The step, the queue and reset -/

/-- A step executes the command at the front of the queue on the state with the rest of the queue. With an empty queue the clapper
counts one tick while it runs, or lets go a held value (log 4, the model's choice for an idle block). Every command completes from
every state: none of them ends in a fault or a refusal, and none depends on the answers of the command before it. -/
def Obligations.StepRunsCommand : Prop :=
  (∀ (c : Instr) (rest : List Instr) (s : State),
    step { s with pending := c :: rest } = exec c { s with pending := rest }) ∧
  (∀ s : State, s.pending = [] → s.clock.running = true → s.clock.holding = false →
    step s = .next { s with clock := { s.clock with clap := (s.clock.clap + 1) % 2 ^ 64 } }) ∧
  (∀ s : State, s.pending = [] → s.clock.running = true → s.clock.holding = true →
    step s = .next { s with clock := { s.clock with holding := false } }) ∧
  (∀ (c : Instr) (s : State), ∃ t, exec c s = .next t ∧ exec c s.fresh = .next t)

/-- What a fundamental reset leaves: SAFE_STATE asserted in phase ROM, gates dark, ports DISABLED, streams FREE, firmware
not ready, nothing logged, and memory in canonical form. -/
def Obligations.ResetValues : Prop :=
  ∀ (f : Fuses) (flash : List Host.Cell) (straps : Nat), Memory.wfAt flashDefault flash = true →
    let s := State.afterReset f flash straps
    s.chk.phase = .rom ∧ s.chk.safe = true ∧ s.chk.cause = 0x40 ∧
    (∀ g, (s.gate g).cfg = none ∧ (s.gate g).runningGen = false ∧ (s.gate g).events = 0) ∧
    (∀ p, (s.port p).state = .disabled) ∧ (∀ i, (s.stream i).state = .free) ∧
    s.dev.fwReady = false ∧ s.dev.bar2Size = 28 ∧ s.err.status = 0 ∧ s.err.log = [] ∧
    s.board.limit = 0x640 ∧ s.wall.lock = false ∧ s.pending = [] ∧ s.memoryCanonical = true

/-- Every step keeps device memory and flash in canonical form: addresses strictly rising, no byte listed that an unlisted
address reads as. -/
def Obligations.StepKeepsMemoryCanonical : Prop :=
  ∀ s t : State, s.memoryCanonical = true → step s = .next t → t.memoryCanonical = true

/-! ## Registers of BAR 0 and the host's accesses -/

/-- MBOX_SUBMIT of a channel that is not BUSY makes it BUSY and puts it last in mailbox order; nothing else changes (R461). MBOX_SUBMIT
of a BUSY channel sets the channel's bit of MBOX_ERROR and submits nothing (R461). -/
def Obligations.SubmitHandled : Prop :=
  (∀ (s : State) (v : Word32), s.hostUp → s.dev.mboxBusy.getLsbD (v.toNat % 16) = false →
    completes (.mboxSubmit v) s fun t =>
      t.dev.mboxBusy = s.dev.mboxBusy ||| chanBit (v.toNat % 16) ∧
      t.dev.mboxDone = s.dev.mboxDone &&& ~~~ chanBit (v.toNat % 16) ∧
      t.mbox.order = s.mbox.order ++ [v.toNat % 16] ∧ t.mbox.chans = s.mbox.chans ∧
      t = { s with out := Out.none, mbox := { s.mbox with order := t.mbox.order },
                   dev := { s.dev with mboxBusy := t.dev.mboxBusy, mboxDone := t.dev.mboxDone } }) ∧
  (∀ (s : State) (v : Word32), s.hostUp → s.regionFree 12 → s.dev.mboxBusy.getLsbD (v.toNat % 16) = true →
    completes (.mboxSubmit v) s fun t =>
      t.dev = { s.dev with mboxError := s.dev.mboxError ||| chanBit (v.toNat % 16) } ∧ t.mbox = s.mbox ∧
      t.mem = s.mem ∧ t.streams = s.streams ∧ t.err.status.getLsbD 5 = true)

/-- RW1C registers: a bit written 1 clears, every other bit stays, and nothing else changes (Table 0.4). A read of a low half answers
the low half, or both halves in an 8-byte read, and latches the high half; nothing else changes (R446, R447, R438). -/
def Obligations.RegisterBitsAndLatches : Prop :=
  (∀ (s : State) (v : Word32), s.hostUp →
    (completes (.mboxDoneClear v) s fun t =>
      (∀ i < 16, t.dev.mboxDone.getLsbD i = (s.dev.mboxDone.getLsbD i && !v.getLsbD i)) ∧
      t = { s with out := Out.none, dev := { s.dev with mboxDone := t.dev.mboxDone } }) ∧
    (completes (.mboxErrorClear v) s fun t =>
      (∀ i < 16, t.dev.mboxError.getLsbD i = (s.dev.mboxError.getLsbD i && !v.getLsbD i)) ∧
      t = { s with out := Out.none, dev := { s.dev with mboxError := t.dev.mboxError } }) ∧
    (completes (.errStatusClear v) s fun t =>
      (∀ i < 32, t.err.status.getLsbD i = (s.err.status.getLsbD i && !v.getLsbD i)) ∧
      t = { s with out := Out.none, err := { s.err with status := t.err.status } }) ∧
    (∀ g : Fin 4, completes (.gateEventsClear g v) s fun t =>
      (∀ i < 7, (t.gate g).events.getLsbD i = ((s.gate g).events.getLsbD i && !v.getLsbD i)) ∧
      (∀ k, k ≠ g.val → t.gate k = s.gate k) ∧
      t.gate g = { s.gate g with events := (t.gate g).events } ∧
      t = { s with out := Out.none, gates := t.gates })) ∧
  (∀ (s : State) (wide : Bool), s.hostUp → s.clock.running = true →
    let n := if wide then 8 else 4
    (completes (.clapLoRead wide) s fun t =>
      t.out = { Out.none with data := leBytes n (s.copy hostIsland) } ∧
      t = { s with out := t.out, dev := { s.dev with clapHi := hiHalf (s.copy hostIsland) } }) ∧
    (completes (.beatLoRead wide) s fun t =>
      t.out = { Out.none with data := leBytes n (s.copy hostIsland / 500) } ∧
      t = { s with out := t.out, dev := { s.dev with beatHi := hiHalf (s.copy hostIsland / 500) } }) ∧
    (completes (.errLastBeatLoRead wide) s fun t =>
      t.out = { Out.none with data := leBytes n ((s.err.log.head?.map (·.beat)).getD 0) } ∧
      t = { s with out := t.out, dev := { s.dev with lastBeatHi := hiHalf ((s.err.log.head?.map (·.beat)).getD 0) } }) ∧
    (∀ g : Fin 4, completes (.gateStartLoRead g wide) s fun t =>
      t.out = { Out.none with data := leBytes n (s.gate g).startTick } ∧
      t.gate g = { s.gate g with startHi := hiHalf (s.gate g).startTick } ∧ (∀ k, k ≠ g.val → t.gate k = s.gate k) ∧
      t = { s with out := t.out, gates := t.gates }) ∧
    (∀ g : Fin 4, completes (.gateFpxLoRead g wide) s fun t =>
      t.out = { Out.none with data := leBytes n (s.gate g).fpx } ∧
      t.gate g = { s.gate g with fpxHi := hiHalf (s.gate g).fpx } ∧ (∀ k, k ≠ g.val → t.gate k = s.gate k) ∧
      t = { s with out := t.out, gates := t.gates }))

/-- DEV_EVENT_CONSUMER with a value between consumer and producer frees the slots below it; nothing else changes (R460). A doorbell
write is taken with its arrival time, the host island's clapper value; nothing else changes (R51, R455). A value outside frees
nothing, is logged as DOORBELL_IGNORED with ring index 0xFF, and sets ERR_STATUS bit 7 (R460). A write of the MSI-X table
reads back; with MSI-X enabled, unmasking a vector sends its pending message (R448). Writes of BAR 0: each register takes the value as
its own command does, the BAR 2 base keeps multiples of 256 MiB, a channel that is not BUSY takes four bytes and a BUSY one sets its
bit of MBOX_ERROR, an offset that no table lists as writable ignores the value; an 8-byte write is its two 4-byte halves at ascending
offsets; a misaligned write is discarded and is an access violation (R438, R443, R461). -/
def Obligations.HostWritesTaken : Prop :=
  (∀ (s : State) (v : Word32), s.hostUp →
    (v.toNat + 2 ^ 32 - s.dev.ring.consumer % 2 ^ 32) % 2 ^ 32 ≤
      (s.dev.ring.producer + 2 ^ 32 - s.dev.ring.consumer % 2 ^ 32) % 2 ^ 32 →
    exec (.devEventConsumer v) s =
      .next { s with out := Out.none, dev := { s.dev with ring := { s.dev.ring with consumer := v.toNat } } }) ∧
  (∀ (s : State) (v : Word32), s.hostUp →
    (s.dev.ring.producer + 2 ^ 32 - s.dev.ring.consumer % 2 ^ 32) % 2 ^ 32 <
      (v.toNat + 2 ^ 32 - s.dev.ring.consumer % 2 ^ 32) % 2 ^ 32 →
    completes (.devEventConsumer v) s fun t =>
      t.dev = s.dev ∧ t.err.status = s.err.status ||| 0x80 ∧ t.err.slots = s.err.slots ∧ t.mem = s.mem ∧
      (∃ e, t.err.log.head? = some e ∧ e.cause = 0x3011 ∧ e.detail = eNoRing + 0x1_0000 * 0xFF + 0x100_0000 * (v.toNat % 2 ^ 24)) ∧
      t = { s with out := t.out, err := t.err, host := t.host, free := t.free }) ∧
  (∀ (s : State) (st : Fin 1024) (v : Word32), s.hostUp →
    exec (.doorbell st v) s = .next { s with
      out := Out.none, doorbells := s.doorbells ++ [⟨st.val, v.toNat % 256, v.toNat / 256, s.copy hostIsland⟩] }) ∧
  (∀ (s : State) (i : Fin 8192) (v : Word32), s.hostUp →
    completes (.msixTableWrite i v) s fun t =>
      t.host.msixDword i = v ∧ (∀ k, k ≠ i.val → t.host.msixDword k = s.host.msixDword k) ∧
      t.host.msixEnable = s.host.msixEnable ∧
      (∀ w ∈ s.host.pend, t.host.canSend w = true → w ∉ t.host.pend ∧ t.host.message w ∈ t.out.msix) ∧
      (∀ w ∈ s.host.pend, t.host.canSend w = false → w ∈ t.host.pend) ∧
      t = { s with out := t.out, host := t.host }) ∧
  (∀ (s : State) (v : Word32), s.hostUp →
    exec (.bar0RegisterWrite 0x010 v none) s = exec (.mboxSubmit v) s ∧
    exec (.bar0RegisterWrite 0x018 v none) s = exec (.mboxDoneClear v) s ∧
    exec (.bar0RegisterWrite 0x01C v none) s = exec (.mboxErrorClear v) s ∧
    exec (.bar0RegisterWrite 0x02C v none) s = exec (.devEventConsumer v) s ∧
    exec (.bar0RegisterWrite 0x3000 v none) s = exec (.errStatusClear v) s ∧
    (∀ st : Fin 1024, exec (.bar0RegisterWrite (0x1000 + 4 * st.val) v none) s = exec (.doorbell st v) s) ∧
    (∀ g : Fin 4, exec (.bar0RegisterWrite (0x5000 + 0x40 * g.val) v none) s = exec (.gateEventsClear g v) s) ∧
    (∀ i : Fin 8192, exec (.bar0RegisterWrite (0x8000 + 4 * i.val) v none) s = exec (.msixTableWrite i v) s) ∧
    exec (.bar0RegisterWrite 0x020 v none) s = .next { s with out := Out.none, dev := { s.dev with
      bar2Base := s.dev.bar2Base / 2 ^ 32 * 2 ^ 32 + v.toNat / 2 ^ 28 * 2 ^ 28 } } ∧
    exec (.bar0RegisterWrite 0x024 v none) s = .next { s with out := Out.none, dev := { s.dev with
      bar2Base := v.toNat % 2 ^ 16 * 2 ^ 32 + s.dev.bar2Base % 2 ^ 32 } } ∧
    exec (.bar0RegisterWrite 0x034 v none) s = .next { s with out := Out.none, dev := { s.dev with scratch := v } } ∧
    (∀ (c : Fin 16) (o : Nat), o < 256 → o % 4 = 0 →
      (s.dev.mboxBusy.getLsbD c.val = false →
        completes (.bar0RegisterWrite (0x2000 + 256 * c.val + o) v none) s fun t =>
          t.chanBytes c.val = patch (s.chanBytes c.val) o (leBytes 4 v.toNat) ∧
          (∀ k, k ≠ c.val → t.chanBytes k = s.chanBytes k) ∧ t = { s with out := Out.none, mbox := t.mbox }) ∧
      (s.dev.mboxBusy.getLsbD c.val = true → s.regionFree 12 →
        completes (.bar0RegisterWrite (0x2000 + 256 * c.val + o) v none) s fun t =>
          t.dev = { s.dev with mboxError := s.dev.mboxError ||| chanBit c.val } ∧ t.mbox = s.mbox ∧
          t.err.status.getLsbD 5 = true)) ∧
    (∀ o, o % 4 = 0 → bar0Writable o = false → exec (.bar0RegisterWrite o v none) s = .next { s with out := Out.none }) ∧
    (∀ o, o % 4 ≠ 0 → exec (.bar0RegisterWrite o v none) s = exec (.bar0BadAccess true o 4) s)) ∧
  (∀ (s : State) (o : Nat) (lo hi : Word32), s.hostUp →
    (o % 8 = 0 → exec (.bar0RegisterWrite o lo (some hi)) s = .next ((s.fresh.write4 o lo).write4 (o + 4) hi)) ∧
    (o % 8 ≠ 0 → exec (.bar0RegisterWrite o lo (some hi)) s = exec (.bar0BadAccess true o 8) s)) ∧
  (∀ (s : State) (o : Nat) (lo : Word32), s.hostUp → o % 4 = 0 →
    exec (.bar0RegisterWrite o lo none) s = .next (s.fresh.write4 o lo))

/-- A misaligned or badly sized access of BAR 0 is discarded, a read of it returns ones, and it is an access violation of the HOST
region: logged, ERR_STATUS bits 2 and 5 set (R438, Table 14.7). BAR 2 inside an open window that allows the access: a read answers
the bytes of device memory and changes nothing, a write changes exactly the bytes it covers (R437, R439, R440). One that no window
allows: a write is discarded, a read returns ones, and it is an access violation with ERR_STATUS bit 6 (R228, R440, Table 14.7). -/
def Obligations.BarAccesses : Prop :=
  (∀ (s : State) (w : Bool) (o n : Nat), s.hostUp → s.regionFree 12 → bar0Aligned o n = false → o + n ≤ 0x1_0000 →
    completes (.bar0BadAccess w o n) s fun t =>
      t.out.data = (if w then [] else List.replicate n 0xFF) ∧ t.err.status.getLsbD 2 = true ∧
      t.err.status.getLsbD 5 = true ∧ t.slotHeld (.region 12) = true ∧
      t.dev = s.dev ∧ t.mbox = s.mbox ∧ t.mem = s.mem ∧ t.streams = s.streams ∧ t.gates = s.gates) ∧
  (∀ (s : State) (o : Nat), s.hostUp →
    (∀ n, 0 < n → o + n ≤ 2 ^ s.dev.bar2Size → s.hostMay false (s.bar2Address o) n = true →
      completes (.bar2Access o n none) s fun t =>
        t.out.data = (List.range n).map (fun i => s.readByte (s.bar2Address o + i)) ∧
        t.out.poisoned = s.poisonedAt (s.bar2Address o) n ∧ t = { s with out := t.out }) ∧
    (∀ bs : List Byte, bs ≠ [] → o + bs.length ≤ 2 ^ s.dev.bar2Size →
      s.hostMay true (s.bar2Address o) bs.length = true →
      completes (.bar2Access o bs.length (some bs)) s fun t =>
        (∀ i (h : i < bs.length), t.readByte (s.bar2Address o + i) = bs[i]) ∧
        (∀ a, a < s.bar2Address o ∨ s.bar2Address o + bs.length ≤ a → t.readByte a = s.readByte a) ∧
        t = { s with out := Out.none, mem := t.mem, poison := t.poison })) ∧
  (∀ (s : State) (o n : Nat), s.hostUp → s.regionFree 12 → 0 < n → o + n ≤ 2 ^ s.dev.bar2Size →
    let violated (t : State) : Prop := t.err.status.getLsbD 2 = true ∧ t.err.status.getLsbD 6 = true ∧
      t.slotHeld (.region 12) = true ∧ (∃ e ∈ t.err.log, e.cause = 0x3008 ∧ e.unit = 12) ∧
      t = { s with out := t.out, host := t.host, err := t.err, free := t.free }
    (s.hostMay false (s.bar2Address o) n = false →
      completes (.bar2Access o n none) s fun t => t.out.data = List.replicate n 0xFF ∧ violated t) ∧
    (∀ bs : List Byte, bs.length = n → s.hostMay true (s.bar2Address o) n = false →
      completes (.bar2Access o n (some bs)) s fun t => t.out.data = [] ∧ violated t))

/-- Configuration requests end with Retry Status until firmware is ready; after that, or in phase 4, the BAR 2 size takes a value that
R437 lists and no other, MSI-X enable takes its value and lets pending messages of unmasked vectors leave, a read answers the four bytes
of the dword: vendor and device ID, class code, BAR 0 and BAR 2 as 64-bit BARs, BAR 2 prefetchable, no BAR 4. A write of BAR 0 reads back
as a multiple of 64 KiB; a write of the IDs, the class code or BAR 4 changes nothing (R435, R437, R448, R476; the places of these dwords
are log 15's). -/
def Obligations.ConfigRequests : Prop :=
  ∀ s : State, s.hostUp →
    (∀ a, s.dev.fwReady = false → s.dev.fwPhase ≠ 4 →
      exec (.configRequest a) s = .next { s with out := { Out.none with crs := true } }) ∧
    (s.dev.fwReady = true ∨ s.dev.fwPhase = 4 →
      (∀ n, 28 ≤ n → n ≤ 37 → exec (.configRequest (.resizeBar2 n)) s =
        .next { s with out := Out.none, dev := { s.dev with bar2Size := n },
                       host := { s.host with bar2 := s.host.bar2 / 2 ^ n * 2 ^ n } }) ∧
      (∀ n, n < 28 ∨ 37 < n → exec (.configRequest (.resizeBar2 n)) s = .next { s with out := Out.none }) ∧
      (∀ o, exec (.configRequest (.read o)) s =
        .next { s with out := { Out.none with data := leBytes 4 (s.configDword o) } }) ∧
      s.configDword 0x00 = Config.pciVendorId.toNat + 2 ^ 16 * Config.part s.fuses.grade ∧ s.configDword 0x08 / 256 = 0x12_0000 ∧
      s.configDword 0x10 = s.host.bar0 % 2 ^ 32 + 4 ∧ s.configDword 0x14 = s.host.bar0 / 2 ^ 32 ∧
      s.configDword 0x18 = s.host.bar2 % 2 ^ 32 + 12 ∧ s.configDword 0x1C = s.host.bar2 / 2 ^ 32 ∧
      s.configDword 0x20 = 0 ∧ s.configDword 0x24 = 0 ∧
      (∀ v, completes (.configRequest (.write 0x10 v)) s fun t =>
        t.configDword 0x10 = v % 2 ^ 32 / 2 ^ 16 * 2 ^ 16 + 4 ∧ t.configDword 0x14 = s.configDword 0x14 ∧
        t = { s with out := Out.none, host := { s.host with bar0 := t.host.bar0 } }) ∧
      (∀ v, completes (.configRequest (.write 0x14 v)) s fun t =>
        t.configDword 0x14 = v % 2 ^ 32 ∧ t.configDword 0x10 = s.host.bar0 % 2 ^ 32 / 2 ^ 16 * 2 ^ 16 + 4 ∧
        t = { s with out := Out.none, host := { s.host with bar0 := t.host.bar0 } }) ∧
      (∀ o ∈ [0x00, 0x08, 0x20, 0x24], ∀ v, exec (.configRequest (.write o v)) s = .next { s with out := Out.none }) ∧
      (∀ o v, exec (.configRequest (.write o v)) s = .next (s.fresh.configWrite o v)) ∧
      exec (.configRequest (.msixEnable false)) s =
        .next { s with out := Out.none, host := { s.host with msixEnable := false } } ∧
      (completes (.configRequest (.msixEnable true)) s fun t =>
        t.host.msixEnable = true ∧ (∀ k, t.host.msixDword k = s.host.msixDword k) ∧
        (∀ w ∈ s.host.pend, t.host.canSend w = true → w ∉ t.host.pend ∧ t.host.message w ∈ t.out.msix) ∧
        (∀ w ∈ s.host.pend, t.host.canSend w = false → w ∈ t.host.pend) ∧
        t = { s with out := t.out, host := t.host }))

/-- The host island's reset clears what R449 names, posts HOST_LINK in the device event ring, sends no MSI-X message, and changes nothing
else: no byte of memory outside the event's slot. The link's return ends it, raises HOST_EPOCH by one, modulo 256, posts HOST_LINK and
changes nothing else (R449). 50,000 beats after the host was lost, every stream opened with close_on_host_loss closes: it is FREE, or
CLOSING while a sealed entry names it; a stream opened without it keeps its state, and memory changes only where a run of hold frames
ends (R450). -/
def Obligations.HostIslandGoesAndReturns : Prop :=
  (∀ s : State,
    (∀ c, s.hostUp → completes (.hostIslandReset c) s fun t =>
      t.host = { s.host with inReset := true, lossBeat := some s.beat, msixEnable := false, msix := [], bar0 := 0, bar2 := 0,
                             d3hot := false, pend := t.host.pend } ∧
      t.dev = { s.dev with bar2Size := 28, bar2Base := 0, scratch := 0, mboxError := 0, ring := t.dev.ring } ∧
      s.deviceEvent t 0x0026 ∧ s.onlyWrites t s.offDeviceEvent ∧
      t = { s with host := t.host, dev := t.dev, mem := t.mem, poison := t.poison, out := Out.none }) ∧
    (s.host.inReset = true → s.level .perstN = true → completes .hostLinkUp s fun t =>
      t.host = { s.host with inReset := false, lossBeat := none, pend := t.host.pend } ∧
      t.dev = { s.dev with hostEpoch := (s.dev.hostEpoch + 1) % 256, ring := t.dev.ring } ∧
      s.deviceEvent t 0x0026 ∧ s.onlyWrites t s.offDeviceEvent ∧ t.out = { Out.none with msix := t.out.msix } ∧
      t = { s with host := t.host, dev := t.dev, mem := t.mem, poison := t.poison, out := t.out })) ∧
  (∀ (s : State) (b : Nat), s.host.lossBeat = some b → s.host.inReset = true → s.firmwareUp = true →
    completes .hostLossClose s fun t =>
      (∀ i, (s.stream i).state ≠ .free → (s.stream i).state ≠ .closing → (s.stream i).p.closeOnLoss = true →
        (s.sealedFor i = true → (t.stream i).state = .closing) ∧ (s.sealedFor i = false → (t.stream i).state = .free)) ∧
      (∀ i, (s.stream i).p.closeOnLoss = false → (t.stream i).state = (s.stream i).state) ∧
      (s.clock.running = true → 500 * (b + 50_000) ≤ t.clock.clap) ∧ s.timePassed t ∧ t.seq.known = s.seq.known ∧
      t.host.lossBeat = some b ∧ ((∀ i, (s.stream i).holdRun = 0) → t.mem = s.mem ∧ t.poison = s.poison) ∧
      t.dev = { s.dev with mboxBusy := t.dev.mboxBusy, mboxDone := t.dev.mboxDone } ∧
      t = { s with out := t.out, host := { s.host with pend := t.host.pend }, clock := t.clock, dev := t.dev, mbox := t.mbox,
                   doorbells := t.doorbells, err := t.err, free := t.free, mem := t.mem, poison := t.poison, pool := t.pool,
                   bench := t.bench, motion := t.motion, chk := t.chk, ovl := t.ovl, gates := t.gates, streams := t.streams,
                   flash := t.flash })

/-! ## Mailbox messages -/

/-- DEVICE_INFO, ERROR_QUERY and STREAM_QUERY answer in their channel and change nothing but the mailbox (R465, R461). A message whose
opcode or units Table 14.16 does not list is answered with E_OPCODE, and one that names what a pending message names with E_BUSY;
neither changes anything but the mailbox (R461, R463). -/
def Obligations.QueriesAndRefusals : Prop :=
  (∀ (s : State) (c : Nat),
    (s.Begins 0x01 c → completes .deviceInfo s fun t => s.Answered t c 0 0 s.deviceInfoBody ∧ s.onlyMail t) ∧
    (s.Begins 0x02 c → within 1 7 (leNat (s.chanBytes c) 0x14 1) = true → completes .errorQuery s fun t =>
      s.Answered t c 0 0 (s.errorQueryBody (leNat (s.chanBytes c) 0x10 4) (leNat (s.chanBytes c) 0x14 1)) ∧ s.onlyMail t) ∧
    (s.Begins 0x03 c → (s.stream (msgStream (s.chanBytes c))).state ≠ .free → completes .streamQuery s fun t =>
      s.Answered t c 0 0 (s.stream (msgStream (s.chanBytes c))).queryBody ∧ s.onlyMail t)) ∧
  (∀ (s : State) (c : Nat), s.mbox.order.head? = some c → c < 16 → s.dev.fwReady = true → s.dev.fwPhase ≠ 4 →
    s.waiting? Waits.isSwitch = none →
    (msgKnown (s.chanBytes c) = false → ∀ q ∈ [Instr.deviceInfo, .errorQuery, .tensorAlloc, .streamOpen, .fwSwitch],
      completes q s fun t => s.Answered t c eOpcode 0 [] ∧ s.onlyMail t) ∧
    (msgKnown (s.chanBytes c) = true → msgOpcode (s.chanBytes c) = 0x21 → msgStreamOk (s.chanBytes c) = true →
      s.namesPending (s.chanBytes c) = true →
      completes .streamClose s fun t => s.Answered t c eBusy 0 [] ∧ s.onlyMail t))

/-- TENSOR_ALLOC of bytes for which the pool has a place records the tensor, its allocation and its window, and answers its handle,
address and rounded length (R466). TENSOR_FREE of a tensor that nothing uses removes it, closes its window at once and gives its
space back after the next beat (R466). -/
def Obligations.TensorsAllocatedAndFreed : Prop :=
  (∀ (s : State) (c h base : Nat), s.Begins 0x10 c →
    let n := leNat (s.chanBytes c) 0x10 8
    let len := roundUp n Config.poolUnit
    within 1 0x10_0000_0000 n = true → s.tensors.length < 1_048_576 →
    pickHandle (Config.handleHint s.free) (2 ^ 32 - 1) (s.tensors.map (·.handle)) = some h →
    s.pool.place s.fuses.grade (Config.placeHint s.free) len = some base →
    completes .tensorAlloc s fun t =>
      t.tensors = ⟨h, base, n, len⟩ :: s.tensors ∧
      t.pool = { s.pool with allocs := ⟨base, len, .tensor h⟩ :: s.pool.allocs,
                             windows := ⟨base, len, true, .tensor h⟩ :: s.pool.windows } ∧
      s.Answered t c 0 0 (leBytes 4 h ++ zeros 4 ++ leBytes 8 base ++ leBytes 8 len) ∧
      t = { s with tensors := t.tensors, pool := t.pool, free := t.free, mbox := t.mbox, dev := t.dev, out := t.out, host := t.host }) ∧
  (∀ (s : State) (c : Nat) (x : TensorBuf), s.Begins 0x11 c →
    s.tensor? (leNat (s.chanBytes c) 0x10 4) = some x → s.taken.tensorInUse x.handle = false →
    completes .tensorFree s fun t =>
      t.tensors = s.tensors.filter (fun y => y.handle ≠ x.handle) ∧
      t.pool.windows = s.pool.windows.filter (fun w => !(w.owner == .tensor x.handle)) ∧
      t.pool.allocs = s.pool.allocs.filter (fun a => !(a.owner == .tensor x.handle)) ∧
      t.pool.freeing = (s.beat + 1, x.base, x.len) :: s.pool.freeing ∧
      s.Answered t c 0 0 [] ∧
      t = { s with tensors := t.tensors, pool := t.pool, mbox := t.mbox, dev := t.dev, out := t.out, host := t.host })

/-- REEL_LOAD of a valid binary in chip scope copies it, adds a loaded reel with its handle, content and digests that a reload still has
to place, fixes the standby engine, and answers; streams and everything but pool, memory, reels and the standby stay (R467, R305). That
the one standby of the chip is fixed here is logs 118 and 28 (the model's); R200, R201 and R492 fix it with a load. The clause is about
reels of chip scope. REEL_DROP of a reel that no stream and no pending launch names removes it and its allocation (R467). -/
def Obligations.ReelsLoadedAndDropped : Prop :=
  (∀ (s : State) (c h base : Nat) (r : Reel) (x : TensorBuf), s.Begins 0x12 c →
    s.tensor? (leNat (s.chanBytes c) 0x10 4) = some x → leNat (s.chanBytes c) 0x14 1 = 0 →
    s.taken.reelRefused (some r) x.bytes false = none → s.reels.length < 256 →
    pickHandle (Config.handleHint s.free) 65535 (s.reels.map (·.handle)) = some h →
    s.pool.place s.fuses.grade (Config.placeHint s.free) (roundUp (max r.binaryLen 1) Config.poolUnit) = some base →
    completes (.reelLoad (some r)) s fun t =>
      (∃ e : LoadedReel, t.reels = s.reels ++ [e] ∧ e.handle = h ∧ e.content = r ∧ e.base = base ∧ e.setScope = false ∧
        e.digest = (reelDigests r (s.readBytes x.base r.binaryLen)).1 ∧
        e.weightDigest = (reelDigests r (s.readBytes x.base r.binaryLen)).2 ∧ e.reload = true ∧ e.hot = none ∧
        e.condemned = false) ∧
      t.readBytes base r.binaryLen = s.readBytes x.base r.binaryLen ∧
      (∀ a, a < base ∨ base + r.binaryLen ≤ a → t.readByte a = s.readByte a) ∧
      t.dev.mboxDone = s.dev.mboxDone ||| chanBit c ∧ t.units = { s.units with standby := s.standbyNow } ∧
      t = { s with reels := t.reels, mem := t.mem, poison := t.poison, pool := t.pool, free := t.free, mbox := t.mbox, units := t.units,
                   dev := t.dev, out := t.out, host := t.host }) ∧
  (∀ (s : State) (c : Nat) (r : LoadedReel), s.Begins 0x13 c →
    s.reel? (leNat (s.chanBytes c) 0x10 2) = some r → s.taken.reelNamed (leNat (s.chanBytes c) 0x10 2) = false →
    completes .reelDrop s fun t =>
      t.reels = s.reels.filter (fun y => y.handle ≠ leNat (s.chanBytes c) 0x10 2) ∧
      t.reel? (leNat (s.chanBytes c) 0x10 2) = none ∧ s.Answered t c 0 0 [] ∧
      t = { s with reels := t.reels, pool := t.pool, mbox := t.mbox, dev := t.dev, out := t.out, host := t.host })

/-- STREAM_OPEN that passes every check of Table 2.8 puts the stream into OPEN with the message's parameters and an empty
account, gives it its gate and its decision state, and answers; no other stream changes state. One that fails a check is answered
with the first that fails and changes nothing else (R77, R468). -/
def Obligations.StreamOpenAdmits : Prop :=
  (∀ (s : State) (c : Nat) (p : StreamParams) (r : LoadedReel), s.Begins 0x20 c →
    let st := msgStream (s.chanBytes c)
    (s.stream st).state = .free → s.taken.openRefused st (s.chanBytes c) = none →
    parseOpen (s.chanBytes c) = some p → s.reel? (leNat (s.chanBytes c) 0x10 2) = some r →
    completes .streamOpen s fun t =>
      (t.stream st).state = .open_ ∧ (t.stream st).p = p ∧ (t.stream st).account = 0 ∧ (t.stream st).frames = [] ∧
      (∀ i, i ≠ st → (t.stream i).state = (s.stream i).state ∧ (t.stream i).p = (s.stream i).p) ∧
      (∀ g, p.gate = some g → g < 4 → (t.gate g).holder = some st) ∧
      (∃ d : Decisions, t.chk.streams = s.chk.streams ++ [d] ∧ d.stream = st ∧ d.tolerance = p.tolerance ∧
        d.safety = p.safety) ∧
      s.Answered t c 0 0 (t.stream st).openBody ∧
      t.err = s.err ∧ t.flash = s.flash ∧ t.ports = s.ports ∧ t.tensors = s.tensors ∧ t.clock = s.clock ∧ t.motion = s.motion) ∧
  (∀ (s : State) (c : Nat) (e : Refused), s.Begins 0x20 c → (s.stream (msgStream (s.chanBytes c))).state = .free →
    s.taken.openRefused (msgStream (s.chanBytes c)) (s.chanBytes c) = some e →
    completes .streamOpen s fun t => s.Answered t c e.1 e.2 [] ∧ s.onlyMail t)

/-- STREAM_CLOSE of a stream that a sealed entry still names puts it into CLOSING and leaves the message pending; without
such an entry the stream is FREE and the message is answered (R257, R469). -/
def Obligations.StreamCloseEnds : Prop :=
  ∀ (s : State) (c : Nat), s.Begins 0x21 c →
    let st := msgStream (s.chanBytes c)
    (s.stream st).state ≠ .free → (s.stream st).state ≠ .closing →
    (s.sealedFor st = true → completes .streamClose s fun t =>
      (t.stream st).state = .closing ∧ (t.stream st).held = [] ∧
      s.Postponed t ⟨c, .streamClose st, none⟩ ∧ (∀ i, i ≠ st → t.stream i = s.stream i) ∧ s.onlyWrites t (s.offPush st 3 64) ∧
      t = { s with streams := t.streams, mem := t.mem, poison := t.poison, mbox := t.mbox, out := t.out, host := t.host }) ∧
    (s.sealedFor st = false → completes .streamClose s fun t =>
      (t.stream st).state = .free ∧ (∀ i, i ≠ st → (t.stream i).state = (s.stream i).state) ∧
      t.dev.mboxDone.getLsbD c = true ∧ t.seq.known = s.seq.known ∧ t.ports = s.ports ∧ t.clock = s.clock)

/-- OUTPUT_CONFIGURE: with enable 0 the gate goes dark; with fields that all are live the new configuration waits for the
next frame, and a link that was off for a capability mismatch is to be trained again; otherwise the island resets, takes the
configuration and the message waits for the PLL. With clone the other gates that have a configuration reset and take gate 0's with their
own (R343, R355, R359, R362, R470). -/
def Obligations.OutputConfigureActs : Prop :=
  ∀ (s : State) (c g : Nat), s.Begins 0x30 c → leNat (s.chanBytes c) 0x10 1 = g → g < 4 →
    (leNat (s.chanBytes c) 0x11 1 = 0 → s.gateBusy g none = false → completes .outputConfigure s fun t =>
      (t.gate g).cfg = none ∧ (t.gate g).runningGen = false ∧ (t.gate g).holder = (s.gate g).holder ∧
      (t.gate g).hpdLevel = (s.gate g).hpdLevel ∧ (∀ k, k ≠ g → t.gate k = s.gate k) ∧ s.Answered t c 0 0 [] ∧
      t = { s with gates := t.gates, chk := t.chk, mbox := t.mbox, dev := t.dev, out := t.out, host := t.host }) ∧
    (∀ k : GateConfig, leNat (s.chanBytes c) 0x11 1 ≠ 0 → (parseGate (s.chanBytes c)).withWatermark = k →
      gateRangesOk g (s.chanBytes c) k = true → (k.card = 0 ∨ (s.tensor? k.card).isSome) → s.gateBusy g (some k) = false →
      (s.gate g).linkOk k = true → (∀ p ∈ s.cloneTargets k, (s.gate p.1).linkOk p.2 = true) →
      completes .outputConfigure s fun t =>
        (∀ i, i ≠ g → (∀ p ∈ s.cloneTargets k, p.1 ≠ i) → t.gate i = s.gate i) ∧
        ((∃ a, (s.gate g).cfg = some a ∧ a.sameButLive k = true) →
          t.gate g = { s.gate g with live := some k, capMismatch := false,
                                     mustTrain := (s.gate g).mustTrain || ((s.gate g).capMismatch && !(s.gate g).unplugged) } ∧
          (∀ i, i ≠ g → t.gate i = s.gate i) ∧ s.Answered t c 0 0 (outputBody k 0)) ∧
        ((∀ a, (s.gate g).cfg = some a → a.sameButLive k = false) →
          (∀ p ∈ s.cloneTargets k, p.1 ≠ g → (t.gate p.1).cfg = some p.2 ∧ (t.gate p.1).locking = true) ∧
          (t.gate g).cfg = some k ∧ (t.gate g).locking = true ∧ (t.gate g).runningGen = false ∧
          s.Postponed t ⟨c, .gateReset g, if k.card = 0 then none else some k.card⟩ ∧ t.dev = s.dev ∧ t.host = s.host) ∧
        t.chk = { s.chk with fromGate := t.chk.fromGate } ∧
        t = { s with gates := t.gates, chk := t.chk, mbox := t.mbox, dev := t.dev, out := t.out, host := t.host })

/-- SET_CONFIGURE gives the chip its members, index, digest, ports and clapper source (R380, R382, R471). -/
def Obligations.SetConfigureTakes : Prop :=
  ∀ (s : State) (c : Nat) (src : ClapSource), s.Begins 0x40 c →
    let m := s.chanBytes c
    let members := (List.range (leNat m 0x10 1)).map fun i => leNat m (0x20 + 8 * i) 8
    (s.openStreams.all fun i => !((s.reel? (s.stream i).p.reel).any fun r => r.setScope)) = true →
    clapSourceOf (leNat m 0x12 1) = some src → 1 ≤ leNat m 0x10 1 → leNat m 0x10 1 ≤ 16 →
    s.fuses.chipId ∈ members → members.Nodup → leNat m 0x11 1 < 64 → (src = .splice → leNat m 0x11 1 ≠ 0) →
    completes .setConfigure s fun t =>
      t.set.members = members ∧ t.set.members[t.set.index]? = some s.fuses.chipId ∧ t.set.configured = true ∧
      t.set.ports = leNat m 0x11 1 ∧ t.set.digest = setDigest members ∧ t.clock.source = src ∧
      t.clock.delay = leNat m 0x14 2 ∧ t.clock.clap = s.clock.clap ∧
      (∀ p, p < 6 → bitOf (leNat m 0x11 1) p = false → (t.port p).state = .disabled) ∧
      t.dev.mboxDone.getLsbD c = true ∧ t.streams = s.streams ∧ t.reels = s.reels ∧ t.gates = s.gates ∧ t.chk = s.chk

/-- LAUNCH_AT that passes R390 ends the launched epoch, keeps the launch, sends READY to every peer and stays pending. The launch
messages: READY of a peer is kept, GO and NOGO count or uncount it; at C − 10,000 the chip votes GO exactly when every peer's READY
names its C, epoch and digests; at C − 2,500 it commits to the epoch with the votes of all, whose routes and levels are those of the
agreed topology, and the first frame start of a reel of set scope is then a reload (R492; which reels is log 135); else the launch is
over and answered with E_LAUNCH (R377, R378, R391, R392). -/
def Obligations.LaunchesRun : Prop :=
  (∀ (s : State) (c : Nat), s.Begins 0x41 c →
    let m := s.chanBytes c
    s.taken.launchRefused (leNat m 0x10 8) (leNat m 0x18 4) (leNat m 0x1C 1) (leNat m 0x20 4) = none →
    completes .launchAt s fun t =>
      (∃ l : Launch, t.set.launch = some l ∧ l.c = leNat m 0x10 8 ∧ l.epoch = leNat m 0x18 4 ∧ l.voted = false ∧
        l.committed = false ∧ l.gos = [] ∧ l.links = s.links ∧ l.topology = topologyDigest s.links ∧
        t.out.peers = s.peers.map fun i => (i, LaunchMsg.ready l.c l.epoch l.digests l.topology)) ∧
      t.set.epoch = none ∧ t.set.members = s.set.members ∧
      (∃ x, s.Postponed t ⟨c, .launch, x⟩) ∧
      t.clock = s.clock ∧ t.reels = s.reels ∧ t.gates = s.gates ∧ t.ports = s.ports ∧ t.pool = s.pool) ∧
  (∀ s : State, s.firmwareUp = true →
    (∀ (i : Fin 16), i.val ∈ s.peers →
      (∀ c e d y, completes (.launchMessage i (.ready c e d y)) s fun t =>
        t.set.heard.find? (fun h => h.1 == i.val) = some (i.val, .ready c e d y) ∧
        (∀ h, h.1 ≠ i.val → (h ∈ t.set.heard ↔ h ∈ s.set.heard)) ∧
        t = { s with out := Out.none, set := { s.set with heard := t.set.heard } }) ∧
      (∀ l, s.set.launch = some l →
        (completes (.launchMessage i .go) s fun t => ∃ gs, (∀ k, k ∈ gs ↔ k = i.val ∨ k ∈ l.gos) ∧
          t = { s with out := Out.none, set := { s.set with launch := some { l with gos := gs } } }) ∧
        (completes (.launchMessage i .nogo) s fun t => ∃ gs, (∀ k, k ∈ gs ↔ k ≠ i.val ∧ k ∈ l.gos) ∧
          t = { s with out := Out.none, set := { s.set with launch := some { l with gos := gs } } }))) ∧
    (∀ l, s.set.launch = some l → l.voted = false → l.committed = false → completes .launchGoPoint s fun t =>
      (∃ go : Bool, (go = true ↔ ∀ i ∈ s.peers, (i, LaunchMsg.ready l.c l.epoch l.digests l.topology) ∈ s.set.heard) ∧
        t.set = { s.set with launch := some { l with voted := true, sentGo := go } } ∧
        t.out = { Out.none with peers := s.peers.map fun i => (i, if go then LaunchMsg.go else LaunchMsg.nogo) }) ∧
      (s.clock.running = true → l.c - 10_000 ≤ t.clock.clap) ∧ s.timePassed t ∧
      t = { s with out := t.out, clock := t.clock, set := t.set }) ∧
    (∀ l, s.set.launch = some l → l.committed = false → completes .launchCommit s fun t =>
      (s.clock.running = true → l.c - 2_500 ≤ t.clock.clap) ∧ s.timePassed t ∧
      (l.sentGo = true → (∀ i ∈ s.peers, i ∈ l.gos) →
        (∃ e : Epoch, t.set = { s.set with launch := some { l with committed := true }, epoch := some e, ending := none, heard := [] } ∧
          e.number = l.epoch ∧ e.start = l.c / 500 ∧ e.reels = l.reels ∧
          e.routes = routeTable l.links s.set.members.length s.set.index ∧
          e.levels = levels l.links s.set.members.length s.set.members.length) ∧
        (∀ k, (s.stream k).p.reel ∉ l.reels → t.stream k = s.stream k) ∧ (∀ k, (t.stream k).state = (s.stream k).state) ∧
        t.reels = s.reels.map (fun r => if r.setScope then { r with reload := true } else r) ∧
        t = { s with out := Out.none, clock := t.clock, set := t.set, streams := t.streams, reels := t.reels }) ∧
      (l.sentGo = false ∨ (∃ i ∈ s.peers, i ∉ l.gos) →
        t.set = { s.set with launch := none, heard := [] } ∧ s.answersDeferred t Waits.isLaunch eLaunch [] ∧
        t = { s with out := t.out, host := t.host, clock := t.clock, set := t.set, mem := t.mem, poison := t.poison, dev := t.dev,
                     mbox := t.mbox })))

/-- UNIT_RETIRE of a healthy block that no map holds and that is not the last one takes it out at once; UNIT_RETURN of a retired block
starts its test and stays pending (R472, R495, R496). The end of a returning test: a block that passed stays out until the next frame
start, at which it becomes a free spare, and is listed for it (R496; that the answer does not wait for it is log 55); an engine that
passed is back at once; one that failed stays out with its message answered by E_TEST; a page that passed is no longer retired; a port
that did not reach UP in time is DISABLED (R256, R496). -/
def Obligations.UnitsLeaveAndReturn : Prop :=
  (∀ (s : State) (c b : Nat), b < 36 → leNat (s.chanBytes c) 0x18 8 = b → leNat (s.chanBytes c) 0x10 1 = 0 →
    (s.Begins 0x50 c → (s.block b).retired = false → (∃ x ∈ s.fitBlocks, x ≠ b) → s.mappedBlock b = false →
      (∀ x ∈ s.units.substs, x.old ≠ b) → completes .unitRetire s fun t =>
        (t.block b).retired = true ∧ (∀ k, k ≠ b → t.block k = s.block k) ∧
        s.Answered t c 0 0 (leBytes 1 0 ++ leBytes 1 t.resultingArrays) ∧
        t = { s with units := t.units, flash := t.flash, mbox := t.mbox, dev := t.dev, out := t.out, host := t.host }) ∧
    (s.Begins 0x51 c → (s.block b).retired = true → completes .unitReturn s fun t =>
        (t.block b).testing = true ∧ (t.block b).retired = true ∧ (∀ k, k ≠ b → t.block k = s.block k) ∧
        s.Postponed t ⟨c, .unitReturn .block b s.beat, none⟩ ∧
        t = { s with units := t.units, mbox := t.mbox, out := t.out })) ∧
  (∀ s : State,
    (∀ b < 36, (s.block b).testing = true → (s.block b).retired = true →
      (completes (.returningTestDone .block b true) s fun t =>
        (t.block b).testing = false ∧ (t.block b).retired = true ∧ b ∈ t.units.returns ∧ (∀ k, k ≠ b → t.block k = s.block k) ∧
        s.answersDeferred t (Waits.onUnit .block b) 0 (leBytes 1 0 ++ leBytes 1 t.resultingArrays) ∧
        t = { s with out := t.out, host := t.host, dev := t.dev, mbox := t.mbox, units := t.units }) ∧
      (s.slotHeld (.block b) = false → completes (.returningTestDone .block b false) s fun t =>
        (t.block b).testing = false ∧ (t.block b).retired = true ∧ (∀ k, k ≠ b → t.block k = s.block k) ∧
        s.answersDeferred t (Waits.onUnit .block b) eTest [] ∧ t.slotHeld (.block b) = true ∧
        (∃ e ∈ t.err.log, e.cause = 0x2003 ∧ e.unit = b ∧ e.level = 1) ∧
        t = { s with out := t.out, host := t.host, dev := t.dev, mbox := t.mbox, units := t.units, err := t.err, free := t.free })) ∧
    (∀ k < 9, (s.engine k).testing = true → ∀ pass, completes (.returningTestDone .engine k pass) s fun t =>
      t.engine k = (if pass then ⟨false, false⟩ else { s.engine k with testing := false }) ∧
      (∀ i, i ≠ k → t.engine i = s.engine i) ∧ (pass = false → t.flash = s.flash) ∧
      (pass = false → s.answersDeferred t (Waits.onUnit .engine k) eTest []) ∧
      t = { s with out := t.out, host := t.host, dev := t.dev, mbox := t.mbox, units := t.units, flash := t.flash }) ∧
    (∀ page ∈ s.units.pageTests, ∀ pass, completes (.pagePatternTestDone page pass) s fun t =>
      page ∉ t.units.pageTests ∧ (∀ q, q ≠ page → (q ∈ t.units.pageTests ↔ q ∈ s.units.pageTests)) ∧
      (pass = true → page ∉ t.pool.retired ∧ ∀ q, q ≠ page → (q ∈ t.pool.retired ↔ q ∈ s.pool.retired)) ∧
      (pass = false → t.pool = s.pool ∧ t.flash = s.flash ∧ s.answersDeferred t (Waits.onUnit .page page) eTest []) ∧
      t = { s with out := t.out, host := t.host, dev := t.dev, mbox := t.mbox, units := t.units, flash := t.flash,
                   pool := { s.pool with retired := t.pool.retired } }) ∧
    (∀ (p : Fin 6) (b : Nat), s.portReturnSince p = some b → completes (.portReturnTimeout p) s fun t =>
      t.port p = { Port.reset with retired := (s.port p).retired } ∧ (∀ k, k ≠ p.val → t.port k = s.port k) ∧
      s.answersDeferred t (Waits.onUnit .port p) eLink [] ∧ (s.clock.running = true → 500 * (b + 12_500) ≤ t.clock.clap) ∧
      t.streams = s.streams ∧ t.units = s.units ∧ t.flash = s.flash ∧ t.gates = s.gates))

/-- FW_STAGE of a valid image copies it into the firmware area and keeps it staged; the message stays pending, until a later beat or,
where it asks for it, for the flash write; an invalid one is answered with its error; FW_SWITCH to the staged version starts the switch in
fw_phase 3 (R473, R500, R501). The flash write of a staged image ends with the image in its slot; new firmware that is ready within 400
beats runs, with FW_VERSION its version and the flash header naming its slot; otherwise the switch is over with E_TEST and the old
firmware runs on. The rollback fuses rise to the running image's count, at most 64, and never fall (R473, R480, R484, R500 to R502). That
the staged image is cleared after a switch, and that a count above 64 is 64, is log 57 (DEDUCED); the beat at which FW_STAGE completes is
log 133 (the model's choice). -/
def Obligations.FirmwareReplaced : Prop :=
  (∀ (s : State) (c : Nat),
    (∀ x : TensorBuf, s.Begins 0x60 c → s.tensor? (leNat (s.chanBytes c) 0x10 4) = some x →
      let bs := s.readBytes x.base (min x.bytes 0x40_0000)
      completes .fwStage s fun t =>
        (s.fuses.imageRefused s.fw.image bs = none →
          let n := (bs.take (leNat bs 4 4)).length
          t.fw = { s.fw with staged := some (imageOf bs), stagedSlot := none, writing := t.fw.writing, stageDue := t.fw.stageDue } ∧
          (bitOf (leNat (s.chanBytes c) 0x14 1) 0 = false → t.fw.writing = none ∧ ∃ b, t.fw.stageDue = some b ∧ s.beat < b) ∧
          (bitOf (leNat (s.chanBytes c) 0x14 1) 0 = true → t.fw.stageDue = none ∧
            t.fw.writing = some (1 - s.bootSlot, bs.take (leNat bs 4 4))) ∧
          t.readBytes s.stageHome n = bs.take (leNat bs 4 4) ∧
          s.onlyWrites t (fun a => a < s.stageHome ∨ s.stageHome + n ≤ a) ∧
          s.Postponed t ⟨c, .fwStage (1 - s.bootSlot), some x.handle⟩ ∧ t.dev = s.dev ∧ t.host = s.host) ∧
        (∀ e, s.fuses.imageRefused s.fw.image bs = some e → s.Answered t c e 0 [] ∧ s.onlyMail t) ∧
        t = { s with fw := t.fw, mem := t.mem, poison := t.poison, free := t.free, mbox := t.mbox, dev := t.dev,
                     out := t.out, host := t.host }) ∧
    (∀ i : Image, s.Begins 0x61 c → s.fw.staged = some i → leNat (s.chanBytes c) 0x10 4 = i.version →
      completes .fwSwitch s fun t =>
        t.fw.switch = some ⟨s.beat⟩ ∧ t.dev.fwPhase = 3 ∧ s.Postponed t ⟨c, .fwSwitch, none⟩ ∧
        t = { s with fw := { s.fw with switch := t.fw.switch }, dev := { s.dev with fwPhase := 3 }, mbox := t.mbox,
                     out := Out.none })) ∧
  (∀ s : State,
    (∀ slot bs i, s.fw.writing = some (slot, bs) → s.fw.staged = some i → completes .flashWriteDone s fun t =>
      t.flashBytes (0x1_0000 + slot * 0x40_0000) bs.length = bs ∧
      (∀ a, a < 0x1_0000 + slot * 0x40_0000 ∨ 0x1_0000 + slot * 0x40_0000 + bs.length ≤ a →
        cellRead flashDefault t.flash a = cellRead flashDefault s.flash a) ∧
      t.fw = { s.fw with writing := none, stagedSlot := some slot } ∧
      s.answersDeferred t Waits.isStage 0 (leBytes 4 i.version ++ leBytes 4 i.rollback) ∧
      t = { s with out := t.out, host := t.host, dev := t.dev, mbox := t.mbox, flash := t.flash, fw := t.fw }) ∧
    (∀ w i, s.fw.switch = some w → s.fw.staged = some i → s.err.halted = false → s.beat ≤ w.since + 400 →
      completes .fwSwitchReady s fun t =>
        t.dev.fwVersion = i.version ∧ t.dev.fwPhase = 2 ∧
        t.fw = { s.fw with image := some i, fromSlot := s.fw.stagedSlot, staged := none, stagedSlot := none, switch := none,
                           runSince := s.clock.clap } ∧
        (s.fw.stagedSlot = none → t.flash = s.flash) ∧
        (∀ slot, s.fw.stagedSlot = some slot → slot ≤ 1 → (∀ g, s.governing = some g → g.2.1 + 1 < 2 ^ 32) → t.bootSlot = slot) ∧
        s.answersDeferred t Waits.isSwitch 0 (leBytes 4 i.version) ∧
        t = { s with out := t.out, host := t.host, dev := t.dev, mbox := t.mbox, mem := t.mem, poison := t.poison,
                     flash := t.flash, fw := t.fw }) ∧
    (∀ w, s.fw.switch = some w → s.err.halted = false → completes .fwSwitchTimeout s fun t =>
      t.dev.fwPhase = 2 ∧ t.dev.fwVersion = s.dev.fwVersion ∧ t.fw = { s.fw with switch := none } ∧
      s.answersDeferred t Waits.isSwitch eTest [] ∧ (s.clock.running = true → 500 * (w.since + 400) ≤ t.clock.clap) ∧
      s.timePassed t ∧ t = { s with out := t.out, host := t.host, clock := t.clock, dev := t.dev, mbox := t.mbox, fw := t.fw }) ∧
    (∀ i g, s.fw.image = some i → s.firmwareUp = true → (∀ a, s.err.chipAt = some a → a < s.fw.runSince) → s.governing = some g →
      s.fw.fromSlot = some g.2.2 → bitOf s.wall.fusePolicy 0 = true → completes .rollbackFuseUpdate s fun t =>
        t.fuses = { s.fuses with rollback := max s.fuses.rollback (min 64 i.rollback) } ∧
        (s.clock.running = true → s.fw.runSince + 900_000_000_000 ≤ t.clock.clap) ∧ s.timePassed t ∧
        t = { s with out := Out.none, clock := t.clock, fuses := t.fuses }))

/-! ## Doorbells, rushes, command and overlay entries, the cadence of frames -/

/-- Firmware handles the oldest doorbell and, in the same pass and in arrival order, those that have arrived for its ring since; doorbells of
other rings wait on. One alone for its ring: on a ring that the host writes the producer index takes the new value, on a ring
that Balim writes the consumer index, and no other byte of memory changes; a doorbell for a FREE stream, for a ring that the stream has
not set up, or with an index that R452 does not take is ignored and reported (R261, R452, R455). -/
def Obligations.DoorbellHandled : Prop :=
  ∀ (s : State) (d : DoorbellWrite) (ds : List DoorbellWrite), s.doorbells = d :: ds → s.firmwareUp = true →
    let r := s.ring d.stream d.ring
    let same (e : DoorbellWrite) : Bool := e.stream == d.stream && e.ring == d.ring
    exec .doorbellHandle s =
      .next ((d :: ds.filter same).foldl State.applyDoorbell { s with out := Out.none, doorbells := ds.filter fun e => !same e }) ∧
    ((∀ e ∈ ds, same e = false) → (s.stream d.stream).state ≠ .free → r.entryBytes ≠ 0 →
      ∀ i, extendIndex r.doorbellRange.1 r.doorbellRange.2 d.index = some i → d.stream < 1024 →
        completes .doorbellHandle s fun t =>
          t.doorbells = ds ∧
          (r.byBalim = false → t.mem = (s.writeNat (r.at_ + 16) 4 i).mem ∧
            (∀ a, a < r.at_ + 16 ∨ r.at_ + 20 ≤ a → t.readByte a = s.readByte a)) ∧
          (r.byBalim = true → t.mem = (s.writeNat (r.at_ + 20) 4 i).mem ∧ t.streams = s.streams ∧
            (∀ a, a < r.at_ + 20 ∨ r.at_ + 24 ≤ a → t.readByte a = s.readByte a)) ∧
          (r.byBalim = false → d.ring = 1 →
            (t.stream d.stream).rushes.announced = (s.stream d.stream).rushes.announced ++ [(i, d.time)]) ∧
          (∀ k, k ≠ d.stream → t.stream k = s.stream k) ∧
          t = { s with doorbells := ds, mem := t.mem, poison := t.poison, streams := t.streams, out := Out.none }) ∧
    ((∀ e ∈ ds, same e = false) → ((s.stream d.stream).state = .free ∨ r.entryBytes = 0 ∨
        extendIndex r.doorbellRange.1 r.doorbellRange.2 d.index = none) → completes .doorbellHandle s fun t =>
      t.doorbells = ds ∧ t.err.status.getLsbD 7 = true ∧ t.err.log.length = min (s.err.log.length + 1) 4096 ∧
      (∃ e, t.err.log.head? = some e ∧ e.cause = 0x3011 ∧ e.stream = d.stream ∧
        e.detail = eNoRing + 0x1_0000 * (d.ring % 256) + 0x100_0000 * (d.index % 2 ^ 24)) ∧
      t.err.slots = s.err.slots ∧ t = { s with out := t.out, host := t.host, err := t.err, free := t.free, doorbells := ds })

/-- A rush slice that passes Table 2.4 and is not the last of its keyframe raises the expected slice by one and changes nothing else. The
last one completes the keyframe: it is counted and kept with its counter and capture time, and an OPEN DEADLINE stream runs, or is held
where its reel is condemned; memory changes only where a counter was skipped or the stream is held. A slice that fails discards the
keyframe, is counted and reported by KEYFRAME_REJECTED, and discarding begins; memory outside that event and the ring's consumer index
stays (R48, R49). While discarding, a slice that is not a keyframe's first is passed over. -/
def Obligations.RushSliceChecked : Prop :=
  ∀ (s : State) (st : Fin 1024), s.firmwareUp = true → (s.stream st).state ≠ .free → (s.stream st).state ≠ .closing →
    (s.ring st 1).entryBytes ≠ 0 → (s.stream st).rushes.read ≠ (s.ring st 1).producer →
    let x := s.stream st
    let a := (s.ring st 1).slotAt x.rushes.read
    let h := s.readBytes a 64
    let payload := s.readBytes (a + 64) (leNat h 0x1C 4)
    let checked : Prop := x.rushes.discarding = false ∨ leNat h 0x10 2 = 0
    (¬ checked → completes (.rushSlice st) s fun t =>
      t.stream st = { x with rushes := { x.rushes with read := (x.rushes.read + 1) % 2 ^ 32, announced := (t.stream st).rushes.announced } } ∧
      (∀ k, k ≠ st.val → t.stream k = s.stream k) ∧ s.onlyWrites t (s.offConsumer st 1) ∧
      t = { s with out := Out.none, streams := t.streams, mem := t.mem, poison := t.poison }) ∧
    (checked → x.sliceFails st h payload = none → leNat h 0x10 2 + 1 ≠ x.p.sliceCount → completes (.rushSlice st) s fun t =>
      (t.stream st).rushes.read = (x.rushes.read + 1) % 2 ^ 32 ∧ (t.stream st).rushes.expected = leNat h 0x10 2 + 1 ∧
      (t.stream st).rushes.partial_.isSome = true ∧ (t.stream st).keys = x.keys ∧
      (∀ k, k ≠ st.val → t.stream k = s.stream k) ∧ t = { s with out := Out.none, streams := t.streams }) ∧
    (checked → x.sliceFails st h payload = none → leNat h 0x10 2 + 1 = x.p.sliceCount → completes (.rushSlice st) s fun t =>
      (t.stream st).count.keysAccepted = satAdd x.count.keysAccepted 1 (2 ^ 32 - 1) ∧
      (t.stream st).rushes.last = some (leNat h 4 4, leNat h 8 8) ∧
      (t.stream st).rushes.expected = 0 ∧
      (∃ k : Key, (t.stream st).keys = x.keys ++ [k] ∧ (x.rushes.partial_ = none → k.counter = leNat h 4 4 ∧ k.ts = leNat h 8 8)) ∧
      let condemned : Bool := (s.reel? x.p.reel).any fun r => r.condemned
      (x.p.batch = false → x.state = .open_ → (t.stream st).state = (if condemned then .held else .running)) ∧
      (x.p.batch = true ∨ x.state ≠ .open_ → (t.stream st).state = x.state) ∧
      ((∀ l, x.rushes.last = some l → next32 (leNat h 4 4) l.1 = true) →
        (x.p.batch = false → x.state = .open_ → condemned = false) → t.mem = s.mem ∧ t.poison = s.poison) ∧
      (∀ k, k ≠ st.val → t.stream k = s.stream k) ∧ s.onlyRaised t ∧
      t = { s with out := t.out, host := t.host, streams := t.streams, mem := t.mem, poison := t.poison }) ∧
    (∀ k, checked → x.sliceFails st h payload = some k → completes (.rushSlice st) s fun t =>
      (t.stream st).rushes.read = (x.rushes.read + 1) % 2 ^ 32 ∧ (t.stream st).rushes.discarding = true ∧
      (t.stream st).rushes.expected = 0 ∧ (t.stream st).rushes.partial_ = none ∧
      (t.stream st).count.keysRejected = satAdd x.count.keysRejected 1 (2 ^ 32 - 1) ∧ (t.stream st).keys = x.keys ∧
      ((∀ i < 64, s.offConsumer st 1 ((s.ring st 3).slotAt (s.ring st 3).producer + i)) → s.streamEvent t st 0x0001) ∧
      s.onlyWrites t (fun a => s.offPush st 3 64 a ∧ s.offConsumer st 1 a) ∧
      (∀ k, k ≠ st.val → t.stream k = s.stream k) ∧ s.onlyRaised t ∧
      t = { s with out := t.out, host := t.host, streams := t.streams, mem := t.mem, poison := t.poison,
                   motion := { s.motion with pyramids := t.motion.pyramids, pairs := t.motion.pairs } })

/-- The entry at the head of the command ring: a valid PROXY is kept for its keyframe; a RETIME whose keyframes are held is executed: its
first frame is set up where no earlier frame is in progress, and it waits behind them where both halves of the stores are taken (two
frames in progress at most: log 64, DEDUCED); an entry of another type is passed over, on a BATCH stream once the entries before it have
completed; each moves the read index on by one (R78, R79, R112, R458, R527). A list whose entries are all in ring 6 and that passes Table
10.4 is accepted as the newest list, and its entries are read (R319). -/
def Obligations.EntriesTaken : Prop :=
  (∀ (s : State) (st : Fin 1024) (e : List Byte), s.commandHead st = some e →
    let x := s.stream st
    (entryType e = 0x0023 → s.proxyOk e = true → completes (.proxy st) s fun t =>
      (⟨leNat e 4 4, e, leNat e 8 4⟩ : Proxy) ∈ (t.stream st).proxies ∧ (t.stream st).cmdRead = (x.cmdRead + 1) % 2 ^ 32 ∧
      (∀ k, k ≠ st.val → t.stream k = s.stream k) ∧ s.onlyWrites t (s.offConsumer st 0) ∧
      t = { s with out := Out.none, streams := t.streams, mem := t.mem, poison := t.poison }) ∧
    (entryType e ≠ 0x0021 → entryType e ≠ 0x0023 →
      (x.p.batch = true → (s.ring st 2).full = false ∧ x.retime = [] ∧ ∀ f ∈ x.frames, f.closed = true) → completes (.unknownCommandEntry st) s fun t =>
      (t.stream st).cmdRead = (x.cmdRead + 1) % 2 ^ 32 ∧ (t.stream st).keys = x.keys ∧
      (∀ k, k ≠ st.val → t.stream k = s.stream k) ∧ s.onlyRaised t ∧
      s.onlyWrites t (fun a => s.offConsumer st 0 a ∧ s.offPush st 2 128 a) ∧
      t = { s with out := t.out, host := t.host, streams := t.streams, mem := t.mem, poison := t.poison }) ∧
    (entryType e = 0x0021 → x.p.batch = true → x.retimeRulesOk e = true →
      x.keyStands (leNat e 8 4) = .held → x.keyStands (leNat e 0xC 4) = .held → completes (.retime st) s fun t =>
      (x.retime = [] → (∀ f ∈ x.frames, f.closed = true) → ∃ f ∈ (t.stream st).frames, f.index = leNat e 0x20 8 ∧
        f.nameA = leNat e 8 4 ∧ f.nameB = leNat e 0xC 4 ∧ f.entry = x.retimes ∧ f.closed = false) ∧
      ((∀ r ∈ x.retime.head?, r.next < r.phases.length) → (∀ h < 2, ∃ f ∈ x.frames, f.closed = false ∧ f.half = h) →
        (t.stream st).frames = x.frames ∧ ∃ r, (t.stream st).retime = x.retime ++ [r] ∧ r.keyA = leNat e 8 4 ∧
          r.keyB = leNat e 0xC 4 ∧ r.next = 0 ∧ r.seq = x.retimes) ∧
      (t.stream st).retimes = x.retimes + 1 ∧ (t.stream st).lastKeyA = some (leNat e 8 4) ∧
      (t.stream st).cmdRead = (x.cmdRead + 1) % 2 ^ 32 ∧ x.frames <+: (t.stream st).frames ∧
      (t.stream st).state ≠ .open_ ∧ (∀ k, k ≠ st.val → t.stream k = s.stream k) ∧ s.onlyRaised t ∧
      s.onlyWrites t (fun a => s.offConsumer st 0 a ∧ s.offConsumer st 1 a ∧ s.offPush st 3 64 a ∧ x.offFrame 0 a ∧ x.offFrame 1 a) ∧
      t = { s with out := t.out, host := t.host, streams := t.streams, mem := t.mem, poison := t.poison })) ∧
  (∀ (s : State) (st : Fin 1024), s.firmwareUp = true → (s.stream st).state ≠ .free → (s.stream st).state ≠ .closing →
    (s.stream st).p.batch = false → (s.stream st).p.overlayArea ≠ 0 →
    let x := s.stream st
    let r := s.ring st 6
    let entry (i : Nat) : List Byte := s.readBytes (r.slotAt (x.ovlRead + i)) 64
    let nr := leNat (entry 0) 0x18 1
    let np := leNat (entry 0) 8 4
    (r.producer + 2 ^ 32 - x.ovlRead) % 2 ^ 32 ≥ 1 + nr + np → x.headerFails st (entry 0) = false →
    s.listFails st (entry 0) ((List.range nr).map fun i => entry (1 + i)) ((List.range np).map fun i => entry (1 + nr + i)) =
      none →
    completes (.ovlList st) s fun t =>
      (∃ l : OverlayList, (t.stream st).lists = x.lists ++ [l] ∧ l.seq = leNat (entry 0) 4 4 ∧
        l.minFrame = leNat (entry 0) 0x0C 4 ∧ l.accepted = s.clock.clap ∧ l.regions = nr ∧ l.prims = np ∧
        l.firstSlot = x.ovlRead) ∧
      (t.stream st).ovlLast = some (leNat (entry 0) 4 4) ∧
      (t.stream st).ovlRead = (x.ovlRead + (1 + nr + np)) % 2 ^ 32 ∧ (∀ k, k ≠ st.val → t.stream k = s.stream k) ∧
      s.onlyWrites t (s.offConsumer st 6) ∧
      t = { s with out := Out.none, streams := t.streams, mem := t.mem, poison := t.poison })

/-- The next output frame of a DEADLINE stream is set up: inside the interval with the interval's keyframe and phase; after it, with a
keyframe that arrived by the cutoff, as the first frame of that keyframe's interval; with none, at the cutoff, as a hold frame that
lengthens the run; each writes the tile map and the tile records of the frame's half. A run of hold frames that a late keyframe ended is
reported by KEYFRAME_LATE from the cutoff at which it ended (R52, R53, R54). The first keyframe's interval is one frame with p = 840,
copied in modes TWEEN and PASSTHROUGH and run through the reel in the others; a frame before it is black, with source 4 in every
tile-map entry (R55). When the arrival window of a candidate frame opens, also of
one that was set up before, CUE stands in the stream's event ring where cue_events is on, and memory stays as it is where it is off; no
frame is set up (R58). -/
def Obligations.FramesSetUpInTime : Prop :=
  (∀ (s : State) (st : Fin 1024) (i : Interval), s.cadenceRuns st = true → (s.stream st).interval = some i →
    let x := s.stream st
    let f := x.nextFrame
    let plain (a : Nat) : Prop := x.offFrame (f % 2) a
    (x.runEnds = none → i.holds f = true → completes (.keyframeCutoff st) s fun t =>
      (t.stream st).nextFrame = f + 1 ∧ (t.stream st).interval = some i ∧
      (∃ g ∈ (t.stream st).frames, g.index = f ∧ g.keyB = i.key ∧ g.keyA = i.prev ∧ g.hold = false ∧
        g.phase = 840 * (f - i.first + 1) / max 1 i.len) ∧
      (∀ k, k ≠ st.val → t.stream k = s.stream k) ∧ s.timePassed t ∧ s.onlyWrites t plain ∧
      t = { s with out := Out.none, clock := t.clock, streams := t.streams, mem := t.mem, poison := t.poison }) ∧
    (∀ k, x.runEnds = none → i.holds f = false → x.waitingKey = some k → k.arrival ≤ s.cutoff st f →
      completes (.keyframeCutoff st) s fun t =>
        (t.stream st).nextFrame = f + 1 ∧ (t.stream st).interval = some ⟨k.counter, some i.key, f, x.p.n, false⟩ ∧
        (∃ g ∈ (t.stream st).frames, g.index = f ∧ g.keyB = k.counter ∧ g.keyA = some i.key ∧ g.hold = false ∧
          g.phase = 840 / max 1 x.p.n) ∧
        (∀ j, j ≠ st.val → t.stream j = s.stream j) ∧ s.timePassed t ∧ s.onlyRaised t ∧
        s.onlyWrites t (fun a => plain a ∧ s.offConsumer st 1 a ∧ (x.holdRun ≠ 0 → s.offPush st 3 64 a)) ∧
        t = { s with out := t.out, host := t.host, clock := t.clock, streams := t.streams, mem := t.mem, poison := t.poison }) ∧
    (∀ e, x.runEnds = some e → x.holdRun ≠ 0 → e ≤ s.clock.clap → completes (.keyframeCutoff st) s fun t =>
      (t.stream st).runEnds = none ∧ (t.stream st).holdRun = 0 ∧ (t.stream st).frames = x.frames ∧
      (t.stream st).nextFrame = f ∧ s.onlyRaised t ∧ (∀ j, j ≠ st.val → t.stream j = s.stream j) ∧
      s.streamEvent t st 0x0003 ∧ s.onlyWrites t (s.offPush st 3 64) ∧
      t = { s with out := t.out, host := t.host, streams := t.streams, mem := t.mem, poison := t.poison }) ∧
    (x.runEnds = none → i.holds f = false → (∀ k, x.waitingKey = some k → s.cutoff st f < k.arrival) → x.frames ≠ [] → completes (.keyframeCutoff st) s fun t =>
      (t.stream st).nextFrame = f + 1 ∧ (t.stream st).holdRun = x.holdRun + 1 ∧
      (∃ g ∈ (t.stream st).frames, g.index = f ∧ g.hold = true ∧ g.kind = .repeat_) ∧
      (s.clock.running = true → s.cutoff st f ≤ t.clock.clap) ∧ s.timePassed t ∧ (∀ k, k ≠ st.val → t.stream k = s.stream k) ∧
      s.onlyWrites t plain ∧
      t = { s with out := Out.none, clock := t.clock, streams := t.streams, mem := t.mem, poison := t.poison })) ∧
  (∀ (s : State) (st : Fin 1024), s.cadenceRuns st = true → (s.stream st).interval = none → (s.stream st).runEnds = none →
    (s.stream st).holdRun = 0 →
    let x := s.stream st
    let f := x.nextFrame
    let plain (a : Nat) : Prop := x.offFrame (f % 2) a
    (∀ k, x.keys.head? = some k → k.arrival ≤ s.cutoff st f → completes (.keyframeCutoff st) s fun t =>
      (t.stream st).nextFrame = f + 1 ∧ (t.stream st).interval = some ⟨k.counter, none, f, 1, true⟩ ∧
      (∃ g ∈ (t.stream st).frames, g.index = f ∧ g.keyB = k.counter ∧ g.keyA = none ∧ g.hold = false ∧ g.phase = 840 ∧
        g.kind = (if x.modeNow = .upscale ∨ x.modeNow = .both then .computed else .copy)) ∧
      (∀ j, j ≠ st.val → t.stream j = s.stream j) ∧ s.timePassed t ∧
      s.onlyWrites t (fun a => plain a ∧ s.offConsumer st 1 a) ∧
      t = { s with out := Out.none, clock := t.clock, streams := t.streams, mem := t.mem, poison := t.poison }) ∧
    ((∀ k, x.keys.head? = some k → s.cutoff st f < k.arrival) → completes (.keyframeCutoff st) s fun t =>
      (t.stream st).nextFrame = f + 1 ∧ (t.stream st).interval = none ∧ (t.stream st).holdRun = 0 ∧
      (∃ g ∈ (t.stream st).frames, g.index = f ∧ g.kind = .black ∧ g.hold = false) ∧
      (x.p.overlayArea = 0 → ∀ i < x.p.tileCount, t.readNat (x.mapAt (f % 2) + 8 * i) 8 = 4) ∧
      (∀ j, j ≠ st.val → t.stream j = s.stream j) ∧ (s.clock.running = true → s.cutoff st f ≤ t.clock.clap) ∧ s.timePassed t ∧
      s.onlyWrites t plain ∧
      t = { s with out := Out.none, clock := t.clock, streams := t.streams, mem := t.mem, poison := t.poison })) ∧
  (∀ (s : State) (st : Fin 1024), s.cadenceRuns st = true → (s.stream st).candidate = true →
    (s.stream st).cued ≠ some (s.stream st).nextFrame →
    (s.stream st).cuesDue = [] → s.frame? st (s.stream st).nextFrame = none →
    completes (.arrivalWindowOpen st) s fun t =>
      (t.stream st).cued = some (s.stream st).nextFrame ∧
      (t.stream st).frames = (s.stream st).frames ∧ (t.stream st).nextFrame = (s.stream st).nextFrame ∧
      ((s.stream st).p.cueEvents = false → t.mem = s.mem ∧ t.poison = s.poison) ∧
      ((s.stream st).p.cueEvents = true → s.streamEvent t st 0x0004 ∧ s.onlyWrites t (s.offPush st 3 64)) ∧
      (s.clock.running = true → s.windowOpens st (s.stream st).nextFrame ≤ t.clock.clap) ∧ s.timePassed t ∧ s.onlyRaised t ∧
      (∀ k, k ≠ st.val → t.stream k = s.stream k) ∧
      t = { s with out := t.out, host := t.host, clock := t.clock, streams := t.streams, mem := t.mem, poison := t.poison }) ∧
  (∀ (s : State) (st : Fin 1024) (f : Nat) (rest : List Nat) (g : Frame), s.cadenceRuns st = true →
    (s.stream st).cuesDue = f :: rest → s.frame? st f = some g →
    completes (.arrivalWindowOpen st) s fun t =>
      (t.stream st).cuesDue = rest ∧ (t.stream st).frames = (s.stream st).frames ∧
      (t.stream st).nextFrame = (s.stream st).nextFrame ∧ (t.stream st).cued = (s.stream st).cued ∧
      ((s.stream st).p.cueEvents = false → t.mem = s.mem ∧ t.poison = s.poison) ∧
      ((s.stream st).p.cueEvents = true → s.streamEvent t st 0x0004 ∧ s.onlyWrites t (s.offPush st 3 64)) ∧
      (s.clock.running = true → g.start / subTicks - 250_000 ≤ t.clock.clap) ∧ s.timePassed t ∧ s.onlyRaised t ∧
      (∀ k, k ≠ st.val → t.stream k = s.stream k) ∧
      t = { s with out := t.out, host := t.host, clock := t.clock, streams := t.streams, mem := t.mem, poison := t.poison })

/-! ## MOTION and the warp unit -/

/-- Where a lane takes it (R84) and the firewall passes MOTION's reads (R486), MOTION works a row group of the first keyframe or pair that
still lacks it: the keyframe's pyramid gains the group, and MOTION has begun the keyframe's pairs; the block matcher gives the group's row
of blocks the vectors of R93 and R94; the census gives each pixel of the group its refined vector (R91 to R99). Memory, streams and
everything but MOTION's own results and turn stay. -/
def Obligations.MotionAnalysesPairs : Prop :=
  ∀ (s : State) (st : Fin 1024) (g : Nat), g < (s.stream st).p.groups →
    let x := s.stream st
    let turn := if x.p.batch then st.val else s.motion.lastBatch
    (∀ pre k post, x.motionKeys = pre ++ k :: post → (∀ q ∈ pre, g ∈ s.pyramidDone st q.slot) →
      g ∉ s.pyramidDone st k.slot → min (4 * g + 3) (x.p.renH - 1) < 64 * k.slices →
      (∀ q ∈ s.motion.pairs, q.stream = st.val → q.a = k.slot ∨ q.b = k.slot → q.resumeAt ≤ s.clock.clap) →
      s.laneTakes st k.slot = true → s.passes .motion (s.keyRanges st k.slot) [] = true →
      completes (.pyramidBuild st g) s fun t =>
        t.pyramidDone st k.slot = g :: s.pyramidDone st k.slot ∧
        (∀ i slot, i ≠ st.val → t.pyramidDone i slot = s.pyramidDone i slot) ∧
        (∀ q ∈ x.motionKeys, q.slot ≠ k.slot → t.pyramidDone st q.slot = s.pyramidDone st q.slot) ∧
        (∀ i a b, i ≠ st.val → t.pair i a b = s.pair i a b) ∧
        (∀ r ∈ x.motionPairs, t.pair st r.1.slot r.2.slot = s.pair st r.1.slot r.2.slot ∧
          (r.1.slot = k.slot ∨ r.2.slot = k.slot → s.pair st r.1.slot r.2.slot ∈ t.motion.pairs)) ∧
        t = { s with out := Out.none,
                     motion := { s.motion with pyramids := t.motion.pyramids, pairs := t.motion.pairs, lastBatch := turn } }) ∧
    (∀ pre q post, x.motionPairs = pre ++ q :: post → q.2.cut = false → s.laneTakes st q.2.slot = true →
      s.passes .motion (s.pairRanges st q) [] = true →
      let p := s.pair st q.1.slot q.2.slot
      s.pairLive p = true →
      ((∀ r ∈ pre, g ∈ (s.pair st r.1.slot r.2.slot).blockDone) → g ∉ p.blockDone →
        coversRows x.p (s.pyramidDone st q.1.slot) 0 x.p.renH = true →
        coversRows x.p (s.pyramidDone st q.2.slot) (dependRows 4 0 (g / 2) (g / 2)).1 (dependRows 4 0 (g / 2) (g / 2)).2 = true →
        completes (.blockMatch st g) s fun t =>
          (t.pair st q.1.slot q.2.slot).blockDone = g :: p.blockDone ∧
          ((∀ b ∈ p.blocks, b.1 / max 1 (ceilDiv x.p.renW 8) ≠ g / 2) → ∀ bx v,
            (matchRow (s.motionParams st) (pyramid (s.keyLuma st q.2.slot)) (pyramid (s.keyLuma st q.1.slot))
              (s.blockHint st q.2.slot (s.motionParams st)) (g / 2))[bx]? = some v →
            (g / 2 * ceilDiv x.p.renW 8 + bx, v) ∈ (t.pair st q.1.slot q.2.slot).blocks) ∧
          (∀ b ∈ p.blocks, b ∈ (t.pair st q.1.slot q.2.slot).blocks) ∧
          (∀ i a b, i ≠ st.val → t.pair i a b = s.pair i a b) ∧
          t = { s with out := Out.none, motion := { s.motion with pairs := t.motion.pairs, lastBatch := turn } }) ∧
      ((∀ r ∈ pre, g ∈ (s.pair st r.1.slot r.2.slot).censusDone) → g ∉ p.censusDone →
        coversRows x.p p.blockDone (8 * (g / 2 - 1)) (8 * (g / 2) + 15) = true →
        completes (.censusRefine st g) s fun t =>
          (t.pair st q.1.slot q.2.slot).censusDone = g :: p.censusDone ∧
          (∀ y xx, 4 * g ≤ y → y < 4 * g + 4 → y < x.p.renH → xx < x.p.renW →
            (y * x.p.renW + xx, refinePixel (s.motionParams st).censusNoise (s.keyLuma st q.2.slot) (s.keyLuma st q.1.slot)
              xx y ((p.blockAt (ceilDiv x.p.renW 8) (xx / 8) (y / 8)).vx, (p.blockAt (ceilDiv x.p.renW 8) (xx / 8) (y / 8)).vy)
              (p.candidates (ceilDiv x.p.renW 8) (ceilDiv x.p.renH 8) (xx / 8) (y / 8))) ∈
                (t.pair st q.1.slot q.2.slot).census) ∧
          (∀ i a b, i ≠ st.val → t.pair i a b = s.pair i a b) ∧
          t = { s with out := Out.none, motion := { s.motion with pairs := t.motion.pairs, lastBatch := turn } }))

/-- Where a lane takes it (R84) and the firewall passes MOTION's accesses (R486), occlusion and confidence write the two motion records of
every pixel of the group and no other byte of memory: those of R100 to R103 from the census results and the hints; those of a cut are R83's,
with the flat bit 0 as log 123 has it. Where what they are made from holds poison they are poisoned (R253; how far that reaches is log 122).
Rays change only records of the group. Streams and everything but memory and MOTION's own results and turn stay (R100 to R104, R114 to
R117). The premise on the record planes says that they do not overlap. -/
def Obligations.MotionRecordsWritten : Prop :=
  ∀ (s : State) (st : Fin 1024) (g : Nat), g < (s.stream st).p.groups →
    let x := s.stream st
    let cell (i : Nat) : Prop := i / max 1 x.p.renW / 4 = g ∧ i < x.p.renW * x.p.renH
    let outside (a : Nat) : Prop := ∀ plane < 2, ∀ i, cell i →
      a < x.motionRecordAt plane i ∨ x.motionRecordAt plane i + 8 ≤ a
    let planesApart : Prop := x.motionRecordAt 0 (x.p.renW * x.p.renH) ≤ x.motionRecordAt 1 0 ∨
      x.motionRecordAt 1 (x.p.renW * x.p.renH) ≤ x.motionRecordAt 0 0
    ∀ pre q post, x.motionPairs = pre ++ q :: post → s.laneTakes st q.2.slot = true →
      let p := s.pair st q.1.slot q.2.slot
      let turn := if x.p.batch then st.val else s.motion.lastBatch
      s.pairLive p = true →
      ((∀ r ∈ pre, g ∈ (s.pair st r.1.slot r.2.slot).occDone) → g ∉ p.occDone → s.planesFree st q.1.slot q.2.slot = true →
        (q.2.cut = true ∨ coversRows x.p p.censusDone (4 * g - 1028) (4 * g + 3 + 1028) = true) →
        s.passes .motion (s.pairRanges st q) (x.groupRecords g) = true →
        completes (.occlusionConfidence st g) s fun t =>
          (t.pair st q.1.slot q.2.slot).occDone = g :: p.occDone ∧ (t.pair st q.1.slot q.2.slot).owns = true ∧
          (∀ a, outside a → t.readByte a = s.readByte a) ∧ (s.poison = [] → t.poison = []) ∧
          (q.2.cut = false → planesApart → ∀ i, cell i →
            let w := x.p.renW
            let census := p.censusArray (w * x.p.renH)
            let hint (i : Nat) : Bool := (p.blockAt (ceilDiv w 8) (i % max 1 w / 8) (i / max 1 w / 8)).hint
            let kr (i : Nat) : Record :=
              kRecord (s.motionParams st) (s.keyLuma st q.2.slot) census (winners w x.p.renH census) (hint i) i
            t.readNat (x.motionRecordAt 0 i) 8 = (kr i).word % 2 ^ 64 ∧
            t.readNat (x.motionRecordAt 1 i) 8 =
              (aRecord (s.motionParams st) (s.keyLuma st q.1.slot) (winners w x.p.renH census) kr i).word % 2 ^ 64) ∧
          (q.2.cut = false → s.keysPoisoned st g q.1.slot q.2.slot = true → ∀ plane < 2, ∀ i, cell i →
            t.poisonedAt (x.motionRecordAt plane i) 8 = true) ∧
          (q.2.cut = true → planesApart → ∀ i, cell i →
              let edge := edgeAt x.p.renW x.p.renH (i % max 1 x.p.renW) (i / max 1 x.p.renW)
              t.readNat (x.motionRecordAt 0 i) 8 = (cutRecord true edge).word ∧
              t.readNat (x.motionRecordAt 1 i) 8 = (cutRecord false edge).word) ∧
          (∀ i a b, i ≠ st.val → t.pair i a b = s.pair i a b) ∧
          t = { s with out := Out.none, motion := { s.motion with pairs := t.motion.pairs, lastBatch := turn }, mem := t.mem, poison := t.poison }) ∧
      ((∀ r ∈ pre, g ∈ (s.pair st r.1.slot r.2.slot).rayDone) → g ∉ p.rayDone → s.castsRays st q.1 q.2 = true →
        q.1.proxy.isSome = true → q.2.proxy.isSome = true → p.owns = true → coversRows x.p p.occDone 0 (4 * g + 3) = true →
        s.passes .motion (s.pairRanges st q ++ x.groupRecords g) (x.groupRecords g) = true →
        completes (.rayTraversal st g) s fun t =>
          (t.pair st q.1.slot q.2.slot).rayDone = g :: p.rayDone ∧ (t.pair st q.1.slot q.2.slot).census = p.census ∧
          (∀ a, outside a → t.readByte a = s.readByte a) ∧ (s.poison = [] → t.poison = []) ∧
          (∀ i a b, i ≠ st.val → t.pair i a b = s.pair i a b) ∧
          t = { s with out := Out.none, motion := { s.motion with pairs := t.motion.pairs, lastBatch := turn }, mem := t.mem, poison := t.poison })

/-- The warp unit writes a tile row of a frame, a BATCH row where no DEADLINE row is ready, where the firewall passes its accesses (R486):
the tiles of the row not yet written get fallback_ready while their records find room, and when every tile has it the row counts as
written; the first of them holds, block by block in the coding of R247 to R249, the picture that R106 to R110 warp for it; nothing is
written but their slots, headers and map bytes. The done token of a row whose records are final goes to the sequencer once (R76, R88, R106
to R111). The premises on addresses say that the tile map and the fallback store of the frame do not overlap. -/
def Obligations.WarpWritesRows : Prop :=
  ∀ (s : State) (st : Fin 1024) (frame row : Nat) (f : Frame), s.frame? st frame = some f → s.motion.stopped = false →
    let x := s.stream st
    let slot (u : Nat) := tileSlotAt (x.homes.fallback.getD f.half 0) x.p.tileCount (bppOf x.p.colour) u
    let head (u : Nat) := headerAt (x.homes.fallback.getD f.half 0) u
    let apart (a : Nat) : Prop := ∀ u ∈ x.p.rowTiles row,
      (a < head u ∨ head u + 128 ≤ a) ∧ (a < slot u ∨ slot u + 8192 * bppOf x.p.colour ≤ a)
    (f.warped = true → (x.p.batch = true → s.deadlineRow = false) → f.closed = false → row < x.p.rows → row ∉ f.written → x.warpTurn f row = true →
      x.state ≠ .free → (x.key? f.keyB).isSome → (f.kind = .tween → s.recordsFinal st f row = true) →
      (∀ u ∈ x.p.rowTiles row, apart (x.entryByte f.half u 1)) →
      s.passes .warp (s.warpReads st f) (x.warpWrites f row) = true →
      completes (.warpFallback st frame row) s fun t =>
        (∀ u ∈ x.p.rowTiles row, s.mapByte st f.half u 1 = 1 → t.mapByte st f.half u 1 = 1) ∧
        (∀ u ∈ x.p.rowTiles row, s.mapByte st f.half u 1 = 0 → t.mapByte st f.half u 1 = 1 ∨ t.warpRoom st = false) ∧
        (∀ pre u post, x.p.rowTiles row = pre ++ u :: post → (∀ v ∈ pre, s.mapByte st f.half v 1 ≠ 0) → s.mapByte st f.half u 1 = 0 →
          s.warpRoom st = true → ∀ i < 128,
            let e := encodeBlock x.p.colour (bppOf x.p.colour) (blockOfTile (s.warpTile st f u) i)
            t.readByte (head u + i) = e.1 ∧ t.readBytes (slot u + i * 64 * bppOf x.p.colour) e.2.length = e.2) ∧
        ((∀ u ∈ x.p.rowTiles row, t.mapByte st f.half u 1 = 1) → ∃ h, t.frame? st frame = some h ∧ h.written = row :: f.written) ∧
        (∀ a, apart a → (∀ u ∈ x.p.rowTiles row, a ≠ x.entryByte f.half u 1) → t.readByte a = s.readByte a) ∧
        (s.poison = [] → t.poison = []) ∧ s.chk.fromFabric <+: t.chk.fromFabric ∧ (∀ k, k ≠ st.val → t.stream k = s.stream k) ∧
        t = { s with out := Out.none, mem := t.mem, poison := t.poison, streams := t.streams,
                     chk := { s.chk with fromFabric := t.chk.fromFabric, fabricWait := t.chk.fabricWait } }) ∧
    (f.kind.reelRun = true → row ∈ f.written → (∀ q, x.pairOf f = some q → (s.pair st q.1.slot q.2.slot).failed = false) →
      row ∉ f.doneRows → (st.val, frame, row) ∉ s.motion.tokens → s.recordsFinal st f row = true →
      exec (.warpDoneToken st frame row) s = .next { s with
        out := Out.none, motion := { s.motion with tokens := s.motion.tokens ++ [(st.val, frame, row)] } })

/-! ## The sequencer and the array island -/

/-- The beat boundary brings the clapper to the next multiple of 500 ticks; entries left on the current sheet other than
dailies end with status 4, dailies entries stay held, and the next sheet becomes current when it is that beat's (R32 to R34,
R430). Firmware, where it runs, then takes the done tokens, every 512 beats steps its heartbeat, and builds the next sheet: at most 64
entries outside a dailies beat; without firmware nothing but the clapper, the array island and its tokens changes (R273, R276). -/
def Obligations.BeatBoundaryTurns : Prop :=
  ∀ s : State, s.clock.running = true → (∀ sh ∈ s.seq.inflight, s.beat + 1 < sh.beat) →
    let n := s.beat + 1
    completes .beatBoundary s fun t =>
      t.clock.clap = 500 * n ∧ s.timePassed t ∧ t.arr.hold = s.arr.hold ++ s.arr.left.filter (·.dailies) ∧ t.arr.running = s.arr.running ∧
      t.seq.inflight = s.seq.inflight ∧
      (∀ sh, s.arr.next = some sh → sh.beat = n → t.arr.current = some sh ∧ t.arr.next = none ∧ t.arr.left = sh.entries) ∧
      ((∀ sh, s.arr.next = some sh → sh.beat ≠ n) → t.arr.current = none ∧ t.arr.next = s.arr.next ∧ t.arr.left = []) ∧
      (s.firmwareUp = true → t.motion.tokens = [] ∧
        t.dev.heartbeat = (if n % 512 = 0 then (s.dev.heartbeat + 1) % 2 ^ 32 else s.dev.heartbeat)) ∧
      (s.firmwareUp = true → s.seq.sealed ≠ n + 1 → ∃ es cues,
        t.seq.draft = some (sheetOf (n + 1) ((n + 1) % 512 == 0) es, cues) ∧ ((n + 1) % 512 ≠ 0 → es.length ≤ 64) ∧
        (∀ e ∈ es, e.beat = n + 1 ∧ e.dailies = ((n + 1) % 512 == 0) ∧ e ∈ t.seq.known)) ∧
      t.seq.tokens = s.seq.tokens ++ ((s.arr.left.filter fun e => !e.dailies).map fun e => plainToken e.takeId 4 (s.beatCycle n)) ∧
      (s.firmwareUp = false →
        t = { s with out := Out.none, clock := t.clock, arr := t.arr, seq := { s.seq with tokens := t.seq.tokens } }) ∧
      t.ports = s.ports ∧ t.inputs = s.inputs ∧ t.tags = s.tags ∧ t.wall = s.wall ∧ t.fuses = s.fuses ∧ t.board = s.board ∧
      t.jtag = s.jtag ∧ t.opens = s.opens ∧ t.tensors = s.tensors

/-- At tick 375 the sequencer seals the sheet of the next beat that it has built: the tile and dependency lists go into CONTROL memory, the
sheet onto the crossing behind those on it, the cues to the members, and for cued entries a remote read of each packet of their fill lists
to the owner; without a free credit it waits (R32, R394). Where no boundary built the sheet it
is built now (log 70, the model's choice) (R32, R273, R275). A sheet that arrives intact before its beat is the next sheet, one that
arrives in its beat the current one, a later one is dropped; a corrupt sheet is dropped and reported in the CONTROL slot (R33, R275). -/
def Obligations.SheetsSealedAndArrive : Prop :=
  (∀ s : State, s.firmwareUp = true → s.clock.running = true → s.seq.sealed ≠ s.beat + 1 →
    let m := s.beat + 1
    (∀ sh cues, s.seq.draft = some (sh, cues) → sh.beat = m → (∃ e ∈ sh.entries, e.owner.isSome = true) → s.sheetCredits ≠ 0 →
      completes .callSheetSeal s fun t => ∃ u : State, t = u.resumeRequests ∧
        u = { s with out := { Out.none with cues := cues }, clock := u.clock, seq := u.seq, mem := u.mem, poison := u.poison,
                     set := { s.set with unsent := u.set.unsent } } ∧
        u.seq = { s.seq with sealed := m, draft := none, inflight := s.seq.inflight ++ [sh] } ∧ s.timePassed u ∧
        s.set.unsent <+: u.set.unsent ∧
        (∀ e ∈ sh.entries, ∀ o, e.owner = some o → ∀ f ∈ e.fills, ∀ x, e.tiles[f.tile]? = some x → ∀ i p, (fillPackets f)[i]? = some p →
          (⟨.dolly (Config.fetchDolly e.takeId), none, some ⟨e.takeId, x, f.src, i⟩, s.requestTo o.1 (Config.readHeader p.1 p.2) []⟩ :
            SetRequest) ∈ u.set.unsent)) ∧
    (∀ sh cues, s.seq.draft = some (sh, cues) → sh.beat = m → (∀ e ∈ sh.entries, e.owner = none) → completes .callSheetSeal s fun t =>
      500 * s.beat + 375 ≤ t.clock.clap ∧ t.clock.clap < 500 * m ∧ s.timePassed t ∧
      (s.sheetCredits ≠ 0 →
        t.seq = { s.seq with sealed := m, draft := none, inflight := s.seq.inflight ++ [sh] } ∧ t.out = { Out.none with cues := cues } ∧
        (∀ e ∈ placeLists m sh.entries, t.readBytes (Config.controlBase + e.2) (e.1.tileList ++ e.1.depList).length =
          e.1.tileList ++ e.1.depList) ∧
        s.onlyWrites t (fun a => ∀ e ∈ placeLists m sh.entries, a < Config.controlBase + e.2 ∨
            Config.controlBase + e.2 + (e.1.tileList ++ e.1.depList).length ≤ a) ∧
        t = { s with out := t.out, clock := t.clock, seq := t.seq, mem := t.mem, poison := t.poison }) ∧
      (s.sheetCredits = 0 → t = { s with out := Out.none, clock := t.clock })) ∧
    (s.drafted m = false → s.sheetCredits ≠ 0 → s.seq.cues = [] → completes .callSheetSeal s fun t =>
      (∃ es : List Entry, t.seq.inflight = s.seq.inflight ++ [sheetOf m (m % 512 == 0) es] ∧ t.seq.known = s.seq.known ++ es ∧
        (m % 512 ≠ 0 → es.length ≤ 64) ∧ (∀ e ∈ es, e.beat = m ∧ e.dailies = (m % 512 == 0))) ∧
      t.seq.sealed = m ∧ 500 * s.beat + 375 ≤ t.clock.clap ∧ t.clock.clap < 500 * m ∧ s.timePassed t ∧
      t.arr = s.arr ∧ t.gates = s.gates ∧ t.ports = s.ports ∧ t.tensors = s.tensors ∧ t.err.log = s.err.log ∧
      t.err.status = s.err.status)) ∧
  (∀ (s : State) (sh : Sheet) (rest : List Sheet), s.seq.inflight = sh :: rest →
    (s.beat < sh.beat → exec (.callSheetArrive false) s = .next { s with
      out := Out.none, seq := { s.seq with inflight := rest }, arr := { s.arr with next := some sh } }) ∧
    (s.beat = sh.beat → exec (.callSheetArrive false) s = .next { s with
      out := Out.none, seq := { s.seq with inflight := rest }, arr := { s.arr with current := some sh, left := sh.entries } }) ∧
    (sh.beat < s.beat → exec (.callSheetArrive false) s = .next { s with out := Out.none, seq := { s.seq with inflight := rest } }) ∧
    (s.regionFree 18 → completes (.callSheetArrive true) s fun t =>
      t.seq = { s.seq with inflight := rest, badSheets := s.seq.badSheets ++ [sh.beat] } ∧ t.arr = s.arr ∧
      t.slotHeld (.region 18) = true ∧ (∃ e ∈ t.err.log, e.cause = 0x300C ∧ e.unit = 18 ∧ e.level = 2) ∧
      t = { s with out := t.out, host := t.host, seq := t.seq, err := t.err, free := t.free }))

/-- The array island admits the entry at its head when R35 allows it, and the take owns its banks and what stands in them for its tiles; it
withdraws one whose predecessor ended FAILED, WITHDRAWN or POISONED, where a credit for the token is free, and begins the third run of a
take once the spares' benches are refilled: what stood in the benches of the blocks taken out stands in those of the spares, an operand with
the bytes that its moves brought, and no other byte of memory changes (R18, R20, R26, R35, R278; that a result of an earlier step is copied
from the block taken out is log 138). -/
def Obligations.TakeAdmitted : Prop :=
  ∀ s : State,
    (∀ (e : Entry) (r : LoadedReel) (st : Step), s.arr.head = some e → s.arr.running = none → s.arr.doomed e = false →
      s.reel? e.reel = some r → s.stepOf e = some st → s.admissible e r st = true →
      completes .takeAdmit s fun t =>
        t.arr.running = some ⟨e, 1, s.startCycle, s.startCycle, [], [], [], false, s.bench.filter fun b => e.tiles.contains b.tile⟩ ∧ t.arr.owned = s.takeBanks e r st ∧
        t.arr.hold ++ t.arr.left = (s.arr.hold ++ s.arr.left).drop 1 ∧ e.takeId ∉ t.arr.acks ∧ t.arr.finals = s.arr.finals ∧
        t.arr.current = s.arr.current ∧ (∀ b, t.block b = { s.block b with sticky := (t.block b).sticky }) ∧
        t = { s with out := Out.none, arr := t.arr, units := { s.units with blocks := t.units.blocks } }) ∧
    (∀ e : Entry, s.arr.head = some e → s.arr.running = none → s.arr.doomed e = true → s.tokenCredit = true → completes .takeAdmit s fun t =>
        t.arr.running = none ∧ t.arr.hold ++ t.arr.left = (s.arr.hold ++ s.arr.left).drop 1 ∧
        t.seq.tokens = s.seq.tokens ++ [plainToken e.takeId 5 s.cycle] ∧ (e.takeId, 5) ∈ t.arr.finals ∧
        t = { s with out := Out.none, arr := t.arr, seq := { s.seq with tokens := t.seq.tokens } }) ∧
    (∀ r : Running, s.arr.running = some r → r.waitRefill = true → completes .spareRefillDone s fun t =>
        t.arr = { s.arr with running := some { r with waitRefill := false, start := max r.start s.cycle,
                                                      operands := r.operands.map (HeldTensor.refilled r.substituted) },
                             owned := s.arr.owned.map (movedBank r.substituted) } ∧
        t.bench.map (fun h => (h.tile, h.src, h.blocks, h.at_)) =
          s.bench.map (fun h => let k := h.refilled r.substituted; (k.tile, k.src, k.blocks, k.at_)) ∧
        ((∀ h ∈ s.bench, ∀ x ∈ h.at_, ∀ p ∈ r.substituted, x.1 + x.2 ≤ benchAddr p.2 ∨ benchAddr p.2 + Config.benchSize ≤ x.1) →
          t.bench = s.bench.map (HeldTensor.refilled r.substituted)) ∧
        (∀ a, (∀ p ∈ r.substituted, a < benchAddr p.2 ∨ benchAddr p.2 + Config.benchSize ≤ a) → t.readByte a = s.readByte a) ∧
        (∀ h i old new a n, r.operands = [h] → (∀ k ∈ s.bench, k = h) → h.src = .slot i → h.at_ = [(a, n)] → r.substituted = [(old, new)] →
          old ≠ new → benchAddr old ≤ a → a + n ≤ benchAddr old + Config.benchSize →
          t.readBytes (benchAddr new + (a - benchAddr old)) n = slice h.bytes 0 n) ∧
        t = { s with out := Out.none, arr := t.arr, bench := t.bench, mem := t.mem, poison := t.poison })

/-- Where a credit for its token, and for what it writes to memory a tag, is free, a run that saw no mismatch ends its take with status ENDED,
or POISONED where it read poison, and moves that waited for its banks run then; a first run with a mismatch is run again after an interim
token of status 1, and so is a second run whose mismatches are all in other units. A second run that repeats the mismatch of a block gives
its position the lowest free spare, with status SPARE_RUN, the block retired and the maps changed; without a spare, and after a mismatch in
the third run, the take is FAILED, and the block without a spare, the mismatching spare or the engine leaves service. An uncorrectable read
marks its row, is an error of its block and makes the take POISONED. What a run can show is what its own checks see (R18, R20, R21, R26,
R31, R151 to R154, R201, R250, R277, R279, R280, R293). The premises say that the firewall passes what the take writes (R486) and that no
packet waits. -/
def Obligations.TakeEnds : Prop :=
  ∀ (s : State) (r : Running) (seen : TakeSeen), s.arr.running = some r → r.waitRefill = false → s.tokenCredit = true →
    s.egressFree r.entry = true →
    let e := r.entry
    let sn := s.seenBy e seen
    let token (t : State) (status : Nat) (flags : List Nat) : Prop := ∃ tok : Token, t.seq.tokens = s.seq.tokens ++ [tok] ∧
      tok.takeId = e.takeId ∧ tok.status = status ∧ tok.start = r.first ∧ tok.finish = r.start + e.cycles ∧ tok.flags = flags
    let failed (t : State) (flags : List Nat) : Prop := token t 3 flags ∧ (e.takeId, 3) ∈ t.arr.finals ∧ t.arr.running = none ∧
      t.arr.owned = [] ∧ t.arr.left = s.arr.left ∧ t.tensors = s.tensors ∧ t.ports = s.ports
    (badUnits sn = [] → seen.rows = [] → s.nothingWaits →
      (∀ rl st, s.reel? e.reel = some rl → s.stepOf e = some st → ∀ u ∈ e.tiles,
        s.passes (.egress (s.egressOf rl u)) [] (s.outRanges rl e st u) = true) → completes (.takeEnd seen) s fun t => ∃ u : State, t = u.releaseMoves ∧ u.arr.held = s.arr.held ∧
      (∃ tok : Token, u.seq.tokens = s.seq.tokens ++ [tok] ∧ tok.takeId = e.takeId ∧
        tok.status = (if s.readsPoison e sn then 6 else 0) ∧ tok.start = r.first ∧
        tok.finish = r.start + e.cycles ∧ (e.takeId, tok.status) ∈ u.arr.finals) ∧
      u.arr.running = none ∧ u.arr.owned = [] ∧ u.arr.lastEnd = r.start + e.cycles ∧ u.arr.left = s.arr.left ∧ u.arr.hold = s.arr.hold ∧
      (s.clock.running = true → r.start + e.cycles ≤ u.cycle) ∧ s.timePassed u ∧
      (s.readsPoison e sn = true → u.mem = s.mem ∧ u.bench = s.bench ∧ u.streams = s.streams ∧ u.chk = s.chk ∧ u.pool = s.pool) ∧
      (∀ b, u.block b = { s.block b with cells := (u.block b).cells }) ∧ u.units = { s.units with blocks := u.units.blocks } ∧
      (s.arr.held = [] → t = u) ∧ (s.set.exchanges = [] → e.owner = none →
        u.ports = s.ports ∧ u.tags = s.tags ∧ u.set = s.set) ∧
      u.err = { s.err with slots := u.err.slots } ∧
      u.seq = { s.seq with tokens := u.seq.tokens } ∧
      u = { s with out := u.out, host := u.host, clock := u.clock, mem := u.mem, poison := u.poison, pool := u.pool, free := u.free,
                   streams := u.streams, chk := u.chk, bench := u.bench, units := u.units, arr := u.arr, seq := u.seq, err := u.err,
                   ports := u.ports, tags := u.tags, set := u.set }) ∧
    (badUnits sn ≠ [] → (r.run = 1 ∨ (r.run = 2 ∧ ∀ b ∈ badUnits sn, b ∉ r.firstBad)) → completes (.takeEnd seen) s fun t =>
      t.arr.running = some (if r.run = 1 then { r with run := 2, start := r.start + e.cycles, firstBad := badUnits sn }
        else { r with run := 3, start := r.start + e.cycles, secondBad := badUnits sn }) ∧
      token t 1 (stickyOf sn) ∧ t.arr.finals = s.arr.finals ∧ t.arr.left = s.arr.left ∧
      t.arr.held = s.arr.held ∧ t.bench = s.bench ∧
      min 4096 s.err.log.length ≤ t.err.log.length ∧ t.tensors = s.tensors ∧ t.seq = { s.seq with tokens := t.seq.tokens }) ∧
    (∀ b, r.run = 2 → e.freq = false → badUnits sn = [b] → b ∈ r.firstBad → seen.rows = [] → s.arr.held = [] →
      (∀ sp rest, s.spares = sp :: rest → completes (.takeEnd seen) s fun t =>
        t.arr.running = some { r with run := 3, start := r.start + e.cycles, secondBad := [b], substituted := [(b, sp)],
                                      waitRefill := true } ∧
        token t 2 (stickyOf sn) ∧ (t.block b).retired = true ∧ (∀ k, k ≠ b → t.block k = { s.block k with cells := (t.block k).cells }) ∧
        t.reels = s.reels.map (fun x => { x with positions := replaceIn b sp x.positions }) ∧
        (∃ x ∈ t.err.log, x.cause = causeCode (blockCause sn b) ∧ x.action = 2 ∧ x.level = 0) ∧ t.arr.finals = s.arr.finals ∧
        t.bench = s.bench ∧ t.mem = s.mem) ∧
      (s.spares = [] → completes (.takeEnd seen) s fun t =>
        failed t (stickyOf sn) ∧ (s.lastBlock b = false → (t.block b).retired = true) ∧ (s.lastBlock b = true → s.err.halted = false →
          t.err.halted = true))) ∧
    (badUnits sn ≠ [] → r.run = 3 → s.arr.held = [] → completes (.takeEnd seen) s fun t =>
      failed t (if e.freq then [] else stickyOf sn) ∧
      (∀ p ∈ r.substituted, e.freq = false → badUnits sn = [p.2] → s.slotHeld (.cell p.2) = false → s.lastBlock p.2 = false →
        (t.block p.2).retired = true) ∧
      (∀ k < 9, e.freq = true → badUnits sn = [engineUnit k] → (t.engine k).retired = true)) ∧
    (badUnits sn = [] → (∃ f ∈ seen.rows, f.uncorrectable = true) → s.arr.held = [] → completes (.takeEnd seen) s fun t =>
      token t 6 [] ∧ (e.takeId, 6) ∈ t.arr.finals ∧ t.arr.running = none ∧ t.bench = s.bench ∧
      (∀ f ∈ seen.rows, f.uncorrectable = true →
        ∃ m ∈ t.units.marks, m.bank = f.bank ∧ m.row = f.row ∧ m.uncorrectable = true ∧ m.marked = true) ∧
      (∀ f b k, seen.rows = [f] → f.bank = .bench b k → s.slotHeld (.block b.val) = false →
        ∃ x ∈ t.err.log, x.cause = causeCode .benchUncorrectable ∧ x.level = 1 ∧ x.unit = b.val))

/-- The oldest token of the crossing waits for the next build; a member's token settles its part of a take, and its conversion counts go to
the streams of the take's tiles. An exchange of rows goes, once the writes of a phase are acknowledged, through its phases out, each
sending its rows, and, once the members' takes have ended, back. When all that it brings has been written here it is over, as the one
exchange of partial states is at once: each partial state that arrived stands among the tensors of its tile, and an expert step's tensor
takes the rows that came back, expert by expert. A cue of another member of the launched set joins the next build, take by take (R150,
R294, R394, R396, R397). That a token waits for the build is log 62; the addresses that rows and states are written to, and that a phase
back waits for nothing but the members' tokens and writes, are log 101 (DEDUCED). -/
def Obligations.TokensAndExchanges : Prop :=
  ∀ s : State,
    (∀ k ks, s.seq.tokens = k :: ks → exec (.takeDoneToken none) s = .next { s with
      out := Out.none, seq := { s.seq with tokens := ks, received := s.seq.received ++ [k] } }) ∧
    (∀ (k : RemoteToken) (pre : List Remote) (r : Remote) (post : List Remote), s.seq.remote = pre ++ r :: post → r.takeId = k.takeId → 0 < r.left →
      (∀ q ∈ pre ++ post, q.takeId ≠ k.takeId) → completes (.takeDoneToken (some k)) s fun t =>
        (∃ q : Remote, t.seq.remote = pre ++ q :: post ∧ q.takeId = r.takeId ∧ q.left = r.left - 1 ∧
          q.bad = (r.bad || decide (k.status ≠ 0)) ∧ (r.left = 1 → q.token = none) ∧ (1 < r.left → q.token = r.token)) ∧
        t.seq.received = s.seq.received ++ (if r.left = 1 then r.token.toList else []) ∧
        t.streams = (((((s.seq.known.find? fun e => e.takeId == k.takeId).map (·.tiles)).getD []).zip k.counts).foldl
          State.addCounts s.fresh).streams ∧
        t = { s with out := Out.none, streams := t.streams, seq := { s.seq with remote := t.seq.remote, received := t.seq.received } }) ∧
    (∀ (pre : List Exchange) (x : Exchange) (post : List Exchange), s.set.exchanges = pre ++ x :: post → (∀ y ∈ pre ++ post, y.takeId ≠ x.takeId) →
      (x.takeId, 0) ∈ s.arr.finals → (x.split = true ∨ x.back = true → s.seq.owed x.takeId = false) →
      s.set.unacknowledged x.takeId = false →
      (x.split = true ∨ (s.set.members.length ≤ x.phase + 1 ∧ x.back = true) → s.arrived x = true) →
      completes (.exchangePhase x.takeId) s fun t =>
        (x.split = false → x.phase + 1 < s.set.members.length → t.set.exchanges = pre ++ { x with phase := x.phase + 1 } :: post) ∧
        (x.split = false → s.set.members.length ≤ x.phase + 1 → x.back = false →
          t.set.exchanges = pre ++ { x with phase := 1, back := true } :: post) ∧
        (x.split = false → x.back = false → x.phase + 1 < s.set.members.length →
          t = State.sendPhase { s with out := Out.none, set := { s.set with exchanges := t.set.exchanges } } x (x.phase + 1) ∧
          (s.nothingWaits → t = { s with
            out := t.out, ports := t.ports, tags := t.tags,
            set := { s.set with exchanges := t.set.exchanges, unsent := t.set.unsent, inFlight := t.set.inFlight, answers := t.set.answers,
                                lastPort := t.set.lastPort } })) ∧
        (x.split = false → (x.back = true ∧ x.phase + 1 < s.set.members.length) ∨
            (x.back = false ∧ s.set.members.length ≤ x.phase + 1) →
          t = { s with out := Out.none, set := { s.set with exchanges := t.set.exchanges } }) ∧
        (x.split = true ∨ (s.set.members.length ≤ x.phase + 1 ∧ x.back = true) → t.set.exchanges = pre ++ post ∧
          (∀ r u, (x.tiles.head?.bind fun k => s.reel? (s.stream k.stream).p.reel) = some r → x.tiles.Nodup → u ∈ x.tiles →
            ∀ h ∈ (s.incoming x r u).states, h.2 ∈ t.bench) ∧
          (∀ r u j st es, (x.tiles.head?.bind fun k => s.reel? (s.stream k.stream).p.reel) = some r → x.tiles = [u] →
            (s.incoming x r u).rows = some (j, st, es) →
            ∃ h ∈ t.bench, h.tile = u ∧ h.src = .step j ∧ h.data = es.foldl (fun d e =>
              let came := returnRange st e.2 0 e.1
              mergeRows st [e.1] d (returnedTensor st e.1 (s.readBytes came.1 came.2))) (tensorIn s.bench u (.step j))) ∧
          t = { s with out := t.out, host := t.host, set := { s.set with exchanges := t.set.exchanges, landed := t.set.landed },
                       bench := t.bench, mem := t.mem, poison := t.poison, pool := t.pool, free := t.free, streams := t.streams })) ∧
    (∀ (c : Cue) (r : LoadedReel) (q : Step), s.firmwareUp = true → s.set.configured = true → s.set.epoch.isSome →
      c.owner.val ≠ s.set.index → c.owner.val < s.set.members.length → s.reel? c.reel = some r → r.setScope = true → c.tiles ≠ [] →
      (reelSteps r.content c.keySeq)[c.step]? = some q →
      ∃ ps : List Part, (∀ p, p ∈ ps ↔ p ∈ (r.shape s.set.index).partsRun q ∧ (p = .share ∨ ∃ k, p = .expert k)) ∧
        exec (.setCue c) s = .next { s with out := Out.none, seq := { s.seq with cues := s.seq.cues ++ ps.map fun p => (c, p) } })

/-! ## Output frames: latch, close, completion, tiles past their due beat -/

/-- A tile row of a DEADLINE frame is latched at its latch beat once the rows above it are. A tile with a composite is shown from it, and
the base of its record is the shown code. Every other tile is shown from the source in its map entry; where a fallback or generated tile
has no fallback tile ready, and where the source is the previous frame's, it is shown from what the previous frame showed there, with code 2,
or black, with code 4. Every tile of the row has the latched bit and that code in byte 6 of its map entry, the row's fallback records are
released, and on a stream with a gate no other byte of memory changes but the overlay ring's consumer index, which goes on where a list is
freed (R37, R60, R67, R321, R332, R347, R407). -/
def Obligations.TileRowLatched : Prop :=
  ∀ (s : State) (st : Fin 1024) (frame row : Nat) (f : Frame), s.frame? st frame = some f →
    let x := s.stream st
    x.p.batch = false → x.state ≠ .free → f.closed = false → row ∉ f.latched → row < x.p.rows → (∀ r < row, r ∈ f.latched) →
    completes (.tileRowLatch st frame row) s fun t =>
      (∃ h, t.frame? st frame = some h ∧ h.latched = row :: f.latched ∧ h.closed = false) ∧
      (∃ l, (t.stream st).shown.head? = some l ∧ l.index = frame ∧ ∀ u ∈ x.p.rowTiles row, ∃ d ∈ l.tiles, d.tile = u ∧
        (let src := s.mapByte st f.half u 0 % 8
         let ready := s.mapByte st f.half u 1 % 2 = 1
         let before := (x.shown.find? fun k => k.index + 1 == f.index).bind fun k => k.tiles.find? fun y => y.tile == u
         (s.mapByte st f.half u 5 % 2 = 1 → d.shown = (s.readByte (x.recordAt f.half u)).toNat % 8 ∧ d.composite = some f.half) ∧
         (s.mapByte st f.half u 5 % 2 = 0 →
           (src < 2 ∧ ready ∨ 2 < src → d = ⟨u, src, none, src, f.half, f.keyB⟩) ∧
           (src < 2 ∧ ¬ ready ∨ src = 2 →
             (∀ q, before = some q → q.from_ ≠ 4 → d = { q with shown := 2, composite := none }) ∧
             ((∀ q, before = some q → q.from_ = 4) → d = ⟨u, 4, none, 4, 0, 0⟩)))) ∧
        (x.p.gate.isSome → (x.lists = [] ∨ s.offConsumer st 6 (x.entryByte f.half u 6)) →
          t.mapByte st f.half u 6 = 1 + 2 * d.shown)) ∧
      (x.p.gate.isSome → t.out = Out.none ∧ t.host = s.host ∧
        s.onlyWrites t fun a => (∀ u ∈ x.p.rowTiles row, a ≠ x.entryByte f.half u 6) ∧ (x.lists = [] ∨ s.offConsumer st 6 a)) ∧
      (∀ r, r ∈ t.chk.records ↔ r ∈ s.chk.records ∧
        ¬ (leNat r 0 2 = st.val ∧ leNat r 4 4 = frame % 2 ^ 32 ∧ leNat r 8 2 ∈ x.p.rowTiles row)) ∧
      (s.clock.running = true → 500 * f.latchBeat row ≤ t.clock.clap) ∧ s.timePassed t ∧ s.onlyRaised t ∧
      (∀ k, k ≠ st.val → t.stream k = s.stream k) ∧
      t = { s with out := t.out, host := t.host, clock := t.clock, mem := t.mem, poison := t.poison, streams := t.streams,
                   chk := { s.chk with records := t.chk.records }, err := { s.err with slots := t.err.slots } }

/-- A DEADLINE frame whose rows are all latched closes: it is counted, its overlay rows and held tensors leave, and nothing
of other streams, gates, ports or the error log changes; one with nothing to report and no ring to free writes its completion entry and
nothing else. A BATCH frame that has its verdicts and fallback tiles completes when its print and completion rings have room: it is
counted, its tiles' fallback records are released, and it leaves the frames in progress (R63, R80, R407, R454). -/
def Obligations.FrameCloses : Prop :=
  ∀ (s : State) (st : Fin 1024) (f : Frame),
    let x := s.stream st
    (∀ frame, s.frame? st frame = some f → x.p.batch = false → f.closed = false → (∀ r < x.p.rows, r ∈ f.latched) →
      completes (.frameClose st frame) s fun t =>
        (t.stream st).count.frames = satAdd x.count.frames 1 (2 ^ 32 - 1) ∧ (∀ h, t.frame? st frame = some h → h.closed = true) ∧
        (∀ r ∈ t.ovl.rows, ¬ (r.stream = st.val ∧ r.frame = frame)) ∧
        (∀ b ∈ t.bench, ¬ (b.tile.stream = st.val ∧ b.tile.frame = frame)) ∧
        (s.clock.running = true → 500 * f.latchBeat (x.p.rows - 1) + 64 ≤ t.clock.clap) ∧ s.timePassed t ∧
        (s.lateCount st f.half = 0 → f.motionLate = 0 → f.passesMax ≤ 1 → f.overlayLate = 0 → s.decisions? st = none →
          x.lists = [] → s.tensorRingsOf st = [] → s.onlyWrites t (s.offPush st 2 128) ∧ t.chk = s.chk ∧
            ((s.ring st 2).entryBytes ≠ 0 → (s.ring st 2).full = false →
              ((s.ring st 2).slotAt (s.ring st 2).producer + 128 ≤ (s.ring st 2).at_ + 16 ∨
                (s.ring st 2).at_ + 28 ≤ (s.ring st 2).slotAt (s.ring st 2).producer) →
              ∃ slate, t.readBytes ((s.ring st 2).slotAt (s.ring st 2).producer) 128 =
                s.completionBytes st f slate (f.start / subTicks))) ∧
        (∀ k, k ≠ st.val → t.stream k = s.stream k) ∧
        t = { s with out := t.out, host := t.host, clock := t.clock, mem := t.mem, poison := t.poison, streams := t.streams,
                     bench := t.bench, pool := t.pool, ovl := t.ovl, chk := t.chk, dev := { s.dev with ring := t.dev.ring } }) ∧
    (∀ pre post, x.frames = pre ++ f :: post → (∀ g ∈ pre, g.closed = true) → f.closed = false → x.p.batch = true →
      x.state ≠ .free → (s.ring st 5).full = false → (s.ring st 2).full = false → s.batchFrameReady st f = true →
      completes (.batchFrameComplete st) s fun t =>
        (t.stream st).count.frames = satAdd x.count.frames 1 (2 ^ 32 - 1) ∧
        (∀ h ∈ (t.stream st).frames, h.closed = false ∨ h.owesSlots = true) ∧
        (∀ r ∈ t.chk.records, r ∈ s.chk.records ∧
          ¬ (leNat r 0 2 = st.val ∧ leNat r 4 4 = f.index % 2 ^ 32 ∧ leNat r 8 2 < x.p.tileCount)) ∧
        (∀ k, k ≠ st.val → t.stream k = s.stream k) ∧
        t = { s with out := t.out, host := t.host, mem := t.mem, poison := t.poison, streams := t.streams,
                     bench := t.bench, pool := t.pool, chk := t.chk, dev := { s.dev with ring := t.dev.ring } })

/-- A tile without its final output after its due beat is late: it gets no further unit, byte 4 of its map entry is 1 and TILES_LATE
counts it; no other byte of memory changes (R63). An accepted verdict makes the generated tile the source no earlier than tick 64 of
the beat of its record, unless the tile is late by then; the premise says that the firewall passes the write (R486). A downgrade notice
takes its stream to PASSTHROUGH (R68, R281, R410, R413). -/
def Obligations.LateTilesAndVerdicts : Prop :=
  (∀ (s : State) (st : Fin 1024) (frame tile : Nat) (f : Frame) (w : TileWork) (r : LoadedReel),
    s.frame? st frame = some f → f.tiles[tile]? = some w → s.reel? (s.stream st).p.reel = some r →
    let x := s.stream st
    let due := f.dueBeat x.p.overlayBeats (tile / max 1 x.p.columns)
    x.p.batch = false → f.closed = false → w.late = false → w.ended < (s.frameUnitsOf r f).length →
    (∀ k ∈ s.seq.tokens ++ s.seq.received, k.status = 0 → k.finish ≤ s.beatCycle (due + 1) → (⟨st, frame, tile⟩ : TileRef) ∈ k.lost ∨
      ((s.frameUnitsOf r f).length - 1, k.takeId) ∉ w.takes) →
    completes (.dueBeatPassed st frame tile) s fun t =>
      (∃ h, t.frame? st frame = some h ∧ h.tiles[tile]? = some { w with withdrawn := true, late := true } ∧
        (∀ i, i ≠ tile → h.tiles[i]? = f.tiles[i]?)) ∧
      t.mapByte st f.half tile 4 = 1 ∧ (∀ a, a ≠ x.entryByte f.half tile 4 → t.readByte a = s.readByte a) ∧
      (t.stream st).count = { x.count with tilesLate := satAdd x.count.tilesLate 1 (2 ^ 32 - 1) } ∧
      (s.clock.running = true → 500 * (due + 1) ≤ t.clock.clap) ∧ s.timePassed t ∧ (∀ k, k ≠ st.val → t.stream k = s.stream k) ∧
      t = { s with out := Out.none, clock := t.clock, mem := t.mem, poison := t.poison, streams := t.streams }) ∧
  (∀ s : State,
    (∀ (p : PendingSource) (ps : List PendingSource) (f : Frame), s.chk.pendingSource = p :: ps → s.chk.phase = .run →
      s.frame? p.stream p.frame = some f →
      s.passes .continuity (s.mapEntry p.stream f p.tile) (s.mapEntry p.stream f p.tile) = true →
      completes .acceptedSourceWrite s fun t =>
        (s.mapByte p.stream f.half p.tile 4 % 2 = 0 → t.mapByte p.stream f.half p.tile 0 = 1) ∧
        (s.mapByte p.stream f.half p.tile 4 % 2 = 1 → t.mem = s.mem) ∧
        (∀ a, a ≠ (s.stream p.stream).entryByte f.half p.tile 0 → t.readByte a = s.readByte a) ∧
        t.chk = { s.chk with pendingSource := ps } ∧
        (s.clock.running = true → 500 * p.beat + 64 ≤ t.clock.clap) ∧ s.timePassed t ∧
        t = { s with out := Out.none, clock := t.clock, mem := t.mem, poison := t.poison, chk := t.chk }) ∧
    (∀ n ns, s.chk.notices = n :: ns → s.firmwareUp = true → n.1 < 1024 → completes .downgradeNotice s fun t =>
        t.chk = { s.chk with notices := ns } ∧
        ((s.stream n.1).state ≠ .free → t.stream n.1 = { s.stream n.1 with downgraded := true }) ∧
        ((s.stream n.1).state = .free → t.streams = s.streams) ∧ (∀ k, k ≠ n.1 → t.stream k = s.stream k) ∧
        t = { s with out := Out.none, streams := t.streams, chk := t.chk }))

/-! ## Scrubbing, repair, moves, patrol -/

/-- The repair window of a dailies beat takes 64 cycles and steps the scrub row. A marked row of a bench or stage bank is repaired in it,
one of another bank in idle time, each with the lowest spare row left (log 151, the model's choice); the words of a row that was marked
for an uncorrectable error are poisoned, at the row's address (log 36, DEDUCED). Without a spare row left the bank's block is to be taken
out at the next frame start, by a spare where one is free, and a stage bank withdrawn (R251, R252, R494). DRAM patrol: a corrected error
is counted against its page; an uncorrectable one poisons its sector and is reported in the slot of its stack, and a page with nothing on
it leaves the pool at once (R253 to R255). -/
def Obligations.RowsAndPagesRepaired : Prop :=
  (∀ s : State,
    (s.clock.running = true → s.arr.running = none → s.arr.repaired ≠ some (s.beat / 512 * 512) →
      (∀ m ∈ s.units.marks, m.marked = true → onArrays m.bank = false) → completes (.repairWindow []) s fun t =>
        t.arr = { s.arr with repaired := some (s.beat / 512 * 512), lastEnd := s.startCycle + 64 } ∧
        t.units = { s.units with scrubNext := (s.units.scrubNext + 1) % 256 } ∧ s.startCycle + 64 ≤ t.cycle ∧
        s.timePassed t ∧ t = { s with out := Out.none, clock := t.clock, arr := t.arr, units := t.units }) ∧
    (∀ m : RowMark, s.clock.running = true → s.arr.running = none → s.arr.repaired ≠ some (s.beat / 512 * 512) → m ∈ s.units.marks →
      m.marked = true → onArrays m.bank = true → (∀ y ∈ s.units.marks, y.marked = true → onArrays y.bank = true → y = m) →
      (∀ k, s.freeRow m.bank = some k → completes (.repairWindow []) s fun t =>
        t.units = { s.units with repairs := s.units.repairs ++ [⟨m.bank, k, m.row⟩], scrubNext := (s.units.scrubNext + 1) % 256,
                                 marks := s.units.marks.filter fun y => !(y.bank == m.bank && y.row == m.row) } ∧
        (m.uncorrectable = true → t.poisonedAt (rowAddress m.bank m.row) 1024 = true) ∧
        (m.uncorrectable = false → t.poison = s.poison) ∧ s.timePassed t ∧
        t = { s with out := Out.none, clock := t.clock, arr := t.arr, units := t.units, poison := t.poison, flash := t.flash }) ∧
      (∀ b k sp rest, m.bank = .bench b k → s.freeRow m.bank = none → s.slotHeld (.block b.val) = false → (s.block b.val).retired = false →
        s.mappedBlock b.val = true → s.spares = sp :: rest → completes (.repairWindow []) s fun t =>
          t.units = { s.units with substs := s.units.substs ++ [⟨b.val, some sp, true⟩], scrubNext := (s.units.scrubNext + 1) % 256 } ∧
          t.slotHeld (.block b.val) = true ∧ (∃ e ∈ t.err.log, e.cause = causeCode .benchRowsExhausted ∧ e.unit = b.val ∧ e.action = 2) ∧
          t.poison = s.poison) ∧
      (∀ r k, m.bank = .stage r k → s.freeRow m.bank = none → s.regionFree r.val → (r.val, k.val) ∉ s.units.stagePending →
        (r.val, k.val) ∉ s.units.stageOut → completes (.repairWindow []) s fun t =>
          t.units = { s.units with stagePending := s.units.stagePending ++ [(r.val, k.val)],
                                   scrubNext := (s.units.scrubNext + 1) % 256 } ∧
          t.slotHeld (.region r.val) = true ∧ (∃ e ∈ t.err.log, e.cause = causeCode .stageRowsExhausted ∧ e.unit = r.val) ∧
          t.poison = s.poison)) ∧
    (∀ (pre : List RowMark) (m : RowMark) (post : List RowMark), s.units.marks = pre ++ m :: post → m.marked = true →
      (∀ y ∈ pre, y.bank = m.bank → y.marked = false) → onArrays m.bank = false → s.chipInReset = false → completes (.idleTimeRepair ⟨m.bank, []⟩) s fun t =>
        (∀ k, s.freeRow m.bank = some k →
          t.units = { s.units with repairs := s.units.repairs ++ [⟨m.bank, k, m.row⟩],
                                   marks := s.units.marks.filter fun y => !(y.bank == m.bank && y.row == m.row) } ∧
          (m.uncorrectable = true → t.poisonedAt (rowAddress m.bank m.row) 1024 = true)) ∧
        (m.uncorrectable = false ∨ s.freeRow m.bank = none → t.poison = s.poison) ∧
        (s.freeRow m.bank = none → t.units = s.units) ∧
        t = { s with out := Out.none, units := t.units, poison := t.poison })) ∧
  (∀ (s : State) (k : Fin 4) (a : Nat), k.val < Config.stackCount s.fuses.grade → a < Config.dramEnd s.fuses.grade →
    stackOf s.fuses.grade a = k.val → s.chipInReset = false →
    (((s.pool.pageErrors.filter fun e => e.1 == pageOf a && decide (s.beat < e.2 + dayBeats)).length < 15) →
      completes (.dramPatrol k (.corrected a)) s fun t =>
        (pageOf a, s.beat) ∈ t.pool.pageErrors ∧ t.pool = { s.pool with pageErrors := t.pool.pageErrors } ∧
        t = { s with out := Out.none, pool := t.pool }) ∧
    (s.pageKnown (pageOf a) = false → s.pageAllocs (pageOf a) = [] → pageOf a < Config.firmwareBase s.fuses.grade →
      s.pool.retired.length < 512 → s.pool.candidates = [] → s.mbox.deferred = [] → s.regionFree (14 + k.val) →
      completes (.dramPatrol k (.uncorrectable a)) s fun t =>
        t.pool = { s.pool with retired := s.pool.retired ++ [pageOf a] } ∧ unitBase a ∈ t.poison ∧
        t.slotHeld (.region (14 + k.val)) = true ∧ (∃ e ∈ t.err.log, e.cause = 0x300B ∧ e.unit = 14 + k.val) ∧
        t = { s with out := t.out, host := t.host, pool := t.pool, poison := t.poison, flash := t.flash, err := t.err,
                     free := t.free }))

/-- A dolly move that the firewall allows and that need not wait writes what its form says and no other byte: a fill its pattern, a strided
copy or a multicast into the stages each run's source, an expansion the lines of its segment, a block-coded move the tile's blocks or its
pixels, from sources without poison. What it writes into a bench is what takes read there. One that met an error response poisons its
destination and ends with an error status. The completion of a copy that brings a take parts of its image is also its fill acknowledgement,
once every block it runs on has what it needs, with the error status. One that must wait, behind an earlier move of its engine, for an
operation tag or for a bank that the running take owns, is held, and nothing is written. A denied write writes nothing, a denied read poisons
the destination, and each is an access violation of CONTROL with an error status (R18, R31, R35, R121, R228, R243, R253, R486; the order of
the banks in a multicast is log 119). -/
def Obligations.DollyMoveEnds : Prop :=
  ∀ (s : State) (e : Fin 16), s.err.halted = false → s.chipInReset = false →
    let free (m : Move) : Prop := ∀ why bad, s.moveWaits ⟨e, m, why, bad⟩ = false
    let mayWrite (ws : List (Nat × Nat)) : Prop := ∀ r ∈ ws, s.allows (.dolly e) true r.1 r.2 = true
    let mayRead (rs : List (Nat × Nat)) : Prop := ∀ r ∈ rs, s.allows (.dolly e) false r.1 r.2 = true
    let clear (a n b m : Nat) : Prop := a + n ≤ b ∨ b + m ≤ a
    let frame (t : State) : Prop := t.arr = { s.arr with running := t.arr.running } ∧
      t = { s with out := t.out, mem := t.mem, poison := t.poison, bench := t.bench, arr := t.arr }
    -- the runs of a move: source, destination, length
    let copied (rs : List (Nat × Nat × Nat)) (t : State) : Prop := t.out = Out.none ∧ frame t ∧ t.poison = [] ∧
      (∀ r ∈ rs, ∀ i < r.2.2, t.readByte (r.2.1 + i) = s.readByte (r.1 + i)) ∧
      (∀ a, (∀ r ∈ rs, a < r.2.1 ∨ r.2.1 + r.2.2 ≤ a) → t.readByte a = s.readByte a)
    let apart (rs : List (Nat × Nat × Nat)) : Prop :=
      rs.Pairwise fun x y => clear x.2.1 x.2.2 y.2.1 y.2.2 ∧ clear x.2.1 x.2.2 y.1 y.2.2
    let placed (a : Nat) (bs : List Byte) (t : State) : Prop := t.out = Out.none ∧ frame t ∧ t.poison = [] ∧
      t.readBytes a bs.length = bs ∧ (∀ b, b < a ∨ a + bs.length ≤ b → t.readByte b = s.readByte b)
    let violated (t : State) : Prop := t.out.errorResponse = true ∧ t.mem = s.mem ∧ t.arr = s.arr ∧
      t.slotHeld (.region 18) = true ∧ ∃ x ∈ t.err.log, x.cause = 0x3008 ∧ x.unit = 18
    (∀ dst len pat bad why, dst % 32 = 0 → len % 32 = 0 → 0 < len → pat.length = 32 →
      let m := Move.fill dst len pat
      (s.moveWaits ⟨e, m, why, bad⟩ = true → completes (.dollyMoveComplete e m why bad) s fun t =>
        t.arr = { s.arr with held := s.arr.held ++ [⟨e, m, why, bad⟩] } ∧ s.tags <+: t.tags ∧
        t = { s with out := Out.none, arr := t.arr, tags := t.tags }) ∧
      (free m → mayWrite [(dst, len)] → (why = .other ∨ ∃ id, why = .fillAck id) → completes (.dollyMoveComplete e m why bad) s fun t =>
        (∀ i < len, t.readByte (dst + i) = pat[i % 32]?.getD 0) ∧ (∀ a, a < dst ∨ dst + len ≤ a → t.readByte a = s.readByte a) ∧
        (bad = true → t.poisonedAt dst len = true) ∧ (bad = false → ∀ u ∈ t.poison, u ∈ s.poison) ∧
        t.out = { Out.none with errorResponse := bad } ∧ frame t ∧
        t.bench = s.bench.map fun h => h.overwritten dst ((List.range (len / 32)).flatMap fun _ => pat)) ∧
      (free m → s.regionFree 18 → s.allows (.dolly e) true dst len = false → completes (.dollyMoveComplete e m .other false) s fun t =>
        violated t ∧ t.poison = s.poison ∧ t.bench = s.bench)) ∧
    (∀ src dst len dims, src % 32 = 0 → dst % 32 = 0 → len % 32 = 0 →
      let m := Move.copy src dst len dims
      let rs := (strideRuns src dst dims).map fun r => (r.1, r.2, len)
      (m.aligned = true → free m → mayRead (s.moveRanges m).1 → mayWrite (s.moveRanges m).2 → s.poison = [] → apart rs →
        completes (.dollyMoveComplete e m .other false) s (copied rs)) ∧
      (dims = [] → 0 < len → free m → s.regionFree 18 → s.allows (.dolly e) true dst len = true → s.allows (.dolly e) false src len = false →
        completes (.dollyMoveComplete e m .other false) s fun t => violated t ∧ t.poisonedAt dst len = true) ∧
      (∀ id en r st bad, s.seq.known.find? (fun x => x.takeId == id) = some en → s.reel? en.reel = some r → s.stepOf en = some st →
        m.aligned = true → free m → mayRead (s.moveRanges m).1 → mayWrite (s.moveRanges m).2 → s.poison = [] → s.imageFed en r m ≠ [] →
        completes (.dollyMoveComplete e m (.fillAck id) bad) s fun t =>
          t.arr.fills = s.arr.fills ++ (s.imageFed en r m).map (fun x => (id, x.1, x.2)) ∧
          (∀ a, a ∈ t.arr.acks ↔ a ∈ s.arr.acks ∨ (a = id ∧ ∀ b ∈ s.takeBlocks en r,
            s.imageNeed en r st ≤ ((t.arr.fills.filter fun f => f.1 == id && f.2.1 == b).map (·.2.2)).sum)) ∧
          (∀ a, a ∈ t.arr.tainted ↔ (a = id ∧ bad = true) ∨ a ∈ s.arr.tainted) ∧ t.out = { Out.none with errorResponse := bad })) ∧
    (∀ src off len, let m := Move.multicast src off len
      let rs := ((List.range 9).flatMap fun k => s.stageRuns k off len).map fun r => (src + r.1, r.2.1, r.2.2)
      s.moveKnown m = true → free m → (∀ r ∈ rs, mayRead [(r.1, r.2.2)]) → mayRead [(src, len)] → mayWrite (s.moveRanges m).2 →
      s.poison = [] → apart rs → completes (.dollyMoveComplete e m .other false) s (copied rs)) ∧
    (∀ src dst lines, let m := Move.expand src dst lines
      s.moveKnown m = true → 0 < lines → lines ≤ 256 → free m → mayRead [(src, segmentSlot)] → mayWrite [(dst, 32 * lines)] →
      s.poison = [] → completes (.dollyMoveComplete e m .other false) s
        (placed dst (unpackSegment lines (s.readBytes src segmentSlot)))) ∧
    (∀ src base total u c, let m := Move.encode src base total u 1 c
      let px := pixelsIn (bppOf c) (s.readBytes src (8192 * bppOf c))
      m.aligned = true → free m → mayRead [(src, 8192 * bppOf c)] → mayWrite (storeRanges base total (bppOf c) u) → s.poison = [] →
      completes (.dollyMoveComplete e m .other false) s fun t =>
        (∀ i < 128, let x := encodeBlock c (bppOf c) (blockOfTile px i)
          t.readByte (headerAt base u + i) = x.1 ∧
          t.readBytes (tileSlotAt base total (bppOf c) u + i * 64 * bppOf c) x.2.length = x.2) ∧
        (∀ a, (∀ r ∈ storeRanges base total (bppOf c) u, a < r.1 ∨ r.1 + r.2 ≤ a) → t.readByte a = s.readByte a) ∧
        t = { s with out := Out.none, mem := t.mem }) ∧
    (∀ base total u dst c, let m := Move.decode base total u 1 dst c
      m.aligned = true → free m → mayRead (storeRanges base total (bppOf c) u) → mayWrite [(dst, 8192 * bppOf c)] → s.poison = [] →
      completes (.dollyMoveComplete e m .other false) s (placed dst (pixelBytes (bppOf c) (s.readTile base total c u))))

/-! ## Errors -/

/-- An error whose slot is free is held there, logged with its cause's code, level and action, and sets the level's bit of
ERR_STATUS; one whose cause has a response of its own is held and logged so too; CONTROL_WATCHDOG, FIRMWARE_UNCORRECTABLE and CLAPPER_FAULT
halt the chip, BOOT_IMAGE_INVALID, whose action is 9 also, stops it in fw_phase 4 (R479, R488, R489, R491). A second error of a region's slot
is nested: it is logged with the nested bit and moves one level up, where it halts the chip. The command names the address of the error or
none. At an address of an SRAM an uncorrectable error poisons the word and marks its row; in DRAM it poisons the sector, and its page, where
nothing stands on it, leaves the pool, or else becomes a candidate; rows that are used up withdraw their stage bank at the next frame start
(R250, R252, R254, R255). That without an address nothing is poisoned, marked or retired is log 56, the model's choice. -/
def Obligations.ErrorEntersSlot : Prop :=
  (∀ (s : State) (c : Cause) (u : Nat) (st : Option (Fin 1024)) (slot : Slot), causeSlot c u = some slot → s.causeUnitOk c u = true →
    s.slotHeld slot = false → s.chipInReset = false → s.testTakes c u = false →
    (c ∈ [Cause.residue, .joinResidue, .transformSumcheck, .benchUncorrectable, .stageUncorrectable, .stageRowsExhausted, .accessViolation,
          .dramUncorrectable, .sramUncorrectable, .bootFallback] → completes (.errorDetect c ⟨u, none⟩ st) s fun t =>
        t.slotHeld slot = true ∧ t.err.status = s.err.status ||| levelBit slot ∧
        (∃ e, t.err.log = (e :: s.err.log).take 4096 ∧ e.cause = causeCode c ∧ e.level = slotLevel slot ∧ e.unit = slotUnit slot ∧
          e.nested = false ∧ e.action = causeAction c ∧ e.stream = (st.map (·.val)).getD 0xFFFF) ∧
        t = { s with out := t.out, host := t.host, err := t.err, free := t.free }) ∧
    (c ∈ [Cause.blockTestFail, .benchRowsExhausted, .motionFault, .overlayFault, .lineBufferUncorrectable, .spliceHopLimit,
          .fabricIntegrity, .tagTimeout] → completes (.errorDetect c ⟨u, none⟩ st) s fun t =>
        t.slotHeld slot = true ∧ (∃ e ∈ t.err.log, e.cause = causeCode c ∧ e.level = slotLevel slot ∧ e.unit = slotUnit slot ∧
          e.nested = false) ∧ t.ports = s.ports ∧ t.reels = s.reels ∧ t.tensors = s.tensors) ∧
    (c ∈ [Cause.controlWatchdog, .firmwareUncorrectable, .clapperFault] → s.err.halted = false →
      completes (.errorDetect c ⟨u, none⟩ st) s fun t =>
        t.err.halted = true ∧ t.dev.fwPhase = 4 ∧ t.chk.safe = true ∧ t.streams = s.streams ∧ t.ports = s.ports) ∧
    (c = .bootImageInvalid → completes (.errorDetect c ⟨u, none⟩ st) s fun t =>
        t.slotHeld .chip = true ∧ t.dev.fwPhase = 4 ∧ t.fw.noImage = true ∧ t.err.halted = s.err.halted ∧ t.chk = s.chk ∧ t.flash = s.flash ∧
        (∃ e, t.err.log = (e :: s.err.log).take 4096 ∧ e.cause = causeCode c ∧ e.level = 3 ∧ e.action = 9))) ∧
  (∀ (s : State) (st : Option (Fin 1024)) (a : Nat), s.chipInReset = false →
    (∀ (b : BankId) (row : Nat) (c : Cause) (u : Nat) (slot : Slot), bankAt a = some (b, row) →
      (c, u) = (match b with
        | .bench k _ => (Cause.benchUncorrectable, k.val)
        | .stage r _ => (.stageUncorrectable, r.val)
        | .motion _ => (.sramUncorrectable, 9)
        | .lineBuffer g _ => (.lineBufferUncorrectable, g.val)
        | .control _ => (.sramUncorrectable, 18)) → causeSlot c u = some slot → s.slotHeld slot = false → s.testTakes c u = false →
      completes (.errorDetect c ⟨u, some a⟩ st) s fun t =>
        unitBase a ∈ t.poison ∧ (∀ p ∈ s.poison, p ∈ t.poison) ∧ t.mem = s.mem ∧
        (∃ m ∈ t.units.marks, m.bank = b ∧ m.row = row ∧ m.uncorrectable = true ∧ m.marked = true) ∧
        (∀ m ∈ s.units.marks, ¬ (m.bank = b ∧ m.row = row) → m ∈ t.units.marks) ∧ t.slotHeld slot = true ∧
        (∃ e ∈ t.err.log, e.cause = causeCode c ∧ e.level = slotLevel slot ∧ e.unit = slotUnit slot ∧ e.nested = false)) ∧
    (∀ u : Nat, u < Config.stackCount s.fuses.grade → a < Config.dramEnd s.fuses.grade → stackOf s.fuses.grade a = u → s.regionFree (14 + u) →
      pageOf a < Config.firmwareBase s.fuses.grade → s.pageKnown (pageOf a) = false → s.pool.retired.length < 512 →
      let entered (t : State) : Prop := unitBase a ∈ t.poison ∧ t.slotHeld (.region (14 + u)) = true ∧
        ∃ e ∈ t.err.log, e.cause = causeCode .dramUncorrectable ∧ e.unit = 14 + u ∧ e.nested = false
      (s.pageAllocs (pageOf a) = [] → s.pool.candidates = [] → s.mbox.deferred = [] →
        completes (.errorDetect .dramUncorrectable ⟨u, some a⟩ st) s fun t => entered t ∧
          t.pool = { s.pool with retired := s.pool.retired ++ [pageOf a] }) ∧
      (s.pageAllocs (pageOf a) ≠ [] → (∀ i ∈ s.pageUsers (pageOf a), (s.stream i).p.batch = false) →
        completes (.errorDetect .dramUncorrectable ⟨u, some a⟩ st) s fun t => entered t ∧ t.pool = { s.pool with
          candidates := s.pool.candidates ++ [⟨pageOf a, (s.pageAllocs (pageOf a)).any fun x => keptOwner x.owner, []⟩] } ∧
          t.mem = s.mem ∧ t.streams = s.streams)) ∧
    (∀ (r : Fin 9) (k : Fin 24) (row : Nat), bankAt a = some (.stage r k, row) → s.regionFree r.val →
      (r.val, k.val) ∉ s.units.stagePending → (r.val, k.val) ∉ s.units.stageOut →
      completes (.errorDetect .stageRowsExhausted ⟨r.val, some a⟩ st) s fun t => t.slotHeld (.region r.val) = true ∧
        t.units = { s.units with stagePending := s.units.stagePending ++ [(r.val, k.val)] } ∧ t.poison = s.poison)) ∧
  (∀ (s : State) (c : Cause) (st : Option (Fin 1024)) (addr : Option Nat), c ∈ [Cause.fallbackRecordCrc, .sheetLate, .dailiesMismatch] →
    s.chipInReset = false →
    ∀ k, causeSlot c 0 = some (.region k) →
      (s.regionFree k → completes (.errorDetect c ⟨0, addr⟩ st) s fun t =>
        t.slotHeld (.region k) = true ∧ t.err.status = s.err.status ||| 4 ∧
        (∃ e, t.err.log = (e :: s.err.log).take 4096 ∧ e.cause = causeCode c ∧ e.level = 2 ∧ e.unit = k ∧ e.nested = false ∧
          e.action = causeAction c ∧ e.beat = s.stampIn (unitIsland 2 k) / 500 ∧ e.stream = (st.map (·.val)).getD 0xFFFF) ∧
        t.err.nextSeq = (s.err.nextSeq + 1) % 2 ^ 32 ∧
        t = { s with out := t.out, host := t.host, err := t.err, free := t.free }) ∧
      (s.slotHeld (.region k) = true → s.slotHeld .chip = false → completes (.errorDetect c ⟨0, addr⟩ st) s fun t =>
        t.slotHeld .chip = true ∧ t.err.halted = true ∧ t.dev.fwPhase = 4 ∧ t.chk.safe = true ∧
        t.err.status.getLsbD 4 = true ∧ t.err.status.getLsbD 3 = true ∧
        (∃ e ∈ t.err.log, e.nested = true ∧ e.cause = causeCode c ∧ e.level = 2 ∧ e.unit = k) ∧
        (∃ e ∈ t.err.log, e.fatal = true ∧ e.level = 3 ∧ e.action = 9) ∧ t.streams = s.streams ∧ t.gates = s.gates))

/-- A watchdog left unserved for 4 beats halts a chip that is not held in reset: fw_phase 4, SAFE_STATE with chip_fatal, and nothing new
runs (R488, R491). A tag held for 1,000 beats is reclaimed and its requester gets an error response, where no packet or write waits for a
tag: a move of a dolly engine that waits ends with an error status. -/
def Obligations.WatchdogsAct : Prop :=
  ∀ s : State,
    (∀ core : Fin 8, s.err.halted = false → s.slotHeld .chip = false → s.chipInReset = false → completes (.controlWatchdog core) s fun t =>
      t.err.halted = true ∧ t.dev.fwPhase = 4 ∧ t.chk.safe = true ∧ t.chk.cause.getLsbD 5 = true ∧
      t.motion.stopped = true ∧ t.ovl.stopped = true ∧ t.firmwareUp = false ∧
      (∃ e ∈ t.err.log, e.cause = 0x4003 ∧ e.level = 3 ∧ e.fatal = true) ∧
      (s.clock.running = true → 500 * (s.fw.served[core.val] + 4) ≤ t.clock.clap) ∧ s.timePassed t ∧
      t.streams = s.streams ∧ t.gates = s.gates ∧ t.ports = s.ports ∧ t.seq = s.seq ∧ t.arr = s.arr ∧ t.reels = s.reels) ∧
    (∀ (tag : Fin 16384) (h : TagHold), s.tags.find? (fun x => x.tag == tag.val) = some h →
      s.nothingWaits → s.slotHeld .chip = false → completes (.tagTimeout tag) s fun t =>
        (∀ k, k ∈ t.tags ↔ k ∈ s.tags ∧ k.tag ≠ tag.val) ∧ t.out.errorResponse = true ∧ t.slotHeld .chip = true ∧
        (∃ e ∈ t.err.log, e.cause = 0x4002 ∧ e.level = 3) ∧ t.err.halted = s.err.halted ∧
        (s.clock.running = true → h.since + 500_000 ≤ t.clock.clap) ∧ s.timePassed t ∧
        (∀ e, h.who = .dolly e → (∀ f ∈ s.set.inFlight, f.tag ≠ tag.val) → t.ports = s.ports ∧ ∀ m ∈ t.arr.held, m.engine = e → m.failed = true) ∧
        ((∀ e, h.who ≠ .dolly e) → t.arr = s.arr) ∧
        t = { s with out := t.out, host := t.host, clock := t.clock, tags := t.tags, arr := { s.arr with held := t.arr.held },
                     set := { s.set with inFlight := s.set.inFlight.filter fun f => !(f.1 == tag.val), answers := t.set.answers,
                                         fetched := t.set.fetched, lastPort := t.set.lastPort },
                     ports := t.ports, err := t.err, free := t.free }) ∧
    (∀ tag : Fin 16384, (∀ h ∈ s.tags, h.tag ≠ tag.val) → exec (.tagTimeout tag) s = .next { s with out := Out.none })

/-! ## The continuity checker -/

/-- The checker judges the generated record at the head of its crossing: reject_reason goes into byte 3 of the tile's map entry, byte 2
takes verdict and accepted, no other byte of memory changes; an accepted tile waits for its source, a rejected one is counted where its
reason is a disagreement; the premise says that the firewall passes the write (R486). A tile that has its verdict keeps it, and the
discarded record is an entry of the checker's log (R409 to R411; that it posts no event is log 98, the model's choice). Outside phase RUN
the record is only taken off. -/
def Obligations.GeneratedTileJudged : Prop :=
  ∀ (s : State) (rec_ : List Byte) (rest : List (List Byte × Bool)), s.chk.fromArray = (rec_, false) :: rest →
    (s.chk.phase ≠ .run → exec .generatedRecord s = .next { s with out := Out.none, chk := { s.chk with fromArray := rest } }) ∧
    (∀ (d : Decisions) (f : Frame), s.chk.phase = .run → s.decisions? (leNat rec_ 0 2) = some d → s.recordFrame rec_ = some f →
      f.kind.reelRun = true → leNat rec_ 8 2 < f.tiles.length →
      let st := leNat rec_ 0 2
      let u := leNat rec_ 8 2
      let why := rejectReason d (bitN (f.kind == .computed)) rec_ (s.chk.records.find? (sameTile rec_))
      (s.mapByte st f.half u 2 % 2 = 1 → completes .generatedRecord s fun t =>
        (∃ e : CheckerLog, t.chk = { s.chk with fromArray := rest, log := (e :: s.chk.log).take 1024 } ∧ e.stream = st ∧
          e.frame = f.index % 2 ^ 32) ∧
        t = { s with out := Out.none, chk := t.chk, free := s.free + 1 }) ∧
      (s.mapByte st f.half u 2 % 2 = 0 → s.passes .continuity (s.mapEntry st f u) (s.mapEntry st f u) = true →
        completes .generatedRecord s fun t =>
        t.mapByte st f.half u 2 = (if why = 0 then 3 else 1) ∧ t.mapByte st f.half u 3 = why ∧
        (∀ a, a ≠ (s.stream st).entryByte f.half u 2 → a ≠ (s.stream st).entryByte f.half u 3 → t.readByte a = s.readByte a) ∧
        t.chk.pendingSource = s.chk.pendingSource ++ (if why = 0 then [⟨st, f.index, u, s.beat⟩] else []) ∧
        (t.stream st).count = { (s.stream st).count with
          tilesRejected := if reasonCounts why then satAdd (s.stream st).count.tilesRejected 1 (2 ^ 32 - 1)
            else (s.stream st).count.tilesRejected } ∧
        t.chk.records = s.chk.records.filter (fun r => !sameTile rec_ r) ∧
        t.chk.rejects = (if reasonCounts why then satAdd s.chk.rejects 1 (2 ^ 32 - 1) else s.chk.rejects) ∧
        t.chk.fromArray = rest ∧ t.chk.safe = s.chk.safe ∧ t.chk.phase = .run ∧ (∀ k, k ≠ st → t.stream k = s.stream k) ∧
        t = { s with out := Out.none, mem := t.mem, poison := t.poison, streams := t.streams, chk := t.chk }))

/-- Records of the fabric crossing: each frees its slot, which a packet that waits may take, and outside phase RUN nothing else. In
phase RUN an intact fallback record of a tile not yet latched is kept while its class has a slot, one with a wrong CRC is
dropped and reported; a store record of a safety-relevant stream is kept, and those of other streams stay (R407, R418). A region record:
a failed check is a REGION_FAULT of its frame, logged and counted once; a history that trips asserts SAFE_STATE where the stream has a
tolerance table; a record that passes changes only the history (R400, R416). -/
def Obligations.FabricCrossingChecked : Prop :=
  (∀ (s : State) (rec_ : List Byte) (reserved : Bool) (rest : List (List Byte × Nat × Bool)),
    let left := s.dropFabric.chk
    (∀ kind, s.chk.fromFabric = (rec_, kind, reserved) :: rest →
      rest <+: left.fromFabric ∧ (s.chk.fabricWait = [] → left = { s.chk with fromFabric := rest }) ∧
      left = { s.chk with fromFabric := left.fromFabric, fabricWait := left.fabricWait, fabricTurn := left.fabricTurn } ∧
      (s.chk.phase ≠ .run → ∀ c, (kind, c) ∈ [(0, Instr.fallbackRecord), (1, .regionRecord), (2, .storeRecord)] →
        exec c s = .next { s with out := Out.none, chk := left })) ∧
    (s.chk.phase = .run → s.chk.fromFabric = (rec_, 0, reserved) :: rest → recordIntact rec_ = true →
      (s.decisions? (leNat rec_ 0 2)).isSome → s.recordLate rec_ = false →
      let batch (r : List Byte) : Bool := (s.stream (leNat r 0 2)).p.batch
      ((s.chk.records.filter fun r => !sameTile rec_ r).filter fun r => batch r == batch rec_).length <
        (if batch rec_ then Config.recordSlotsBatch else Config.recordSlotsDeadline) → completes .fallbackRecord s fun t =>
        t.chk = { left with records := (s.chk.records.filter fun r => !sameTile rec_ r) ++ [rec_] } ∧
        t = { s with out := Out.none, chk := t.chk }) ∧
    (s.chk.phase = .run → s.chk.fromFabric = (rec_, 0, reserved) :: rest → recordIntact rec_ = false → s.regionFree 9 →
      completes .fallbackRecord s fun t =>
        t.chk = left ∧ t.slotHeld (.region 9) = true ∧
        (∃ e ∈ t.err.log, e.cause = 0x3005 ∧ e.unit = 9 ∧ e.level = 2) ∧
        t = { s with out := t.out, host := t.host, chk := t.chk, err := t.err, free := t.free }) ∧
    (∀ d : Decisions, s.chk.phase = .run → s.chk.fromFabric = (rec_, 2, reserved) :: rest → recordIntact rec_ = true →
      s.decisions? (leNat rec_ 0 2) = some d → d.safety = true → completes .storeRecord s fun t =>
        (⟨leNat rec_ 0 2, leNat rec_ 4 4, leNat rec_ 8 2, leNat rec_ 2 1, leNat rec_ 0xC 4⟩ : StoreCrc) ∈ t.chk.stores ∧
        (∀ c ∈ s.chk.stores, c.stream ≠ leNat rec_ 0 2 → c ∈ t.chk.stores) ∧
        t.chk = { left with stores := t.chk.stores } ∧ t = { s with out := Out.none, chk := t.chk })) ∧
  (∀ (s : State) (rec_ : List Byte) (reserved : Bool) (rest : List (List Byte × Nat × Bool)) (d : Decisions), s.chk.phase = .run →
    s.chk.fromFabric = (rec_, 1, reserved) :: rest → s.decisions? (leNat rec_ 0 2) = some d →
    let bad := !recordIntact rec_ || leNat rec_ 3 1 ≠ 0 || leNat rec_ 0xC 4 ≠ leNat rec_ 0x10 4
    let hist := (noteFrame (leNat rec_ 4 4) bad d.regionFrames).take 64
    (bad = false → completes .regionRecord s fun t =>
      (∃ e, t.decisions? (leNat rec_ 0 2) = some e ∧ e = { d with regionFrames := hist, regions := hist.map (·.2) }) ∧
      t.chk = { s.dropFabric.chk with streams := t.chk.streams } ∧ t = { s with out := Out.none, chk := t.chk }) ∧
    (bad = true → (∀ f ∈ d.regionFrames, f.1 = leNat rec_ 4 4 → f.2 = false) → completes .regionRecord s fun t =>
      (∃ e, t.decisions? (leNat rec_ 0 2) = some e ∧ e = { d with regionFrames := hist, regions := hist.map (·.2) }) ∧
      t.chk.regionFaults = satAdd s.chk.regionFaults 1 (2 ^ 32 - 1) ∧ t.chk.fromFabric = s.dropFabric.chk.fromFabric ∧
      (∃ e ∈ t.chk.log, e.code = 0x03 ∧ e.stream = leNat rec_ 0 2 ∧ e.frame = leNat rec_ 4 4) ∧
      (d.tolerance.isSome → (historyTrips (hist.map (·.2))).isSome → t.chk.safe = true ∧ t.chk.cause.getLsbD 1 = true) ∧
      (d.tolerance = none ∨ historyTrips (hist.map (·.2)) = none → t.chk.safe = s.chk.safe ∧ t.chk.cause = s.chk.cause) ∧
      (∀ i, (t.stream i).downgraded = (s.stream i).downgraded ∧ (t.stream i).state = (s.stream i).state) ∧ t.err = s.err ∧
      t.gates = s.gates ∧ t.clock = s.clock))

/-- A readback record of a gate that a stream holds: one with a wrong CRC marks the frame, a tile's record of the frame being read back
adds its tile, and a frame-end record of a clean, complete frame closes it without a fault (R419, R420). A dailies record of the
portion in progress: one that matches its expected fingerprint is ticked off; the first that does not is counted, reported in the
CONTINUITY slot and makes the portion a mismatch (R429, R431, R432). -/
def Obligations.ReadbackAndDailiesChecked : Prop :=
  (∀ (s : State) (g : Fin 4) (rec_ : List Byte) (rest : List (List Byte)) (st : Nat) (d : Decisions), s.chk.phase = .run →
    s.chk.fromGate[g.val] = rec_ :: rest → (s.gate g).holder = some st → s.decisions? st = some d →
    let only (t : State) : Prop :=
      t = { s with out := Out.none, chk := { s.chk with fromGate := s.chk.fromGate.set g.val rest, streams := t.chk.streams } } ∧
      ∀ k, k ≠ st → t.decisions? k = s.decisions? k
    (recordIntact rec_ = false → completes (.readbackRecord g) s fun t =>
      t.decisions? st = some { d with rbCount := d.rbCount + 1, rbWorst := 1 } ∧ only t) ∧
    (recordIntact rec_ = true → d.rbFrame = some (leNat rec_ 4 4) → bitOf (leNat rec_ 3 1) 5 = false →
      completes (.readbackRecord g) s fun t =>
        (∃ e : Decisions, t.decisions? st = some e ∧ e.rbTiles = leNat rec_ 8 2 :: d.rbTiles ∧ e.rbCount = d.rbCount + 1 ∧
          e.rbFrame = d.rbFrame ∧ e.readback = d.readback ∧
          (leNat rec_ 8 2 ∈ d.rbTiles → e.rbWorst ≠ 0 ∧ e.rbWorst ≤ 3 ∨ 0 < d.rbWorst)) ∧ only t) ∧
    (recordIntact rec_ = true → d.rbFrame = some (leNat rec_ 4 4) → bitOf (leNat rec_ 3 1) 5 = true →
      (∀ u < (s.stream st).p.tileCount, u ∈ d.rbTiles) → leNat rec_ 0x14 4 = d.rbCount → d.rbWorst = 0 →
      completes (.readbackRecord g) s fun t =>
        t.decisions? st = some { d with rbTiles := [], rbCount := 0, rbWorst := 0, readback := (false :: d.readback).take 64 } ∧
        only t)) ∧
  (∀ (s : State) (rec_ : List Byte) (rest : List (List Byte × Bool)), s.chk.phase = .run →
    s.chk.fromArray = (rec_, true) :: rest → s.dailies.active = true → s.dailies.takesLeft ≠ [] →
    let here (e : Nat × Nat × Nat) : Bool := e.1 == leNat rec_ 4 1 && e.2.1 == leNat rec_ 5 1
    let ok := recordIntact rec_ && leNat rec_ 0 2 == s.dailies.reel && leNat rec_ 2 2 == s.dailies.portion &&
      s.dailies.expected.any fun e => here e && e.2.2 == leNat rec_ 8 8
    (ok = true → completes .dailiesRecord s fun t =>
      t.dailies = { s.dailies with expected := s.dailies.expected.filter fun e => !here e } ∧
      t.chk = { s.chk with fromArray := rest } ∧ t = { s with out := Out.none, dailies := t.dailies, chk := t.chk }) ∧
    (ok = false → s.dailies.mismatch = false → s.dailies.failed = false → s.regionFree 19 →
      completes .dailiesRecord s fun t =>
        t.dailies = { s.dailies with expected := s.dailies.expected.filter fun e => !here e, mismatch := true } ∧
        t.chk.dailiesFails = satAdd s.chk.dailiesFails 1 (2 ^ 32 - 1) ∧ t.chk.fromArray = rest ∧
        t.slotHeld (.region 19) = true ∧ (∃ e ∈ t.err.log, e.cause = 0x300E) ∧ t.reels = s.reels ∧ t.streams = s.streams ∧
        t.chk.safe = s.chk.safe))

/-- CHECKER_START, once firmware has been started and outside fw_phase 4, is step 8 of the boot: it leaves phase ROM, with the records
that came over the same crossing before it judged no more, and releases SAFE_STATE when no other cause stands; before it step 7 applies
the service area and puts the splice ports that it does not retire DOWN. Outside phase ROM it changes nothing but the step of the boot,
and before firmware or in fw_phase 4 nothing. A checker fault, a failed self-test or an uncorrectable error met by the scrub makes phase
FAULT with SAFE_STATE and cause checker_fault; a self-test that gives the two verdicts of R434 changes nothing; the scrub goes on one word
(R23, R402, R403, R434, R475, R478, R499). -/
def Obligations.CheckerPhases : Prop :=
  ∀ s : State,
    (¬ (6 ≤ s.fw.bootStep ∧ s.dev.fwPhase ≠ 4) → exec .checkerStart s = .next { s with out := Out.none }) ∧
    (s.chk.phase ≠ .rom → 6 < s.fw.bootStep → s.dev.fwPhase ≠ 4 →
      exec .checkerStart s = .next { s with out := Out.none, fw := { s.fw with bootStep := max 8 s.fw.bootStep } }) ∧
    (s.chk.phase = .rom → s.fw.bootStep = 6 → s.dev.fwPhase ≠ 4 → s.clock.source = .internal → completes .checkerStart s fun t =>
      t.chk.phase = .run ∧ t.fw.bootStep = 8 ∧
      (∀ p : Fin 6, (s.port p).state = .disabled → (t.port p).state = if (t.port p).retired then .disabled else .down) ∧
      (∀ bs, s.serviceCopy = some bs → (∀ p : Fin 6, (t.port p).retired = bitOf (leNat bs 0x0C 1) p) ∧
        (∀ b < 36, (t.block b).retired = (leNat bs (0x10 + b) 1 == 1)) ∧ ∀ k < 9, (t.engine k).retired = bitOf (leNat bs 0x0A 2) k) ∧
      (s.serviceCopy = none → ∀ p : Fin 6, (t.port p).retired = (s.port p).retired) ∧
      t.streams = s.streams ∧ t.gates = s.gates ∧ t.clock = s.clock) ∧
    (s.chk.phase = .rom → 6 < s.fw.bootStep → s.dev.fwPhase ≠ 4 → completes .checkerStart s fun t =>
      t.chk.phase = .run ∧ t.chk.cause = s.chk.cause &&& ~~~ 0x40 ∧ t.fw = { s.fw with bootStep := max 8 s.fw.bootStep } ∧
      t.chk.fromFabric = [] ∧ t.chk.fabricWait = [] ∧
      ((s.chk.cause &&& ~~~ 0x40).toNat % 64 = 0 → t.chk.safe = false ∧ t.chk.ackSeen = false ∧ t.chk.releasedAt = s.clock.clap) ∧
      ((s.chk.cause &&& ~~~ 0x40).toNat % 64 ≠ 0 → t.chk.safe = s.chk.safe ∧ t.chk.ackSeen = s.chk.ackSeen) ∧
      t.streams = s.streams ∧ t.gates = s.gates ∧ t.err = s.err ∧ t.clock = s.clock ∧ t.chk.streams = s.chk.streams) ∧
    (∀ k : CheckerFaultKind, s.chk.phase ≠ .fault → s.chipInReset = false → completes (.checkerFault k) s fun t =>
      t.chk.phase = .fault ∧ t.chk.safe = true ∧ t.chk.cause.getLsbD 4 = true ∧ t.chk.cause.getLsbD 6 = false ∧ t.chk.faults.getLsbD (faultBit k) = true ∧
      t.slotHeld (.region 19) = true ∧ t.streams = s.streams ∧ t.gates = s.gates ∧ t.clock = s.clock ∧ t.seq = s.seq) ∧
    (∀ good bad, s.chk.phase = .run → s.beat % 512 = 0 →
      exec (.checkerSelfTest 0 4) s = .next { s with out := Out.none } ∧
      (¬ (good = 0 ∧ bad = 4) → exec (.checkerSelfTest good bad) s = exec (.checkerFault .selftest) s)) ∧
    (s.chk.phase ≠ .fault → exec (.checkerScrub false) s = .next { s with
      out := Out.none, chk := { s.chk with scrubAt := (s.chk.scrubAt + 1) % 131072 } }) ∧
    (s.chk.phase ≠ .fault → s.chipInReset = false → completes (.checkerScrub true) s fun t => t.chk.phase = .fault ∧ t.chk.safe = true ∧
      t.streams = s.streams)

/-- SAFE_ACK: an accepted rising edge clears ack_stuck and acknowledges while SAFE_STATE is asserted; 20 ms without an
acknowledgement start blanking, where the chip is not held in reset; SAFE_ACK high for 1 ms while SAFE_STATE is released sets ack_stuck (R422,
R515). -/
def Obligations.SafeAckActs : Prop :=
  ∀ s : State,
    (∀ (x : Input) (e : Edge), x ∈ s.inputs → s.input .safeAck = x → x.pin = .safeAck → 17 ≤ e.samples → e.level = true →
      x.filtered = false →
      ((∀ l, x.lastEdge = some l → l + 20_000 ≤ s.edgeRaw e) → completes (.safeAckEdge e) s fun t =>
        t.chk = { s.chk with ackStuck := false, ackSeen := s.chk.ackSeen || s.chk.safe } ∧ t.level .safeAck = true ∧
        (t.input .safeAck).lastEdge = some (s.edgeRaw e) ∧
        (∀ y ∈ s.inputs, y.pin ≠ .safeAck → y ∈ t.inputs) ∧ t = { s with out := Out.none, inputs := t.inputs, chk := t.chk }) ∧
      (∀ l, x.lastEdge = some l → s.edgeRaw e < l + 20_000 → completes (.safeAckEdge e) s fun t =>
        t.chk = s.chk ∧ t.board = s.board.rateFault .safeAck ∧ t.level .safeAck = s.level .safeAck ∧
        t = { s with out := Out.none, inputs := t.inputs, board := t.board })) ∧
    (s.chk.safe = true → s.chk.ackSeen = false → s.chk.blanking = false → s.chipInReset = false → completes .safeAckTimeout s fun t =>
      t.chk = { s.chk with blanking := true } ∧ (s.clock.running = true → s.chk.assertedAt + 5_000_000 ≤ t.clock.clap) ∧
      s.timePassed t ∧ t = { s with out := Out.none, clock := t.clock, chk := t.chk }) ∧
    (s.chk.safe = false → s.chk.ackStuck = false → s.level .safeAck = true → completes .ackStuck s fun t =>
      t.chk.ackStuck = true ∧ t.chk.safe = false ∧ t.chk.ackSeen = s.chk.ackSeen ∧ t.chk.cause = s.chk.cause ∧
      (∃ e, t.chk.log = (e :: s.chk.log).take 1024 ∧ e.code = 0x0A) ∧
      (s.clock.running = true → s.chk.releasedAt + 250_000 ≤ t.clock.clap ∧
        ∀ l, (s.input .safeAck).lastEdge = some l → s.clapTime l / 8 + 250_000 ≤ t.clock.clap) ∧ s.timePassed t ∧ t.streams = s.streams ∧
      t.gates = s.gates ∧ t.err = s.err)

/-- The SPI target: CHK_RELEASE releases SAFE_STATE exactly when R423 accepts it, CHK_CHALLENGE is answered in phase RUN (R426),
CHK_CAUSE clears its RW1C bits alone. A read returns a dummy byte, the data and their CRC; a write whose CRC is right is the write of its
registers, from the first one up, each with the effect of its command. A transaction with a bad offset or count, and a write with a bad CRC
or fewer words than its count, sets spi_error and changes nothing else, one with an unknown opcode changes nothing; in both CHK_MISO is
driven low (R424). That one too short to have an offset or a count is judged by what it has is log 38, and the target takes no part while
the chip is held in reset (R516). -/
def Obligations.SpiTarget : Prop :=
  ∀ (s : State) (v : Word32),
    (v = 0x5AFE → s.chk.phase = .run → s.chk.ackSeen = true → s.chk.cause.toNat % 64 = 0 → completes (.chkRelease v) s fun t =>
      t.chk.safe = false ∧ t.chk.ackSeen = false ∧ t.chk.blanking = false ∧ t.chk.releasedAt = s.clock.clap ∧
      t.chk.cause = s.chk.cause ∧ t.streams = s.streams ∧ t.gates = s.gates ∧ t.err = s.err) ∧
    (¬ (v = 0x5AFE ∧ s.chk.phase = .run ∧ s.chk.ackSeen = true ∧ s.chk.cause.toNat % 64 = 0) →
      exec (.chkRelease v) s = .next { s with out := Out.none }) ∧
    (s.chk.phase = .run → exec (.chkChallenge v) s = .next { s with
      out := Out.none, chk := { s.chk with challenge := v, response := ~~~ (v.rotateLeft 7) } }) ∧
    (s.chk.phase = .rom → exec (.chkChallenge v) s = .next { s with out := Out.none, chk := { s.chk with challenge := v } }) ∧
    (completes (.chkCauseClear v) s fun t =>
      (∀ i < 32, t.chk.cause.getLsbD i = (s.chk.cause.getLsbD i && !(decide (i < 4 ∨ i = 8) && v.getLsbD i))) ∧
      t = { s with out := Out.none, chk := { s.chk with cause := t.chk.cause } }) ∧
    (∀ bs : List Byte, (bs = [] ∨ s.chipInReset = true) →
      exec (.spiRead bs) s = .next { s with out := Out.none } ∧ exec (.spiWrite bs) s = .next { s with out := Out.none }) ∧
    (∀ u : State, u.out = Out.none →
      exec (.chkCauseClear v) u = .next (u.chkWrite 0x00C v) ∧ exec (.chkRelease v) u = .next (u.chkWrite 0x010 v) ∧
      exec (.chkChallenge v) u = .next (u.chkWrite 0x014 v) ∧
      (u.chk.phase ≠ .fault → u.chkWrite 0x01C v = { u with chk := { u.chk with tolSelect := v &&& 0x3FF } }) ∧
      (∀ o, o ∉ [0x00C, 0x010, 0x014, 0x01C] → u.chkWrite o v = u)) ∧
    (∀ bs : List Byte, bs ≠ [] → s.chipInReset = false →
      let low : State := { s with out := { Out.none with misoLow := true } }
      let refused : State := { low with chk := { s.chk with cause := s.chk.cause ||| 0x100 } }
      (spiBad bs = true → exec (.spiRead bs) s = .next refused ∧ exec (.spiWrite bs) s = .next refused) ∧
      (spiBad bs = false → (leNat bs 0 1 ≠ 0x0B → exec (.spiRead bs) s = .next low) ∧
        (leNat bs 0 1 ≠ 0x02 → exec (.spiWrite bs) s = .next low)) ∧
      (spiBad bs = false → bs.length < 8 + 4 * leNat bs 3 1 → leNat bs 0 1 = 0x02 → exec (.spiWrite bs) s = .next refused) ∧
      (spiBad bs = false → 4 ≤ bs.length → leNat bs 0 1 = 0x0B → completes (.spiRead bs) s fun t =>
        (∃ x, t.out.data = x :: ((List.range (leNat bs 3 1)).flatMap fun i => leBytes 4 (s.chkRead (leNat bs 1 2 + 4 * i))) ++
          leBytes 4 (crc32c ((List.range (leNat bs 3 1)).flatMap fun i => leBytes 4 (s.chkRead (leNat bs 1 2 + 4 * i))))) ∧
        t = { s with out := { Out.none with data := t.out.data }, free := t.free }) ∧
      (∀ n o, spiBad bs = false → leNat bs 0 1 = 0x02 → leNat bs 3 1 = n → bs.length = 8 + 4 * n → leNat bs 1 2 = o →
        (leNat bs (4 + 4 * n) 4 ≠ crc32c (bs.take (4 + 4 * n)) → exec (.spiWrite bs) s = .next refused) ∧
        (leNat bs (4 + 4 * n) 4 = crc32c (bs.take (4 + 4 * n)) → exec (.spiWrite bs) s = .next ((List.range n).foldl (fun u i =>
          u.chkWrite (o + 4 * i) (BitVec.ofNat 32 (leNat bs (4 + 4 * i) 4))) { s with out := Out.none }))) ∧
      (spiBad bs = false → leNat bs 0 1 = 0x02 → leNat bs 3 1 = 1 → bs.length = 12 →
        (leNat bs 8 4 = crc32c (bs.take 8) → BitVec.ofNat 32 (leNat bs 4 4) = v →
          (leNat bs 1 2 = 0x00C → exec (.spiWrite bs) s = exec (.chkCauseClear v) s) ∧
          (leNat bs 1 2 = 0x010 → exec (.spiWrite bs) s = exec (.chkRelease v) s) ∧
          (leNat bs 1 2 = 0x014 → exec (.spiWrite bs) s = exec (.chkChallenge v) s) ∧
          (leNat bs 1 2 = 0x01C → s.chk.phase ≠ .fault → exec (.spiWrite bs) s = .next { s with
            out := Out.none, chk := { s.chk with tolSelect := v &&& 0x3FF } }))))

/-- SAFE_STATE is released by no command but an accepted release, as CHK_RELEASE or in an SPI write, and CHECKER_START; the
first needs phase RUN, an acknowledgement, and neither checker_fault nor chip_fatal (R403, R423). -/
def Obligations.SafeStateReleasedOnly : Prop :=
  ∀ (c : Instr) (s t : State), exec c s = .next t → s.chk.safe = true → t.chk.safe = false →
    (c = .checkerStart ∧ s.chk.phase = .rom) ∨
    ((c = .chkRelease 0x5AFE ∨ ∃ bs, c = .spiWrite bs) ∧ s.chk.phase = .run ∧ s.chk.ackSeen = true ∧
      s.chk.cause.getLsbD 4 = false ∧ s.chk.cause.getLsbD 5 = false)

/-! ## Overlay raster -/

/-- OVERLAY bins the next row of a frame: with no list that applies the row is done at once, with one it ends binned or with a sealed pass
unless earlier rows still hold blocks; a pass is drawn once and the last one ends the row; a row not done at its latch is abandoned and
its touched tiles are counted late. A tile that a pass draws alone holds, block by block, the encoding of its base with the backgrounds of
its regions on its first pass, or of its composite on a later one, after the pass's entries in list order; the record names its base. The
premises say that the firewall passes OVERLAY's accesses (R486). Binning touches of memory only the row's tile records and the stream's
blocks, a pass its records, composites and map bytes, an abandoned pass its records; beside them only OVERLAY's own rows, the frame's
counts and the crossing to the checker change (R322 to R326, R328 to R333). -/
def Obligations.OverlayRows : Prop :=
  ∀ (s : State) (st : Fin 1024) (frame row : Nat) (f : Frame), s.frame? st frame = some f →
    let x := s.stream st
    let outside (a : Nat) : Prop := ∀ u ∈ x.p.rowTiles row, a < x.recordAt f.half u ∨ x.recordAt f.half u + 4 ≤ a
    let offBlocks (a : Nat) : Prop := a < s.blockAddress st 0 ∨ s.blockAddress st x.p.blocks ≤ a
    let base := x.homes.composite.getD f.half 0
    let offTile (u a : Nat) : Prop := (a < headerAt base u ∨ headerAt base u + 128 ≤ a) ∧
      (a < tileSlotAt base x.p.tileCount (bppOf x.p.colour) u ∨ tileSlotAt base x.p.tileCount (bppOf x.p.colour) u + 8192 * bppOf x.p.colour ≤ a)
    let offTiles (a : Nat) : Prop := ∀ u ∈ x.p.rowTiles row, a ≠ x.entryByte f.half u 5 ∧ offTile u a
    let others (t : State) : Prop := ∀ r ∈ s.ovl.rows, ¬ (r.stream = st.val ∧ r.frame = frame ∧ r.row = row) → r ∈ t.ovl.rows
    ((s.advanceTo (500 * f.releaseBeat x.p.overlayBeats x.p.leadRows row)).overlayOpen st f row = true → s.binTurn st f row = true →
      s.rowBins? st frame row = none → s.passes .overlay x.overlayRanges x.overlayRanges = true →
      (x.listFor f = none → completes (.overlayBinRow st frame row) s fun t =>
        t.rowBins? st frame row = some { RowBins.begin st frame row with binned := true, finished := true } ∧ others t ∧ s.timePassed t ∧
        t = { s with out := Out.none, clock := t.clock, ovl := { s.ovl with rows := t.ovl.rows } }) ∧
      (∀ l, x.listFor f = some l → completes (.overlayBinRow st frame row) s fun t =>
        (∃ b, t.rowBins? st frame row = some b ∧ b.failed = false ∧ b.drawn = 0 ∧
          (s.earlierBlocks st frame row = false → b.binned = true ∨ b.sealed.isSome)) ∧ others t ∧
        (∀ a, outside a → offBlocks a → t.readByte a = s.readByte a) ∧ s.timePassed t ∧
        (∀ k, k ≠ st.val → t.stream k = s.stream k) ∧ t.stream st = { x with frames := (t.stream st).frames } ∧
        (∃ h, t.frame? st frame = some h ∧ h = { f with passesMax := h.passesMax }) ∧
        t = { s with out := Out.none, clock := t.clock, mem := t.mem, poison := t.poison, streams := t.streams,
                     ovl := { s.ovl with rows := t.ovl.rows, regionsSent := t.ovl.regionsSent },
                     chk := { s.chk with fromFabric := t.chk.fromFabric, fabricWait := t.chk.fabricWait } })) ∧
    (∀ (r : RowBins) (bins : List (Nat × List Nat)) (l : OverlayList), s.rowBins? st frame row = some r → r.sealed = some bins →
      x.listFor f = some l → r.failed = false →
      (s.advanceTo (500 * (f.dueBeat x.p.overlayBeats row + 2))).overlayOpen st f row = true →
      s.passes .overlay x.overlayRanges (x.overlayRanges ++ x.compositeRanges f row) = true →
      completes (.overlayPass st frame row) s fun t =>
        (∃ b, t.rowBins? st frame row = some b ∧ b.sealed = none ∧ b.drawn = r.drawn + 1 ∧ b.finished = (r.binned || r.finished) ∧
          ∀ u ∈ r.tiles, u ∈ b.tiles) ∧
        (∃ h, t.frame? st frame = some h ∧ h.passesMax = max f.passesMax (r.drawn + 1)) ∧ others t ∧ s.timePassed t ∧
        ((∀ u ∈ r.tiles, u ∈ x.p.rowTiles row) → ∀ a, outside a → offTiles a → t.readByte a = s.readByte a) ∧
        (∀ u, ((x.p.rowTiles row).filter fun k => bins.any (fun b => binTile x.p row b.1 == k) ||
            (r.drawn == 0 && (regionTiles x.p (s.listRegions st l) row).contains k)) = [u] →
          (∀ k ∈ u :: r.tiles, (∀ i < 4, offTile u (x.recordAt f.half k + i)) ∧ offTile u (x.entryByte f.half k 5)) →
          let from_ := (s.sourceOf st f ((s.previousLatched st f).bind fun q => q.tile? u) u).1
          let px := s.drawTile st l (s.listRegions st l) u bins (if u ∈ r.tiles then s.readTile base x.p.tileCount x.p.colour u
            else withBackground x.p (s.listRegions st l) u (s.latchedPixels st from_))
          (∀ i < 128, let e := encodeBlock x.p.colour (bppOf x.p.colour) (blockOfTile px i)
            t.readByte (headerAt base u + i) = e.1 ∧
            t.readBytes (tileSlotAt base x.p.tileCount (bppOf x.p.colour) u + i * 64 * bppOf x.p.colour) e.2.length = e.2) ∧
          (u ∉ r.tiles → r.binned = false → (t.readByte (x.recordAt f.half u)).toNat % 8 = from_.shown % 8)) ∧
        (∀ k, k ≠ st.val → t.stream k = s.stream k) ∧
        t = { s with out := Out.none, clock := t.clock, mem := t.mem, poison := t.poison, streams := t.streams,
                     ovl := { s.ovl with rows := t.ovl.rows, regionsSent := t.ovl.regionsSent },
                     chk := { s.chk with fromFabric := t.chk.fromFabric, fabricWait := t.chk.fabricWait } }) ∧
    (∀ l, x.listFor f = some l → x.p.batch = false → x.p.overlayArea ≠ 0 → f.closed = false → row ∉ f.latched → row < x.p.rows →
      (∀ r, s.rowBins? st frame row = some r → r.finished = false) →
      (s.clock.running = true ∨ 500 * f.latchBeat row ≤ s.clock.clap) → completes (.overlayPassAbandon st frame row) s fun t =>
        (∃ b, t.rowBins? st frame row = some b ∧ b.finished = true ∧ b.binned = true ∧ b.sealed = none ∧ b.tiles = []) ∧
        (∃ h, t.frame? st frame = some h ∧ h.overlayLate = f.overlayLate + (s.touchedTiles st l row).length) ∧ others t ∧
        (∀ a, outside a → t.readByte a = s.readByte a) ∧ 500 * f.latchBeat row ≤ t.clock.clap ∧ s.timePassed t ∧
        (∀ k, k ≠ st.val → t.stream k = s.stream k) ∧
        t = { s with out := Out.none, clock := t.clock, mem := t.mem, poison := t.poison, streams := t.streams,
                     ovl := { s.ovl with rows := t.ovl.rows, regionsSent := t.ovl.regionsSent },
                     chk := { s.chk with fromFabric := t.chk.fromFabric, fabricWait := t.chk.fabricWait } })

/-! ## Output gates -/

/-- PLL lock starts the timing generator at frame 0, one line after the lock, at the nominal clock, and answers the
OUTPUT_CONFIGURE that waits; at each frame start the live fields, blanking and video take effect and the committed clocks move on
by one frame; with DSC the picture parameter set goes ahead of the first video where it has not been sent since the training (R343,
R344, R359, R362, R422); that it goes at the frame start is log 107 (DEDUCED). -/
def Obligations.GateTimingRuns : Prop :=
  ∀ (s : State) (g : Fin 4) (c : GateConfig), (s.gate g).cfg = some c →
    let x := s.gate g
    ((x.locking = true → s.clock.running = true → completes (.gatePllLock g) s fun t =>
      t.gate g = { x with locking := false, runningGen := true, frame := 0, origin := s.copy (gateIsland g.val) * subTicks, lines := 1,
                          clocks := [c.nominal, c.nominal, c.nominal] } ∧
      (∀ k, k ≠ g.val → t.gate k = s.gate k) ∧
      (∀ d ∈ s.mbox.deferred, d.waits = .gateReset g.val → d ∉ t.mbox.deferred ∧
        (d.chan < 16 → t.dev.mboxDone.getLsbD d.chan = true)) ∧
      (∀ d ∈ s.mbox.deferred, d.waits ≠ .gateReset g.val → d ∈ t.mbox.deferred) ∧
      t = { s with gates := t.gates, mbox := t.mbox, dev := t.dev, out := t.out, host := t.host })) ∧
    let sdp : List (Nat × Sdp) :=
      if (x.live.getD c).dsc && x.videoNext && !x.ppsSent then [(g.val, .pps (ppsParams (x.live.getD c)))] else []
    let pps : Bool := x.ppsSent || ((x.live.getD c).dsc && x.videoNext)
    (x.runningGen = true → x.begun = false → completes (.gateFrameStart g) s fun t =>
      t.gate g = { x with cfg := some (x.live.getD c), live := none, blanked := s.blankNow g, linked := x.linked || x.videoNext,
                          videoNext := false, ppsSent := pps, begun := true } ∧
      (∀ k, k ≠ g.val → t.gate k = s.gate k) ∧ (s.clock.running = true → x.startOf c 0 / subTicks ≤ t.clock.clap) ∧ s.timePassed t ∧
      t = { s with out := { Out.none with sdp := sdp }, clock := t.clock, gates := t.gates }) ∧
    (x.runningGen = true → x.begun = true → x.doneSent = true → completes (.gateFrameStart g) s fun t =>
      t.gate g = { x with cfg := some (x.live.getD c), live := none, blanked := s.blankNow g, linked := x.linked || x.videoNext,
                          videoNext := false, ppsSent := pps, frame := x.frame + 1, origin := (x.position c 1).1, lines := (x.position c 1).2,
                          clocks := x.clocks.drop 1 ++ [c.nominal], sobDone := false, doneSent := false, lineMatched := false } ∧
      (∀ k, k ≠ g.val → t.gate k = s.gate k) ∧ (s.clock.running = true → x.startOf c 1 / subTicks ≤ t.clock.clap) ∧ s.timePassed t ∧
      t = { s with out := { Out.none with sdp := sdp }, clock := t.clock, gates := t.gates })

/-- LINE_MATCH, SOB and FRAME_DONE set their bit of GATE_EVENTS, once a frame, where no event that comes before them is due in the same
tick. SOB commits the clock of the second frame after, f_px where genlock is off or has seen fewer than two edges, on a clone the clock
that gate 0 committed last, with gate 0's genlock state; the gate counts the SOBs in a row with an error below one line and a reference
within gen_ppm, and locks with the fourth (log 141, DEDUCED). It sends the secondary data of the blanking on a link that carries video (that
they go at SOB is log 107, that a clone has a generator and a clock of its own log 63, both DEDUCED). FRAME_DONE frees the frame's line
numbering for the next one (R351, R352, R355, R356). -/
def Obligations.GateEventsRaised : Prop :=
  ∀ (s : State) (g : Fin 4) (c : GateConfig), (s.gate g).cfg = some c → (s.gate g).runningGen = true → (s.gate g).begun = true →
    let x := s.gate g
    let frame (sdp : List (Nat × Sdp)) (t : State) : Prop := (∀ k, k ≠ g.val → t.gate k = s.gate k) ∧ s.timePassed t ∧
      s.onlyRaised { t with out := { t.out with sdp := [] } } ∧ t.out.sdp = sdp ∧
      (∀ k, x.holder ≠ some k → t.stream k = s.stream k) ∧ (x.holder = none → c.genlock = false → t.mem = s.mem) ∧
      t = { s with gates := t.gates, clock := t.clock, mem := t.mem, poison := t.poison, streams := t.streams, out := t.out,
                   host := t.host, err := { s.err with slots := t.err.slots }, dev := { s.dev with ring := t.dev.ring } }
    let at_ (y : Nat) : State := s.advanceTo (x.lineStart c 0 y / subTicks)
    (x.lineMatched = false → c.matchLine < c.vTotal → (x.sobDone = true → c.vActive < c.matchLine) → (at_ c.matchLine).readQuiet g →
      completes (.lineMatch g) s fun t =>
        t.gate g = { x with lineMatched := true, events := x.events ||| 1 } ∧
        (s.clock.running = true → x.lineStart c 0 c.matchLine / subTicks ≤ t.clock.clap) ∧ frame [] t) ∧
    (x.sobDone = false → x.genPost = none → (at_ c.vActive).readQuiet g → (at_ c.vActive).matchQuiet g →
      let sent := if x.linked then (blankingSdp c).map fun p => (g.val, p) else []
      (s.cloneMode = true → g.val ≠ 0 → completes (.sob g) s fun t =>
        (t.gate g).sobDone = true ∧ (t.gate g).events.getLsbD 1 = true ∧
        (t.gate g).clocks = x.clocks.take 2 ++ [(s.gate 0).clocks.getD (if (s.gate 0).sobDone then 2 else 1) c.nominal] ∧
        (t.gate g).genState = (s.gate 0).genState ∧ ((t.gate g).genState ≠ x.genState → (t.gate g).events.getLsbD 6 = true) ∧
        (∀ k, k ≠ g.val → t.gate k = s.gate k) ∧ t.err = { s.err with slots := t.err.slots } ∧ t.chk = s.chk) ∧
      (s.cloneMode = false ∨ g.val = 0 → c.genlock = false ∨ x.genEdges.length < 2 → completes (.sob g) s fun t =>
        t.gate g = { x with sobDone := true, clocks := x.clocks.take 2 ++ [c.nominal], genGood := 0, events := x.events ||| 2 } ∧
        (s.clock.running = true → x.lineStart c 0 c.vActive / subTicks ≤ t.clock.clap) ∧ frame sent t) ∧
      (∀ a b es, s.cloneMode = false ∨ g.val = 0 → c.genlock = true → x.genEdges = a :: b :: es → completes (.sob g) s fun t =>
        (t.gate g).sobDone = true ∧ (t.gate g).events.getLsbD 1 = true ∧
        (t.gate g).clocks = x.clocks.take 2 ++
          [steppedClock c (-(x.genError c a b)) (c.ratio * lineTime c.hTotal c.vTotal c.nominal)] ∧
        (t.gate g).genGood = (if (x.genError c a b).natAbs < c.ratio * lineTime c.hTotal 1 c.nominal ∧ c.rateNear (a - b) = true
          then x.genGood + 1 else 0) ∧
        (4 ≤ (t.gate g).genGood → (t.gate g).genState = .locked) ∧
        ((t.gate g).genState = .locked → x.genState = .locked ∨ 4 ≤ (t.gate g).genGood) ∧
        ((t.gate g).genState ≠ x.genState → (t.gate g).events.getLsbD 6 = true) ∧ frame sent t)) ∧
    (x.sobDone = true → x.doneSent = false → c.vActive ≤ x.readLine → s.matchQuiet g →
      (s.chk.fromGate[g.val]).length ≤ (Config.credits (.gateContinuity g)).req →
      completes (.frameDone g) s fun t =>
        t.gate g = { x with doneSent := true, fetchLine := x.fetchLine - c.vActive, readLine := 0, pictureOff := false, filled := 0,
                            readbacks := 0, crcs := [], slice := [], buffer := x.buffer.map (fun b => (b.1 - c.vActive, b.2)),
                            events := x.events ||| 4 } ∧ frame [] t)

/-- A line is fetched ahead into the line buffer, where the gate may send a request, and read out at its time: converted onto the link
where it was fetched, as fill where the picture layer is off, with DSC as what the encoder makes of it and the lines before it in its
slice; a line that is not in the buffer is an underrun, counted, with the rest of the frame fill. A line is read no earlier than at its
read time, and one of the first of a frame fetched no earlier than the time of the lines that may stand ahead before that. The premise of
a fetch says that the firewall passes it (R341, R342, R346, R348, R349, R357, R359, R486). -/
def Obligations.LinesFetchedAndRead : Prop :=
  ∀ (s : State) (g : Fin 4) (c : GateConfig), (s.gate g).lineCfg = some c → (s.gate g).runningGen = true →
    let x := s.gate g
    let y := x.readLine
    (∀ e : Nat × List Nat,
      let k := x.fetchLine / max 1 c.vActive
      let z := x.fetchLine % max 1 c.vActive
      k ≤ 1 → (k = 0 → s.layerOff g = false ∧ z < x.readLine + c.ahead) → (k = 1 → z < c.ahead) →
      s.mayRequest (.gate g) (.gateFabric g) (x.fetchUrgent c) = true →
      s.fetched g c (x.workFrame + k) z = some e → s.passes (.gate g) (s.fetchRanges g c (x.workFrame + k) z) [] = true →
      completes (.lineFetch g) s fun t =>
        t.gate g = { x with buffer := x.buffer ++ [(x.fetchLine, e.1, e.2)], fetchLine := x.fetchLine + 1 } ∧
        (s.clock.running = true → z < c.ahead → let n := bitN x.doneSent + k
          (x.readTime c n z - lineTime c.hTotal c.ahead (x.clockOf c n)) / subTicks ≤ t.clock.clap) ∧
        (∀ i, i ≠ g.val → t.gate i = s.gate i) ∧ s.timePassed t ∧ t = { s with out := Out.none, clock := t.clock, gates := t.gates }) ∧
    (y < c.vActive → c.dsc = true → x.sends = true → ∀ conv : List Nat,
      (s.layerOff g = true ∧ conv = fillLine c ∨ (s.layerOff g = false ∧ ∃ b, x.buffer.find? (fun b => b.1 == y) = some b ∧
        conv = linkLine c b.2.1 b.2.2)) → completes (.lineRead g) s fun t =>
          let past := (if y % max 1 c.dscHeight = 0 then [] else x.slice) ++ conv
          t.out.line = some (g.val, (Config.dscEncode (dscParams c y) past).map (·.toNat)) ∧ (t.gate g).slice = past ∧
          (t.gate g).readLine = y + 1 ∧ (t.gate g).underruns = x.underruns ∧ (∀ i, i ≠ g.val → t.gate i = s.gate i) ∧
          (s.clock.running = true → x.readTime c (bitN x.doneSent) y / subTicks ≤ t.clock.clap) ∧ s.timePassed t) ∧
    (y < c.vActive → s.clock.running = true → completes (.lineRead g) s fun t =>
      x.readTime c (bitN x.doneSent) y / subTicks ≤ t.clock.clap) ∧
    (y < c.vActive → c.dsc = false →
      (s.layerOff g = true → completes (.lineRead g) s fun t =>
        (t.gate g).readLine = y + 1 ∧ t.out.line = (if x.sends then some (g.val, fillLine c) else none) ∧
        (t.gate g).underruns = x.underruns ∧ t.mem = s.mem ∧ (∀ i, i ≠ g.val → t.gate i = s.gate i) ∧ s.timePassed t ∧
        t = { s with out := t.out, clock := t.clock, gates := t.gates, chk := { s.chk with fromGate := t.chk.fromGate } }) ∧
      (∀ b ∈ x.buffer, s.layerOff g = false → x.buffer.find? (fun b => b.1 == y) = some b → completes (.lineRead g) s fun t =>
        (t.gate g).readLine = y + 1 ∧ t.out.line = (if x.sends then some (g.val, linkLine c b.2.1 b.2.2) else none) ∧
        (∀ d, d ∈ (t.gate g).buffer ↔ d ∈ x.buffer ∧ d.1 ≠ y) ∧ (t.gate g).underruns = x.underruns ∧
        (∀ i, i ≠ g.val → t.gate i = s.gate i) ∧ s.timePassed t ∧
        t = { s with out := t.out, clock := t.clock, gates := t.gates, chk := { s.chk with fromGate := t.chk.fromGate } }) ∧
      (s.layerOff g = false → (∀ b ∈ x.buffer, b.1 ≠ y) → completes (.lineRead g) s fun t =>
        (t.gate g).readLine = y + 1 ∧ t.out.line = (if x.sends then some (g.val, fillLine c) else none) ∧
        (t.gate g).underruns = satAdd x.underruns 1 (2 ^ 32 - 1) ∧ (t.gate g).underrunLine = y ∧ (t.gate g).pictureOff = true ∧
        (t.gate g).events.getLsbD 3 = true ∧ (s.cloneMode = false → ∀ i, i ≠ g.val → t.gate i = s.gate i) ∧
        t.reels = s.reels ∧ t.err = s.err ∧ t.seq = s.seq ∧ t.ports = s.ports))

/-- HPD, where no event that comes before it is due in the tick: a rising edge at an unplugged gate asks for training, a fall of 2 ms
unplugs it with its timing running on; a training that succeeds carries video from the next frame, with FEC where the configuration uses
it, one that fails is tried again after 100 ms, a sink that cannot carry the link is a capability mismatch; of a gate without a
configuration, or after a mismatch, only the sink's capabilities are read (R337, R360 to R362). -/
def Obligations.HotPlugAndTraining : Prop :=
  ∀ (s : State) (g : Fin 4),
    let x := s.gate g
    let others (t : State) : Prop := ∀ i, i ≠ g.val → t.gate i = s.gate i
    (∀ (i : Input) (e : Edge), i ∈ s.inputs → s.input (.hpd g) = i → i.pin = .hpd g → 17 ≤ e.samples → i.filtered = !e.level →
      (∀ l, i.lastEdge = some l → l + 200_000 ≤ s.edgeRaw e) → s.gateQuiet g →
      (e.level = true → x.unplugged = true → completes (.hpdEdge g e) s fun t =>
        (t.gate g).unplugged = false ∧ (t.gate g).mustTrain = true ∧ (t.gate g).hpdLevel = true ∧
        (t.gate g).events.getLsbD 4 = true ∧ (t.gate g).cfg = x.cfg ∧ (t.gate g).runningGen = x.runningGen ∧ others t ∧
        t.level (.hpd g) = true ∧ t.clock = s.clock ∧ t.err = s.err ∧ t.chk = s.chk) ∧
      (e.level = false → completes (.hpdEdge g e) s fun t =>
        t.gate g = { x with hpdLevel := false, fallAt := some (s.edgeRaw e) } ∧ others t ∧
        t = { s with out := Out.none, inputs := t.inputs, gates := t.gates })) ∧
    (∀ f, x.fallAt = some f → x.unplugged = false → s.level (.hpd g) = false →
      (s.advanceTo (s.clapTime (f + 4_000_000) / 8)).gateQuiet g →
      completes (.hpdUnplug g) s fun t =>
      (t.gate g).unplugged = true ∧ (t.gate g).linked = false ∧ (t.gate g).sink = none ∧ (t.gate g).fallAt = none ∧
      (t.gate g).events.getLsbD 4 = true ∧ (t.gate g).runningGen = x.runningGen ∧ (t.gate g).cfg = x.cfg ∧ others t ∧
      (s.clock.running = true → s.clapTime (f + 4_000_000) / 8 ≤ t.clock.clap) ∧ s.timePassed t ∧ t.inputs = s.inputs ∧ t.err = s.err) ∧
    (∀ (c : GateConfig) (k : SinkSeen), s.firmwareUp = true → x.cfg = some c → x.runningGen = true → x.unplugged = false →
      s.level (.hpd g) = true → x.mustTrain = true → x.capMismatch = false → x.irq = false → (s.advanceTo x.trainAt).gateQuiet g →
      completes (.linkTraining g k) s fun t =>
        (c.sinkFits k = true → k.trains = true → (t.gate g).videoNext = true ∧ (t.gate g).mustTrain = false ∧
          (t.gate g).fec = c.fec) ∧
        (c.sinkFits k = true → k.trains = false → (t.gate g).videoNext = false ∧ (t.gate g).mustTrain = true ∧
          (t.gate g).trainAt = t.clock.clap + 25_000_000) ∧
        (c.sinkFits k = false → (t.gate g).capMismatch = true ∧ (t.gate g).mustTrain = false) ∧
        (t.gate g).linked = false ∧ (t.gate g).sink = some k ∧ (t.gate g).events.getLsbD 5 = true ∧ (t.gate g).cfg = x.cfg ∧
        others t ∧ s.timePassed t ∧ t.inputs = s.inputs ∧ t.err = s.err ∧ t.ports = s.ports) ∧
    (∀ k : SinkSeen, s.firmwareUp = true → x.cfg = none ∨ x.capMismatch = true → x.unplugged = false → s.level (.hpd g) = true →
      x.mustTrain = true → completes (.linkTraining g k) s fun t =>
        t.gate g = { x with sink := some k, mustTrain := false, irq := false, retryAt := none } ∧ others t ∧
        t = { s with out := Out.none, gates := t.gates })

/-- GENLOCK_IN, where no event that comes before GENLOCK is due in the tick: an accepted rising edge gives every gate that follows the
reference its newest edge, or a rate fault of a gate for which it comes before half the expected period; without an edge for two periods
the gate's state is lost, with the tick after (log 136, DEDUCED) (R357, R515). -/
def Obligations.GenlockFollows : Prop :=
  ∀ s : State,
    (∀ (i : Input) (e : Edge), i ∈ s.inputs → s.input .genlock = i → i.pin = .genlock → 17 ≤ e.samples → i.filtered = false →
      e.level = true → (∀ l, i.lastEdge = some l → l + 2_000 ≤ s.edgeRaw e) →
      (∀ g < 4, (s.gate g).genlocked.isSome → s.gateQuiet g) → completes (.genlockEdge e) s fun t =>
        let now := s.edgeTime e * 2 ^ 29
        (∀ g < 4, (s.gate g).genlocked = none → t.gate g = s.gate g) ∧
        (∀ g < 4, ∀ c, (s.gate g).genlocked = some c → (s.gate g).genEdges = [] → t.gate g = { s.gate g with genEdges := [now], genLast := some now }) ∧
        (∀ g < 4, ∀ c a es, (s.gate g).genlocked = some c → (s.gate g).genEdges = a :: es →
          (c.genPeriod ≤ 2 * (now - a) → t.gate g = { s.gate g with genEdges := [now, a], genLast := some now }) ∧
          (2 * (now - a) < c.genPeriod → t.gate g = { s.gate g with events := (s.gate g).events ||| 64 })) ∧
        t.level .genlock = true ∧ t.clock = s.clock ∧ t.err = s.err ∧ t.chk = s.chk ∧ t.reels = s.reels) ∧
    (∀ (g : Fin 4) (c : GateConfig) (a : Nat), (s.gate g).genlocked = some c → (s.gate g).genLast = some a →
      (s.gate g).genState ≠ .lost → (s.advanceTo ((a + 2 * c.genPeriod) / subTicks + 1)).gateQuiet g → completes (.genlockLost g) s fun t =>
        t.gate g = { s.gate g with genEdges := [], genLast := none, genGood := 0, genState := .lost, events := (s.gate g).events ||| 64 } ∧
        (∀ k, k ≠ g.val → t.gate k = s.gate k) ∧ (s.clock.running = true → (a + 2 * c.genPeriod) / subTicks + 1 ≤ t.clock.clap) ∧
        s.timePassed t ∧ t.inputs = s.inputs ∧ t.err = s.err)

/-! ## Splice -/

/-- In state UP a port puts exactly one whole flit with a right CRC on the link in every slot, with its ack and the credits it
returns: a RETRY that is due before a TIME flit that is due, that before a flit sent again, that before a new DATA flit, RSP
before REQ but for one REQ flit after three, and an idle flit when nothing else goes. A new DATA flit takes the next seq, is
kept and takes a credit of its class, and packets that waited for a credit may follow it; a port that joins no member sends no DATA. In
another state nothing is sent (R368 to R376, R381). That the TIME flit of a beat is due at a tick above 200 is log 50 (DEDUCED). -/
def Obligations.FlitsSent : Prop :=
  ∀ (s : State) (p : Fin 6),
    let x := s.port p
    let now := s.copy spliceIsland
    let timeDue : Prop := 200 < now % 500 ∧ x.timeBeat ≠ some (now / 500)
    (x.state ≠ .up → exec (.flitSlot p) s = .next { s with out := Out.none }) ∧
    (x.state = .up → completes (.flitSlot p) s fun t => ∃ flit : List Byte,
      t.out.flit = some (p.val, flit) ∧ flit.length = 256 ∧ leNat flit 0xFC 4 = crc32c (flit.take 0xFC) ∧
      leNat flit 4 2 = (if x.ackValid then (x.rxSeq + 4095) % 4096 + 0x8000 else 0) ∧
      leNat flit 6 1 = min 255 x.reqReturn ∧ leNat flit 7 1 = min 255 x.rspReturn ∧
      (x.retryDue = true → leNat flit 0 1 = 2 ∧ leNat flit 0x0C 2 = x.rxSeq % 0x1_0000 ∧
        t.port p = { x with retryDue := false, retrySent := true, retryAt := s.clock.clap,
                            reqReturn := (t.port p).reqReturn, rspReturn := (t.port p).rspReturn }) ∧
      (x.retryDue = false → timeDue → leNat flit 0 1 = 3 ∧ leNat flit 0x0C 8 = now % 2 ^ 64 ∧
        t.port p = { x with timeBeat := some (now / 500), reqReturn := (t.port p).reqReturn,
                            rspReturn := (t.port p).rspReturn }) ∧
      (x.retryDue = false → ¬ timeDue → (s.memberAt p).isSome → ∀ old rest, x.replay = old :: rest →
        leNat flit 0 1 = 1 ∧ leNat flit 2 2 = leNat old 2 2 ∧ slice flit 0x0C 240 = slice old 0x0C 240 ∧
        t.port p = { x with replay := rest, reqReturn := (t.port p).reqReturn, rspReturn := (t.port p).rspReturn }) ∧
      (x.retryDue = false → ¬ timeDue → x.replay = [] → (s.memberAt p).isSome → ∀ rsp,
        rsp = (x.canSend true && !(decide (3 ≤ x.rspRun) && x.canSend false)) → x.canSend rsp = true →
        leNat flit 0 1 = 1 ∧ bitOf (leNat flit 1 1) 0 = rsp ∧ leNat flit 2 2 = x.txSeq % 0x1_0000 ∧
        (t.port p).txSeq = (x.txSeq + 1) % 4096 ∧ (t.port p).kept = x.kept ++ [(x.txSeq, flit)] ∧
        (t.port p).reqCredits = (if rsp then x.reqCredits else x.reqCredits - 1) ∧
        (t.port p).rspCredits = (if rsp then x.rspCredits - 1 else x.rspCredits)) ∧
      (x.retryDue = false → ¬ timeDue →
        ((s.memberAt p).isNone ∨ (x.replay = [] ∧ x.canSend true = false ∧ x.canSend false = false)) → leNat flit 0 1 = 0 ∧
        t.port p = { x with reqReturn := (t.port p).reqReturn, rspReturn := (t.port p).rspReturn }) ∧
      (s.nothingWaits → t.out = { Out.none with flit := some (p.val, flit) } ∧
        (t.port p).reqReturn = x.reqReturn - min 255 x.reqReturn ∧ (t.port p).rspReturn = x.rspReturn - min 255 x.rspReturn ∧
        (∀ k, k ≠ p.val → t.port k = s.port k) ∧ t = { s with out := t.out, free := t.free, ports := t.ports }))

/-- A flit that arrives at a port in UP: one with a wrong CRC is discarded, and one RETRY asks for it; a DATA flit that is not the expected
one of a member is discarded whole and asks for a RETRY; any other frees the flits its ack covers and gives credits back; the expected DATA
flit is accepted: no credit is lost or made, one is held while bytes of its flit stand at the port or the packets that wait there overflow
its crossing, and whole packets go on to their destination, a write to memory of this chip among them; a RETRY has every kept flit from
the named one sent again, and after eight replays in a row takes the port to RETRAINING; a TIME flit is kept with its arrival time and
gives the round trip (R366, R368, R369, R372 to R376, R381, R384). That any discarded flit asks for a RETRY, and the number of rejected
flits that degrades a link, are log 50, that DATA on a port without set traffic is discarded log 51, that a RETRY's replay counts toward the
eight log 96 (all DEDUCED); the header fields that Table 12.3 does not give, and what goes to the control cores, are log 39 (the model's
choice). -/
def Obligations.FlitsReceived : Prop :=
  ∀ (s : State) (p : Fin 6) (bs : List Byte) (frac : Byte), (s.port p).state = .up → bs.length = 256 →
    let x := s.port p
    let kind := leNat bs 0 1
    let ack := leNat bs 4 2
    let only (t : State) : Prop := (∀ k, k ≠ p.val → t.port k = s.port k) ∧ t = { s with out := Out.none, ports := t.ports }
    (leNat bs 0xFC 4 ≠ crc32c (bs.take 0xFC) → completes (.flitReceive p bs frac) s fun t =>
      let bad := (s.clock.clap :: x.rejected.filter fun a => decide (s.clock.clap < a + Config.ticksPerSecond)).take x.badLimit
      (t.port p) = { x with retryDue := x.retryDue || !x.retrySent, rejected := bad,
                            degraded := x.degraded || decide (x.badLimit ≤ bad.length) } ∧
      s.onlyRaised t ∧ (∀ k, k ≠ p.val → t.port k = s.port k) ∧
      t = { s with out := t.out, host := t.host, dev := { s.dev with ring := t.dev.ring }, mem := t.mem, poison := t.poison,
                   ports := t.ports, err := { s.err with slots := t.err.slots } }) ∧
    (leNat bs 0xFC 4 = crc32c (bs.take 0xFC) → 3 < kind → completes (.flitReceive p bs frac) s fun t =>
      t.port p = { x with retryDue := x.retryDue || !x.retrySent } ∧ only t) ∧
    (leNat bs 0xFC 4 = crc32c (bs.take 0xFC) → kind = 1 → (leNat bs 2 2 % 4096 ≠ x.rxSeq ∨ (s.memberAt p).isNone) →
      completes (.flitReceive p bs frac) s fun t => t.port p = { x with retryDue := x.retryDue || !x.retrySent } ∧ only t) ∧
    (leNat bs 0xFC 4 = crc32c (bs.take 0xFC) → kind ≤ 3 → (kind = 1 → leNat bs 2 2 % 4096 = x.rxSeq ∧ (s.memberAt p).isSome) →
      completes (.flitReceive p bs frac) s fun t =>
      let replays := if bitOf ack 15 && x.kept.any (fun k => k.1 == ack % 4096) then 0 else x.replays
      (kind ≠ 2 → (t.port p).replays = replays) ∧
      (bitOf ack 15 = false → (t.port p).kept = x.kept) ∧
      (bitOf ack 15 = true → ∀ pre k post, x.kept = pre ++ k :: post → (∀ q ∈ pre, q.1 ≠ ack % 4096) → k.1 = ack % 4096 →
        (t.port p).kept = post ∧ (t.port p).lastAck = s.clock.clap) ∧
      (t.port p).reqCredits = min 256 (x.reqCredits + leNat bs 6 1) ∧
      (t.port p).rspCredits = min 256 (x.rspCredits + leNat bs 7 1) ∧ (t.port p).txSeq = x.txSeq ∧
      (kind = 0 → only t) ∧
      (kind = 1 →
        let rsp := bitOf (leNat bs 1 1) 0
        let got := (if rsp then x.asmRsp else x.asmReq) ++ slice bs 0x0C (min 240 (leNat bs 9 1))
        (t.port p).rxSeq = (x.rxSeq + 1) % 4096 ∧ (t.port p).ackValid = true ∧ (t.port p).retrySent = false ∧
        (t.port p).retryDue = false ∧
        (t.port p).reqReturn + (t.port p).unreturned + (t.port p).reqFlits.length =
          x.reqReturn + x.unreturned + x.reqFlits.length + (if rsp then 0 else 1) ∧
        (t.port p).rspReturn + (t.port p).unreturnedRsp + (t.port p).rspFlits.length =
          x.rspReturn + x.unreturnedRsp + x.rspFlits.length + (if rsp then 1 else 0) ∧
        x.reqReturn ≤ (t.port p).reqReturn ∧ x.rspReturn ≤ (t.port p).rspReturn ∧
        ((t.port p).stalled.length ≤ (Config.credits (.spliceFabric p)).req → (t.port p).unreturned = 0) ∧
        ((t.port p).stalledRsp.length ≤ (Config.credits (.spliceFabric p)).rsp → (t.port p).unreturnedRsp = 0) ∧
        (if rsp then (t.port p).rspFlits = heldFlits (x.rspFlits ++ [min 240 (leNat bs 9 1)]) (t.port p).asmRsp.length
          else (t.port p).reqFlits = heldFlits (x.reqFlits ++ [min 240 (leNat bs 9 1)]) (t.port p).asmReq.length) ∧
        (got.length < 32 → (if rsp then (t.port p).asmRsp else (t.port p).asmReq) = got ∧ only t) ∧
        (got.length = 32 + (Config.packetData (got.take 32)).val → packetDst (got.take 32) = s.set.index →
          packetHops (got.take 32) < 15 →
          let moved := patch got 0x1A (leBytes 1 (packetHops (got.take 32) + 1))
          (rsp = true → (∀ q : Fin 6, (s.port q).stalled = []) → t.set.inbox = s.set.inbox ++ [moved]) ∧
          (rsp = false → x.stalled = [] → Config.packetWaits (moved.take 32) = false →
            (Config.packetWrite (moved.take 32) = none → Config.packetRead (moved.take 32) = none →
              t.set.inbox = s.set.inbox ++ [moved]) ∧
            (∀ a, Config.packetWrite (moved.take 32) = some a → s.allows (.splice p) true a (moved.drop 32).length = true →
              (∀ i (h : i < (moved.drop 32).length), t.readByte (a + i) = (moved.drop 32)[i]) ∧ t.set.inbox = s.set.inbox ∧
              (∀ q, q < a ∨ a + (moved.drop 32).length ≤ q → t.readByte q = s.readByte q))))) ∧
      (kind = 2 →
        let flits := ((t.port p).kept.dropWhile fun k => !(k.1 == leNat bs 0x0C 2 % 4096)).map (·.2)
        (flits = [] → (t.port p).replays = replays ∧ (t.port p).state = .up ∧ only t) ∧
        (flits ≠ [] → replays < 8 → (t.port p).replay = flits ∧ (t.port p).replays = replays + 1 ∧ (t.port p).state = .up ∧ only t) ∧
        (flits ≠ [] → 8 ≤ replays → (t.port p).state = .retraining ∧ (t.port p).replays = replays)) ∧
      (kind = 3 → (t.port p).peer = some (slice bs 0x0C 240, s.copy spliceIsland, frac.toNat) ∧
        (∀ w, twiceDelay (slice bs 0x0C 240) (s.copy spliceIsland) frac.toNat = some w → (t.port p).roundTrip = roundTripNs w) ∧
        (∀ k, k ≠ p.val → t.port k = s.port k) ∧ t.err = s.err) ∧
      t.gates = s.gates ∧ t.reels = s.reels ∧ t.tensors = s.tensors ∧ t.clock.clap = s.clock.clap)

/-- The timers of a port: 2 µs after a RETRY another may go; 8 µs without an ack send every kept flit again, and after eight replays in
a row take the port to RETRAINING; training begins in DOWN and RETRAINING, every 10 ms of the island's copy, which stands within a tick of
the clapper, and ends within 5 ms, with a round trip of at most 8 µs, in UP with the lanes that work, afresh from DOWN and with the kept
flits sent again from RETRAINING; 100 ms in RETRAINING end in DOWN with empty buffers and full credits (R364, R366, R373 to R376). An
attempt sends the port's own TIME flit, and one without a measured round trip fails (log 130, DEDUCED); that sequence numbers restart at 0
from DOWN is log 51, that own attempts come 10 ms after the last own one log 50 (DEDUCED). -/
def Obligations.PortTimersAndTraining : Prop :=
  ∀ (s : State) (p : Fin 6),
    let x := s.port p
    let others (t : State) : Prop := ∀ k, k ≠ p.val → t.port k = s.port k
    (x.state = .up → x.retrySent = true → completes (.retryWaitExpiry p) s fun t =>
      t.port p = { x with retrySent := false } ∧ (s.clock.running = true → x.retryAt + 500 ≤ t.clock.clap) ∧ others t ∧
      s.timePassed t ∧ t = { s with out := Out.none, clock := t.clock, ports := t.ports }) ∧
    (x.state = .up → x.kept ≠ [] → completes (.replayTimeout p) s fun t =>
      (t.port p).kept = x.kept ∧
      (t.port p).txSeq = x.txSeq ∧ (t.port p).lastAck = t.clock.clap ∧
      (s.clock.running = true → x.lastAck + 2000 ≤ t.clock.clap) ∧ others t ∧
      (x.replays < 8 → (t.port p).replay = x.kept.map (·.2) ∧ (t.port p).replays = x.replays + 1 ∧ (t.port p).state = .up ∧
        s.timePassed t ∧ t = { s with out := Out.none, clock := t.clock, ports := t.ports }) ∧
      (8 ≤ x.replays → (t.port p).state = .retraining ∧ (t.port p).since = t.clock.clap ∧ t.streams = s.streams ∧
        t.gates = s.gates ∧ t.chk = s.chk)) ∧
    (x.state = .down ∨ x.state = .retraining → x.trainingAt = none → ∀ peer, completes (.spliceTrainingAttempt p peer) s fun t =>
      t.port p = { x with trainingAt := some t.clock.clap, attemptAt := (if peer then x.attemptAt else some (t.copy spliceIsland)),
                          reqReturn := (t.port p).reqReturn, rspReturn := (t.port p).rspReturn } ∧
      (∃ flit : List Byte, t.out = { Out.none with flit := some (p.val, flit) } ∧ flit.length = 256 ∧ leNat flit 0 1 = 3 ∧
        leNat flit 0x0C 8 = t.copy spliceIsland % 2 ^ 64 ∧ leNat flit 0xFC 4 = crc32c (flit.take 0xFC)) ∧
      (peer = true → t.clock = s.clock) ∧
      (∀ a, peer = false → x.attemptAt = some a → s.clock.running = true → a + 2_500_000 ≤ t.clock.clap + 1) ∧ others t ∧
      s.timePassed t ∧ t = { s with out := t.out, clock := t.clock, ports := t.ports, free := t.free }) ∧
    (∀ (a : Nat) (seen : TrainSeen), x.state = .down ∨ x.state = .retraining → x.trainingAt = some a →
      (∀ w ls, lanesOf seen.lanes = some ls → twiceDelay (slice seen.time 0 240) (s.copy spliceIsland) seen.frac.toNat = some w →
        w ≤ 512_000 → s.clock.clap ≤ a + 1_250_000 → completes (.spliceTrainingDone p seen) s fun t =>
          (t.port p).state = .up ∧ (t.port p).width = ls.length ∧ (t.port p).lanes = ls ∧ (t.port p).roundTrip = roundTripNs w ∧
          (t.port p).degraded = false ∧ (t.port p).trainingAt = none ∧ (t.port p).retryDue = false ∧
          (x.state = .retraining → (t.port p).kept = x.kept ∧ (t.port p).replay = x.kept.map (·.2) ∧
            (t.port p).txSeq = x.txSeq ∧ (t.port p).rxSeq = x.rxSeq) ∧
          (x.state = .down → (t.port p).kept = [] ∧ (t.port p).replay = [] ∧ (t.port p).txSeq = 0 ∧ (t.port p).rxSeq = 0 ∧
            (t.port p).ackValid = false) ∧
          (x.state = .down ∨ s.set.epoch = none → t.streams = s.streams ∧ t.set = s.set) ∧
          others t ∧ t.clock.clap = s.clock.clap ∧ t.gates = s.gates ∧ t.chk = s.chk) ∧
      (lanesOf seen.lanes = none ∨ twiceDelay (slice seen.time 0 240) (s.copy spliceIsland) seen.frac.toNat = none ∨
          (∀ w, twiceDelay (slice seen.time 0 240) (s.copy spliceIsland) seen.frac.toNat = some w → 512_000 < w) ∨
          a + 1_250_000 < s.clock.clap →
        completes (.spliceTrainingDone p seen) s fun t =>
          t.port p = { x with trainingAt := none } ∧ others t ∧ t = { s with out := Out.none, ports := t.ports })) ∧
    (x.state = .retraining → completes (.retrainTimeout p) s fun t =>
      (t.port p).state = .down ∧ (t.port p).kept = [] ∧ (t.port p).replay = [] ∧ (t.port p).asmReq = [] ∧
      (t.port p).asmRsp = [] ∧ (t.port p).peer = none ∧ (t.port p).reqCredits = 256 ∧ (t.port p).rspCredits = 256 ∧
      (s.regionFree 13 → ∃ e ∈ t.err.log, e.cause = 0x3009 ∧ e.unit = 13 ∧ e.level = 2) ∧
      (∀ k, k ≠ p.val → (t.port k).state = (s.port k).state ∧ (t.port k).kept = (s.port k).kept) ∧
      (s.clock.running = true → x.since + 25_000_000 ≤ t.clock.clap) ∧ t.gates = s.gates ∧ t.reels = s.reels)

/-! ## The clapper across a set -/

/-- The clapper is corrected at tick 100 of a beat by the newest offset of the beat before: by one tick back or forward when it was off by
three quarters of a tick or more, directly when the chip is idle and it is off by a beat or more; that a direct step goes by the offset
with the corrections made since, and forgets the offsets of earlier beats, is the model's reading (log 128). CLAP_IN: a falling edge adds a
bit, a rising edge of known value gives the offset, and a pulse that the glitch filter rejects is a rate fault. Intervals are those that have
passed, whatever corrections the clapper has had (R515). A lost source leaves the clapper FREE, with the tick after its timer (log 136,
DEDUCED) (R384, R385, R387 to R389); that a direct step goes to the nearest tick is log 53 (DEDUCED). -/
def Obligations.ClapperAligns : Prop :=
  ∀ s : State,
    (let m := if s.tickInBeat ≤ 100 then s.beat else s.beat + 1
     let c := s.clock
     let direct := s.idleForStep = true ∧ 128_000 ≤ c.againstRoot.natAbs
     let e := if c.state = .free ∨ m = 0 then none else c.measuredIn (m - 1)
     c.running = true → c.source ≠ .internal → c.corrected ≠ some m → completes .clapperCorrection s fun t =>
       (e = none ∨ (¬ direct ∧ ∃ v, e = some v ∧ v.natAbs < 192) → t.clock.clap = 500 * m + 100 ∧ t.clock.corrected = some m ∧
         t.clock.stepped = c.stepped ∧ t.clock.moved = c.moved) ∧
       (e.isSome → direct → t.clock.clap = ((Int.ofNat (500 * m + 100) - Int.fdiv (c.againstRoot + 128) 256) % 2 ^ 64).toNat ∧
         t.clock.stepped = c.stepped - Int.fdiv (c.againstRoot + 128) 256 ∧ t.clock.offsetBeat = none ∧ t.clock.before = none) ∧
       (∀ v, e = some v → ¬ direct → 192 ≤ v → t.clock.clap = 500 * m + 100 ∧ t.clock.holding = true ∧ t.clock.corrected = some m ∧
         t.clock.stepped = c.stepped - 1 ∧ t.clock.moved = c.moved - 256) ∧
       (∀ v, e = some v → ¬ direct → v ≤ -192 → t.clock.clap = 500 * m + 102 ∧ t.clock.corrected = some m ∧
         t.clock.stepped = c.stepped + 1 ∧ t.clock.moved = c.moved + 256) ∧
       (e = none ∨ ¬ direct → t.clock.offsetBeat = c.offsetBeat ∧ t.clock.before = c.before) ∧
       t = { s with out := Out.none, clock := { c with
         clap := t.clock.clap, corrected := t.clock.corrected, holding := t.clock.holding, stepped := t.clock.stepped,
         moved := t.clock.moved, offsetBeat := t.clock.offsetBeat, before := t.clock.before } }) ∧
    (∀ e : Edge, s.Accepts .clapIn e → completes (.clapInEdge e) s fun t =>
      let r := s.clock.rx
      t.level .clapIn = e.level ∧ t.clock.clap = s.clock.clap ∧
      (e.level = false → (∀ u, r.rise = some u → t.clock = { s.clock with rx := r.addBit (decide (u + 2000 ≤ s.edgeRaw e)) }) ∧
        t = { s with out := Out.none, inputs := t.inputs, clock := t.clock }) ∧
      (e.level = true → t.clock.rx.rise = some (s.edgeRaw e) ∧
        (s.clock.source ≠ .clapIn → t = { s with out := Out.none, inputs := t.inputs, clock := { s.clock with rx := t.clock.rx } }) ∧
        (s.clock.source = .clapIn → t.clock.lastTime = some s.rawTick ∧
          ∀ u v b, r.rise = some u → r.nominal = some v → b = (s.edgeRaw e - u + 2000) / 4000 → 1 ≤ b →
            t.clock.offset = 32 * (s.edgeTime e : Int) - 256 * ((v : Int) + 500 * ((b : Int) - 1)) - (s.clock.delay : Int) ∧
            t.clock.offsetBeat = some s.beat)) ∧
      s.onlyRaised t ∧
      t = { s with out := t.out, host := t.host, inputs := t.inputs, clock := t.clock, dev := { s.dev with ring := t.dev.ring },
                   mem := t.mem, poison := t.poison }) ∧
    (∀ e : Edge, e.samples < 17 → s.filtered .clapIn ≠ e.level →
      exec (.clapInEdge e) s = .next { s with out := Out.none, board := s.board.rateFault .clapIn }) ∧
    (s.clock.state ≠ .free → s.clock.state ≠ .root → s.clock.source ≠ .internal → completes .clapSourceLost s fun t =>
      t.clock.state = .free ∧ t.clock.offsetBeat = none ∧ t.clock.lastTime = none ∧ t.clock.steady = 0 ∧
      t.clock.source = s.clock.source ∧ s.clock.clap ≤ t.clock.clap ∧
      (∀ a, s.clock.lastTime = some a → s.clock.running = true →
        (s.clock.source = .clapIn → s.clapTick (a + 1001) ≤ t.clock.clap) ∧ (s.clock.source = .splice → s.clapTick (a + 2001) ≤ t.clock.clap)) ∧
      s.onlyRaised t ∧
      t = { s with out := t.out, host := t.host, clock := t.clock, dev := { s.dev with ring := t.dev.ring }, mem := t.mem,
                   poison := t.poison })

/-! ## Units under test, firmware, boot -/

/-- Boot: with the PLLs locked the clapper runs from 0 in state ROOT, in fw_phase 1 (from the lock on: the model's choice, log 131); the
governing slot's image is read into the stage of ARRAY0 and taken when R482 passes it, else the other slot's with BOOT_FALLBACK, else
fw_phase is 4; FW_LOCK locks windows that keep the firmware area from the host and
leave it the pool; once the checker has been started, firmware is ready with the blocks that failed their test retired (R475, R478 to R487,
R498). -/
def Obligations.BootSteps : Prop :=
  ∀ s : State,
    (s.clock.running = false → s.board.hold = .none → s.level .resetN = true → exec .bootPllLock s = .next { s with
      out := Out.none, clock := { Clock.reset with running := true }, fw := { s.fw with bootStep := 2 }, dev := { s.dev with fwPhase := 1 } }) ∧
    (s.fw.bootStep = 2 → s.dev.fwPhase ≠ 4 →
      let a := s.bootSlot
      let good (k : Nat) : Prop := s.fuses.imageRefused none (s.slotBytes k) = none
      let taken (k : Nat) : Firmware := { s.fw with bootStep := 5, image := some (imageOf (s.slotBytes k)), fromSlot := some k }
      let read (k : Nat) (t : State) : Prop := let n := leNat (s.slotBytes k) 4 4
        t.readBytes Config.stageBase n = (s.slotBytes k).take n
      s.regionFree 18 → s.slotHeld .chip = false → completes .bootImageVerify s fun t =>
        (s.fuses.ok = true → good a → read a t ∧
          t = { s with out := Out.none, fw := taken a, dev := { s.dev with fwPhase := 2 }, mem := t.mem, poison := t.poison }) ∧
        (s.fuses.ok = true → ¬ good a → good (1 - a) → read (1 - a) t ∧
          t.fw = taken (1 - a) ∧ t.dev = { s.dev with fwPhase := 2 } ∧ (∃ e ∈ t.err.log, e.cause = 0x3010 ∧ e.unit = 18)) ∧
        (s.fuses.ok = false ∨ (¬ good a ∧ ¬ good (1 - a)) →
          t.fw = { s.fw with noImage := true } ∧ t.dev = { s.dev with fwPhase := 4 } ∧
          (∃ e ∈ t.err.log, e.cause = 0x4006 ∧ e.level = 3)) ∧
        s.onlyWrites t (fun x => x < Config.stageBase ∨ Config.stageBase + 0x40_0000 ≤ x) ∧
        t = { s with out := t.out, host := t.host, fw := t.fw, dev := t.dev, err := t.err, free := t.free, mem := t.mem,
                     poison := t.poison }) ∧
    (∀ v : Word32, s.wall.lock = false → s.fw.bootStep = 5 → v.getLsbD 0 = true → completes (.fwLock v) s fun t =>
      t.wall.lock = true ∧ t.wall.windows.length = 32 ∧ t.wall.jtagPolicy = 0 ∧ t.dev = { s.dev with configLock := true } ∧
      t.fw.bootStep = 6 ∧ t.fw.image = s.fw.image ∧
      (∀ write base n, 0 < n → Config.firmwareBase s.fuses.grade ≤ base → t.wall.passes .host write base n = false) ∧
      (∀ write base n, base + n ≤ Config.firmwareBase s.fuses.grade → t.wall.passes .host write base n = true) ∧
      t = { s with out := Out.none, wall := t.wall, dev := t.dev, fw := t.fw }) ∧
    (∀ v : Word32, s.wall.lock = true → s.regionFree 18 → completes (.fwLock v) s fun t =>
      t.wall = s.wall ∧ (∃ e ∈ t.err.log, e.cause = 0x3008 ∧ e.unit = 18) ∧ t.err.status.getLsbD 5 = true ∧
      t = { s with out := t.out, host := t.host, err := t.err, free := t.free }) ∧
    (∀ failed : List (Fin 36), s.wall.lock = true → s.dev.fwReady = false → s.dev.fwPhase = 2 → s.err.halted = false →
      8 ≤ s.fw.bootStep → s.reels = [] → completes (.fwReady failed) s fun t =>
        (t.err.halted = false → t.dev.fwReady = true ∧ t.fw.bootStep = 9 ∧
          t.dev.fwVersion = (s.fw.image.map fun i => i.version).getD 0 ∧ (∀ b ∈ failed, (t.block b.val).retired = true) ∧
          t.chk = s.chk) ∧
        (t.err.halted = true → t.dev.fwReady = false ∧ t.dev.fwPhase = 4) ∧
        (failed = [] → t.err.halted = false ∧ t.units = s.units ∧ t.ports = s.ports) ∧
        t.streams = s.streams ∧ t.gates = s.gates ∧ t.reels = s.reels ∧ t.tensors = s.tensors ∧ t.wall = s.wall ∧
        t.clock.clap = s.clock.clap) ∧
    (∀ failed : List (Fin 36), s.fw.bootStep < 8 → exec (.fwReady failed) s = .next { s with out := Out.none })

/-! ## Resets and pins -/

/-- A fundamental reset, by power, by RESET_N held low, or by PERST_N in fw_phase 4, leaves every island at its reset values;
PERST_N in another phase resets the host island alone; a brown-out and a thermal trip hold the chip in reset; a deferred edge
makes the level that stands the accepted one, at the expiry of the pin's interval; a clapper fault halts a chip that is not held in reset
(R449, R474, R491, R508, R509, R515, R523, R525). That memory is empty after a reset is log 8, that the waiting commands stay, and with a
reset by a pin the levels on the balls, log 57 (the model's). -/
def Obligations.ResetsAndPins : Prop :=
  ∀ s : State,
    (completes (.fundamentalReset .powerUp) s fun t => s.Wiped t .none true ∧ t.board.thermTrip = false) ∧
    (completes (.fundamentalReset .resetN) s fun t => s.Wiped t s.board.hold false ∧ t.board.thermTrip = s.board.thermTrip) ∧
    (s.dev.fwPhase = 4 → completes (.fundamentalReset .perstN) s fun t => s.Wiped t s.board.hold false) ∧
    (s.dev.fwPhase ≠ 4 → exec (.fundamentalReset .perstN) s = .next { s with out := Out.none }) ∧
    (s.board.hold ≠ .thermal → completes .brownOut s fun t => s.Wiped t .brownOut true ∧ t.board.thermTrip = false) ∧
    (completes .thermalTrip s fun t => s.Wiped t .thermal true ∧ t.board.thermTrip = true) ∧
    (∀ e : Edge, s.Accepts .resetN e → completes (.resetNAssert e) s fun t => t.level .resetN = e.level ∧
      (e.level = false → s.Wiped t s.board.hold false) ∧ (e.level = true → t = { s with out := Out.none, inputs := t.inputs })) ∧
    (∀ e : Edge, s.Accepts .perstN e → completes (.perstNAssert e) s fun t => t.level .perstN = e.level ∧
      (e.level = false → s.dev.fwPhase = 4 → s.Wiped t s.board.hold false) ∧
      (e.level = false → s.dev.fwPhase ≠ 4 → t.host.inReset = true ∧ s.timePassed t ∧
        (s.clock.running = true → ceilDiv (s.edgeTime e) 8 + 250 ≤ t.clock.clap) ∧ t.streams = s.streams ∧ t.reels = s.reels ∧
        t.chk = s.chk ∧ t.mbox = s.mbox ∧ t.fw = s.fw) ∧
      (e.level = true → t = { s with out := Out.none, inputs := t.inputs })) ∧
    (∀ (pin : InputPin) (l : Nat), s.input pin ∈ s.inputs → (s.input pin).pin = pin → (s.input pin).lastEdge = some l →
      (s.input pin).filtered ≠ (s.input pin).level → completes (.deferredEdge pin) s fun t =>
        let expiry := ceilDiv (s.clapTime (l + minInterval pin)) 8
        t.level pin = (s.input pin).filtered ∧
        (pin = .clapIn → s.clock.clap ≤ t.clock.clap ∧ t.clock.rx = s.clock.rx ∧ t.clock.offset = s.clock.offset ∧
          (s.clock.running = true → expiry ≤ t.clock.clap) ∧ t = { s with out := Out.none, inputs := t.inputs, clock := t.clock }) ∧
        (pin = .genlock → (s.input pin).filtered = false → s.timePassed t ∧
          t = { s with out := Out.none, inputs := t.inputs, clock := t.clock }) ∧
        (pin = .genlock → (s.input pin).filtered = true →
          (∀ g < 4, (s.gate g).genlocked.isSome → (s.advanceTo expiry).gateQuiet g) → s.timePassed t ∧
          (∀ g < 4, t.gate g = if (s.gate g).genlocked.isSome then
            { s.gate g with genLast := some (s.clapTime (l + minInterval pin) * 2 ^ 29) } else s.gate g) ∧
          t = { s with out := Out.none, inputs := t.inputs, clock := t.clock, gates := t.gates }) ∧
        (pin = .safeAck → s.timePassed t ∧
          ((s.input pin).filtered = true → t.chk = { s.chk with ackStuck := false, ackSeen := s.chk.ackSeen || s.chk.safe }) ∧
          ((s.input pin).filtered = false → t.chk = s.chk) ∧
          t = { s with out := Out.none, inputs := t.inputs, clock := t.clock, chk := t.chk }) ∧
        (∀ g : Fin 4, pin = .hpd g → (t.gate g).hpdLevel = (s.input pin).filtered ∧ s.timePassed t ∧
          ((s.advanceTo expiry).gateQuiet g → t.chk = s.chk ∧ ∀ k, k ≠ g.val → t.gate k = s.gate k)) ∧
        (pin = .resetN → (s.input pin).filtered = false → s.Wiped t s.board.hold false) ∧
        (pin = .perstN → (s.input pin).filtered = false → s.dev.fwPhase ≠ 4 → t.host.inReset = true ∧ t.streams = s.streams)) ∧
    (s.err.halted = false → s.slotHeld .chip = false → s.chipInReset = false → completes .clapperFault s fun t =>
      t.err.halted = true ∧ t.dev.fwPhase = 4 ∧ t.chk.safe = true ∧ t.chk.cause.getLsbD 5 = true ∧
      (∃ e ∈ t.err.log, e.cause = 0x4005 ∧ e.level = 3 ∧ e.fatal = true) ∧ t.streams = s.streams ∧ t.gates = s.gates ∧
      t.clock = s.clock)

/-! ## Board management and test access -/

/-- Temperatures: a die temperature that rises to or above the limit sets tj_alert, the hottest stack rising to 90 °C dram_alert; dram_hot
holds the stacks above 85 °C. That a read of SMB_TJ_PEAK clears it to 0, and that DRAM_ALERT is of the hottest stack, is log 58 (DEDUCED).
SMBus: from 1 ms after time 0 a read answers its word and the packet error code and clears what is RC, a write with a good PEC sets the
limit or clears alerts, the alert response is the target's address; before, and in reset, nothing answers (R504, R520 to R522; the code of
SMBus 3.1 is log 152, PRESUMED, and the time of the lock log 48, DEDUCED). JTAG: BYPASS and IDCODE answer as R519 says, the boundary
instructions shift as many bytes out as in, and EXTEST drives the balls but SAFE_STATE from what was shifted in (R510; the boundary
register and the eight bytes of an access to SRAM are log 15, PRESUMED). An instruction that JTAG_POLICY does not allow behaves as BYPASS
and is an access violation of the CONTROL slot; what it allows reads or writes the SRAM aperture, or halts a core (R485, R486, R519). In
reset the die reports nothing and JTAG takes no part (R509, R516). -/
def Obligations.BoardAndTestAccess : Prop :=
  (∀ s : State,
    let b := s.board
    let there := s.clock.running = true ∧ s.chipInReset = false ∧ 250_000 ≤ s.rawTick + Config.lockTicks.val
    let word (c v : Nat) : List Byte :=
      leBytes 2 v ++ [pecOf ([BitVec.ofNat 8 (2 * b.address), BitVec.ofNat 8 c, BitVec.ofNat 8 (2 * b.address + 1)] ++ leBytes 2 v)]
    let only (t : State) : Prop := t = { s with out := Out.none, board := t.board }
    (s.chipInReset = true → ∀ q : Int, exec (.tjAlert q) s = .next { s with out := Out.none } ∧
      exec (.dramAlert q) s = .next { s with out := Out.none }) ∧
    (∀ q : Int, s.chipInReset = false → completes (.tjAlert q) s fun t =>
      t.board = { b with tj := q, tjPeak := max b.tjPeak q, alert := if b.tj < b.limit ∧ b.limit ≤ q then b.alert ||| 1 else b.alert } ∧
      only t) ∧
    (∀ (k : Fin 4) (q : Int), k.val < Config.stackCount s.fuses.grade → s.chipInReset = false → completes (.dramHot k q) s fun t =>
      t.board = { b with tdram := b.tdram.set k q, hot := t.board.hot,
                         alert := if b.hottest < 1440 ∧ 1440 ≤ t.board.hottest then b.alert ||| 2 else b.alert } ∧
      (k.val ∈ t.board.hot ↔ 1360 < q) ∧ (∀ i, i ≠ k.val → (i ∈ t.board.hot ↔ i ∈ b.hot)) ∧ only t) ∧
    (∀ q : Int, b.tdram ≠ [] → s.chipInReset = false → completes (.dramAlert q) s fun t =>
      (∃ j, b.tdram[j]? = some b.hottest ∧ t.board = { b with
        tdram := b.tdram.set j q, hot := t.board.hot,
        alert := if b.hottest < 1440 ∧ 1440 ≤ t.board.hottest then b.alert ||| 2 else b.alert }) ∧ only t) ∧
    (∀ c : Byte, there → completes (.smbReadWord c) s fun t =>
      t.out = { Out.none with data := word c.toNat (s.smbRead c.toNat) } ∧
      t.board = (if c = 0x03 then { b with tjPeak := 0 } else if c = 0x09 then { b with rateGen := 0, rateClap := 0 }
        else if c = 0x0A then { b with rateAck := 0, rateHpd := 0 } else b) ∧
      t = { s with out := t.out, free := t.free, board := t.board }) ∧
    (there → completes .smbTjPeakRead s fun t =>
      t.out = { Out.none with data := word 3 (ofSigned 16 b.tjPeak) } ∧ t.board = { b with tjPeak := 0 } ∧
      t = { s with out := t.out, free := t.free, board := t.board }) ∧
    (there → completes (.smbRateFaultsRead false) s fun t =>
      t.out = { Out.none with data := word 9 (b.rateGen + 256 * b.rateClap) } ∧
      t.board = { b with rateGen := 0, rateClap := 0 } ∧ t = { s with out := t.out, free := t.free, board := t.board }) ∧
    (there → completes (.smbRateFaultsRead true) s fun t =>
      t.out = { Out.none with data := word 10 (b.rateAck + 256 * b.rateHpd) } ∧
      t.board = { b with rateAck := 0, rateHpd := 0 } ∧ t = { s with out := t.out, free := t.free, board := t.board }) ∧
    (∀ (c : Byte) (v : Word16), there → completes (.smbWriteWord c v true) s fun t =>
      (c = 0x05 → t.board = { b with limit := v.toInt }) ∧ (c = 0x06 → t.board = { b with alert := b.alert &&& ~~~ v }) ∧
      (c ≠ 0x05 → c ≠ 0x06 → t.board = b) ∧ only t) ∧
    (∀ v : Word16, there → completes (.smbAlertClear ⟨v, true⟩) s fun t => t.board = { b with alert := b.alert &&& ~~~ v } ∧ only t) ∧
    (∀ (c : Byte) (v : Word16) (pec : Bool), ¬ there ∨ pec = false → exec (.smbWriteWord c v pec) s = .next { s with out := Out.none } ∧
      exec (.smbAlertClear ⟨v, pec⟩) s = .next { s with out := Out.none }) ∧
    (∀ c : Byte, ¬ there → exec (.smbReadWord c) s = .next { s with out := Out.none } ∧
      exec .smbTjPeakRead s = .next { s with out := Out.none }) ∧
    (there → b.alert ≠ 0 → completes .smbAlertResponse s fun t =>
      (∃ r < 2, t.out = { Out.none with data := leBytes 1 (2 * (0x58 + b.straps % 4) + r) }) ∧
      t = { s with out := t.out, free := t.free }) ∧
    (b.alert = 0 → exec .smbAlertResponse s = .next { s with out := Out.none })) ∧
  (∀ (s : State) (i : JtagInstr), s.chipInReset = true → exec (.jtagInstruction i) s = .next { s with out := Out.none }) ∧
  (∀ s : State, s.chipInReset = false →
    let p := s.wall.jtagPolicy
    let denied (i : JtagInstr) : Prop := s.regionFree 18 → completes (.jtagInstruction i) s fun t =>
      t.jtag = { s.jtag with last := 0, bypass := true } ∧ t.out.data = [] ∧ (∃ e ∈ t.err.log, e.cause = 0x3008 ∧ e.unit = 18) ∧
      t = { s with out := t.out, host := t.host, err := t.err, free := t.free, jtag := t.jtag }
    exec (.jtagInstruction .bypass) s = .next { s with out := Out.none, jtag := { s.jtag with last := 0, bypass := true } } ∧
    (completes (.jtagInstruction .idcode) s fun t =>
      t.out.data = leBytes 4 (0xB000_0001 + Config.part s.fuses.grade * 0x1000 + 2 * Config.jedecCode.toNat) ∧
      t = { s with out := t.out, jtag := t.jtag }) ∧
    (∀ d, ∀ i ∈ [JtagInstr.samplePreload d, .extest d, .extestPulse d, .extestTrain d], completes (.jtagInstruction i) s fun t =>
      t.out.data.length = d.length ∧ t.jtag.bypass = false ∧ t.jtag.cells = d ∧
      (i = .extest d → (∀ b, b ≠ .safeState → t.ball b = Config.boundaryLevel d b) ∧ (s.chk.safe = true → t.ball .safeState = none)) ∧ t = { s with out := t.out, jtag := t.jtag, free := t.free }) ∧
    denied .other ∧
    (∀ a, ¬ (p % 4 = 1 ∨ p % 4 = 2) ∨ a < Config.benchBase → denied (.readSram a)) ∧
    (∀ a bs, p % 4 ≠ 2 ∨ a < Config.benchBase → denied (.writeSram a bs)) ∧
    (∀ c : Fin 8, bitOf p 2 = false → denied (.haltCore c) ∧ denied (.stepCore c)) ∧
    (∀ a, p % 4 = 1 ∨ p % 4 = 2 → Config.benchBase ≤ a → s.allows .jtag false a 8 = true →
      completes (.jtagInstruction (.readSram a)) s fun t =>
        t.out.data = (List.range 8).map (fun i => s.readByte (a + i)) ∧ t = { s with out := t.out, jtag := t.jtag }) ∧
    (∀ a bs, p % 4 = 2 → Config.benchBase ≤ a → s.allows .jtag true a bs.length = true →
      completes (.jtagInstruction (.writeSram a bs)) s fun t =>
        (∀ i (h : i < bs.length), t.readByte (a + i) = bs[i]) ∧
        (∀ q, q < a ∨ a + bs.length ≤ q → t.readByte q = s.readByte q) ∧
        t.bench = s.bench.map (fun h => h.overwritten a bs) ∧
        t = { s with out := Out.none, mem := t.mem, poison := t.poison, jtag := t.jtag, bench := t.bench,
                     arr := { s.arr with running := t.arr.running } }) ∧
    (∀ a, p % 4 = 1 ∨ p % 4 = 2 → Config.benchBase ≤ a → s.allows .jtag false a 8 = false → s.regionFree 18 →
      completes (.jtagInstruction (.readSram a)) s fun t => t.out.errorResponse = true ∧ t.out.data = [] ∧
        (∃ e ∈ t.err.log, e.cause = 0x3008 ∧ e.unit = 18) ∧
        t = { s with out := t.out, host := t.host, err := t.err, free := t.free, jtag := t.jtag }) ∧
    (∀ a bs, p % 4 = 2 → Config.benchBase ≤ a → s.allows .jtag true a bs.length = false → s.regionFree 18 →
      completes (.jtagInstruction (.writeSram a bs)) s fun t => t.out.errorResponse = true ∧
        (∃ e ∈ t.err.log, e.cause = 0x3008 ∧ e.unit = 18) ∧
        t = { s with out := t.out, host := t.host, err := t.err, free := t.free, jtag := t.jtag }) ∧
    (∀ c : Fin 8, bitOf p 2 = true →
      (completes (.jtagInstruction (.haltCore c)) s fun t => (∀ k, k ∈ t.fw.halted ↔ k = c.val ∨ k ∈ s.fw.halted) ∧
        t = { s with out := Out.none, jtag := t.jtag, fw := { s.fw with halted := t.fw.halted } }) ∧
      (completes (.jtagInstruction (.stepCore c)) s fun t => t.out.data.length = 8 ∧ t = { s with out := t.out, free := t.free })))

/-! ## Pixels and checks -/

/-- The census word of a pixel inside a plane: bit i says whether the i-th of the 24 neighbours in raster order, from (−2, −2), is
brighter than the pixel by more than census_noise, neighbours clamped into the frame (R96). div_round and nearest are the floors
that R99 gives. -/
def Obligations.CensusAndRounding : Prop :=
  (∀ (noise : Nat) (p : Plane) (x y i : Nat), x < p.w → y < p.h → i < 24 →
    let j := if i < 12 then i else i + 1
    let nx := max 0 (min ((x : Int) + ((j % 5 : Nat) : Int) - 2) ((p.w : Int) - 1))
    let ny := max 0 (min ((y : Int) + ((j / 5 : Nat) : Int) - 2) ((p.h : Int) - 1))
    censusWord noise p x y < 2 ^ 24 ∧
    (censusWord noise p x y).testBit i = decide (p.px.getD (y * p.w + x) 0 + noise < p.px.getD (ny.toNat * p.w + nx.toNat) 0)) ∧
  (∀ (a : Int) (b : Nat), 0 < b → divRound a b * (2 * b) ≤ 2 * a + b ∧ 2 * a + b < (divRound a b + 1) * (2 * b)) ∧
  (∀ z : Int, 16 * nearest z ≤ z + 8 ∧ z + 8 < 16 * (nearest z + 1)) ∧
  (∀ (p : Plane) (x y : Int), 0 < p.w → 0 < p.h →
    p.at_ x y = p.px.getD ((max 0 (min y ((p.h : Int) - 1))).toNat * p.w + (max 0 (min x ((p.w : Int) - 1))).toNat) 0)

/-- CRC-32C: the register starts at all ones, takes each byte from its least significant bit with the reflected polynomial
0x82F6_3B78, and is inverted at the end; the CRC of "123456789" is 0xE306_9283, four bytes little-endian (R46). -/
def Obligations.Crc32cIsCastagnoli : Prop :=
  let bit (c : Nat) : Nat := if c % 2 = 1 then c / 2 ^^^ 0x82F63B78 else c / 2
  let reg (bs : List Byte) : Nat := crc32c bs ^^^ 0xFFFF_FFFF
  reg [] = 0xFFFF_FFFF ∧
  (∀ (bs : List Byte) (b : Byte), reg (bs ++ [b]) = bit (bit (bit (bit (bit (bit (bit (bit (reg bs ^^^ b.toNat))))))))) ∧
  (∀ bs, crc32c bs < 2 ^ 32) ∧ crc32c [0x31, 0x32, 0x33, 0x34, 0x35, 0x36, 0x37, 0x38, 0x39] = 0xE306_9283 ∧
  leBytes 4 (crc32c [0x31, 0x32, 0x33, 0x34, 0x35, 0x36, 0x37, 0x38, 0x39]) = [0x83, 0x92, 0x06, 0xE3]
end

