-- ==== Sys2Proof/Laws/Exec.lean ====
section
/-!
SUPPORT. The meaning of each command, one equation for each constructor, so that no proof unfolds `exec`.
-/
namespace Sys2Proof.Machine
namespace Laws

variable (s : State)

@[simp] theorem exec_deviceInfo : exec (.deviceInfo) s = execDeviceInfo s := rfl
@[simp] theorem exec_errorQuery : exec (.errorQuery) s = execErrorQuery s := rfl
@[simp] theorem exec_streamQuery : exec (.streamQuery) s = execStreamQuery s := rfl
@[simp] theorem exec_tensorAlloc : exec (.tensorAlloc) s = execTensorAlloc s := rfl
@[simp] theorem exec_tensorFree : exec (.tensorFree) s = execTensorFree s := rfl
@[simp] theorem exec_reelLoad (content : Option Reel) : exec (.reelLoad content) s = execReelLoad content s := rfl
@[simp] theorem exec_reelDrop : exec (.reelDrop) s = execReelDrop s := rfl
@[simp] theorem exec_streamOpen : exec (.streamOpen) s = execStreamOpen s := rfl
@[simp] theorem exec_streamClose : exec (.streamClose) s = execStreamClose s := rfl
@[simp] theorem exec_outputConfigure : exec (.outputConfigure) s = execOutputConfigure s := rfl
@[simp] theorem exec_setConfigure : exec (.setConfigure) s = execSetConfigure s := rfl
@[simp] theorem exec_launchAt : exec (.launchAt) s = execLaunchAt s := rfl
@[simp] theorem exec_unitRetire : exec (.unitRetire) s = execUnitRetire s := rfl
@[simp] theorem exec_unitReturn : exec (.unitReturn) s = execUnitReturn s := rfl
@[simp] theorem exec_fwStage : exec (.fwStage) s = execFwStage s := rfl
@[simp] theorem exec_fwSwitch : exec (.fwSwitch) s = execFwSwitch s := rfl
@[simp] theorem exec_mboxSubmit (v : Word32) : exec (.mboxSubmit v) s = execMboxSubmit v s := rfl
@[simp] theorem exec_mboxDoneClear (v : Word32) : exec (.mboxDoneClear v) s = execMboxDoneClear v s := rfl
@[simp] theorem exec_mboxErrorClear (v : Word32) : exec (.mboxErrorClear v) s = execMboxErrorClear v s := rfl
@[simp] theorem exec_errStatusClear (v : Word32) : exec (.errStatusClear v) s = execErrStatusClear v s := rfl
@[simp] theorem exec_gateEventsClear (g : Fin 4) (v : Word32) : exec (.gateEventsClear g v) s = execGateEventsClear g v s := rfl
@[simp] theorem exec_clapLoRead (wide : Bool) : exec (.clapLoRead wide) s = execClapLoRead wide s := rfl
@[simp] theorem exec_beatLoRead (wide : Bool) : exec (.beatLoRead wide) s = execBeatLoRead wide s := rfl
@[simp] theorem exec_errLastBeatLoRead (wide : Bool) : exec (.errLastBeatLoRead wide) s = execErrLastBeatLoRead wide s := rfl
@[simp] theorem exec_gateStartLoRead (g : Fin 4) (wide : Bool) : exec (.gateStartLoRead g wide) s = execGateStartLoRead g wide s := rfl
@[simp] theorem exec_gateFpxLoRead (g : Fin 4) (wide : Bool) : exec (.gateFpxLoRead g wide) s = execGateFpxLoRead g wide s := rfl
@[simp] theorem exec_devEventConsumer (v : Word32) : exec (.devEventConsumer v) s = execDevEventConsumer v s := rfl
@[simp] theorem exec_doorbell (stream : Fin 1024) (v : Word32) : exec (.doorbell stream v) s = execDoorbell stream v s := rfl
@[simp] theorem exec_doorbellHandle : exec (.doorbellHandle) s = execDoorbellHandle s := rfl
@[simp] theorem exec_msixTableWrite (dword : Fin 8192) (v : Word32) : exec (.msixTableWrite dword v) s = execMsixTableWrite dword v s := rfl
@[simp] theorem exec_bar0RegisterWrite (offset : Nat) (lo : Word32) (hi : Option Word32) : exec (.bar0RegisterWrite offset lo hi) s = execBar0RegisterWrite offset lo hi s := rfl
@[simp] theorem exec_bar0BadAccess (write : Bool) (offset size : Nat) : exec (.bar0BadAccess write offset size) s = execBar0BadAccess write offset size s := rfl
@[simp] theorem exec_bar2Access (offset len : Nat) (write : Option (List Byte)) : exec (.bar2Access offset len write) s = execBar2Access offset len write s := rfl
@[simp] theorem exec_configRequest (access : ConfigAccess) : exec (.configRequest access) s = execConfigRequest access s := rfl
@[simp] theorem exec_hostIslandReset (cause : HostResetCause) : exec (.hostIslandReset cause) s = execHostIslandReset cause s := rfl
@[simp] theorem exec_hostLinkUp : exec (.hostLinkUp) s = execHostLinkUp s := rfl
@[simp] theorem exec_hostLossClose : exec (.hostLossClose) s = execHostLossClose s := rfl
@[simp] theorem exec_rushSlice (stream : Fin 1024) : exec (.rushSlice stream) s = execRushSlice stream s := rfl
@[simp] theorem exec_retime (stream : Fin 1024) : exec (.retime stream) s = execRetime stream s := rfl
@[simp] theorem exec_proxy (stream : Fin 1024) : exec (.proxy stream) s = execProxy stream s := rfl
@[simp] theorem exec_unknownCommandEntry (stream : Fin 1024) : exec (.unknownCommandEntry stream) s = execUnknownCommandEntry stream s := rfl
@[simp] theorem exec_ovlList (stream : Fin 1024) : exec (.ovlList stream) s = execOvlList stream s := rfl
@[simp] theorem exec_arrivalWindowOpen (stream : Fin 1024) : exec (.arrivalWindowOpen stream) s = execArrivalWindowOpen stream s := rfl
@[simp] theorem exec_keyframeCutoff (stream : Fin 1024) : exec (.keyframeCutoff stream) s = execKeyframeCutoff stream s := rfl
@[simp] theorem exec_pyramidBuild (stream : Fin 1024) (group : Nat) : exec (.pyramidBuild stream group) s = execPyramidBuild stream group s := rfl
@[simp] theorem exec_blockMatch (stream : Fin 1024) (group : Nat) : exec (.blockMatch stream group) s = execBlockMatch stream group s := rfl
@[simp] theorem exec_censusRefine (stream : Fin 1024) (group : Nat) : exec (.censusRefine stream group) s = execCensusRefine stream group s := rfl
@[simp] theorem exec_occlusionConfidence (stream : Fin 1024) (group : Nat) : exec (.occlusionConfidence stream group) s = execOcclusionConfidence stream group s := rfl
@[simp] theorem exec_rayTraversal (stream : Fin 1024) (group : Nat) : exec (.rayTraversal stream group) s = execRayTraversal stream group s := rfl
@[simp] theorem exec_warpFallback (stream : Fin 1024) (frame : Nat) (row : Nat) : exec (.warpFallback stream frame row) s = execWarpFallback stream frame row s := rfl
@[simp] theorem exec_warpDoneToken (stream : Fin 1024) (frame : Nat) (row : Nat) : exec (.warpDoneToken stream frame row) s = execWarpDoneToken stream frame row s := rfl
@[simp] theorem exec_beatBoundary : exec (.beatBoundary) s = execBeatBoundary s := rfl
@[simp] theorem exec_callSheetSeal : exec (.callSheetSeal) s = execCallSheetSeal s := rfl
@[simp] theorem exec_callSheetArrive (corrupt : Bool) : exec (.callSheetArrive corrupt) s = execCallSheetArrive corrupt s := rfl
@[simp] theorem exec_takeAdmit : exec (.takeAdmit) s = execTakeAdmit s := rfl
@[simp] theorem exec_takeEnd (seen : TakeSeen) : exec (.takeEnd seen) s = execTakeEnd seen s := rfl
@[simp] theorem exec_spareRefillDone : exec (.spareRefillDone) s = execSpareRefillDone s := rfl
@[simp] theorem exec_takeDoneToken (remote : Option RemoteToken) : exec (.takeDoneToken remote) s = execTakeDoneToken remote s := rfl
@[simp] theorem exec_dueBeatPassed (stream : Fin 1024) (frame : Nat) (tile : Nat) : exec (.dueBeatPassed stream frame tile) s = execDueBeatPassed stream frame tile s := rfl
@[simp] theorem exec_frameClose (stream : Fin 1024) (frame : Nat) : exec (.frameClose stream frame) s = execFrameClose stream frame s := rfl
@[simp] theorem exec_downgradeNotice : exec (.downgradeNotice) s = execDowngradeNotice s := rfl
@[simp] theorem exec_repairWindow (found : List RowFinding) : exec (.repairWindow found) s = execRepairWindow found s := rfl
@[simp] theorem exec_dollyMoveComplete (engine : Fin 16) (move : Move) (purpose : MovePurpose) (failed : Bool) : exec (.dollyMoveComplete engine move purpose failed) s = execDollyMoveComplete engine move purpose failed s := rfl
@[simp] theorem exec_dramPatrol (stack : Fin 4) (finding : PatrolFinding) : exec (.dramPatrol stack finding) s = execDramPatrol stack finding s := rfl
@[simp] theorem exec_errorDetect (cause : Cause) (unit : ErrorAt) (stream : Option (Fin 1024)) : exec (.errorDetect cause unit stream) s = execErrorDetect cause unit stream s := rfl
@[simp] theorem exec_controlWatchdog (core : Fin 8) : exec (.controlWatchdog core) s = execControlWatchdog core s := rfl
@[simp] theorem exec_tagTimeout (tag : Fin 16384) : exec (.tagTimeout tag) s = execTagTimeout tag s := rfl
@[simp] theorem exec_generatedRecord : exec (.generatedRecord) s = execGeneratedRecord s := rfl
@[simp] theorem exec_fallbackRecord : exec (.fallbackRecord) s = execFallbackRecord s := rfl
@[simp] theorem exec_regionRecord : exec (.regionRecord) s = execRegionRecord s := rfl
@[simp] theorem exec_readbackRecord (g : Fin 4) : exec (.readbackRecord g) s = execReadbackRecord g s := rfl
@[simp] theorem exec_storeRecord : exec (.storeRecord) s = execStoreRecord s := rfl
@[simp] theorem exec_dailiesRecord : exec (.dailiesRecord) s = execDailiesRecord s := rfl
@[simp] theorem exec_checkerStart : exec (.checkerStart) s = execCheckerStart s := rfl
@[simp] theorem exec_checkerFault (kind : CheckerFaultKind) : exec (.checkerFault kind) s = execCheckerFault kind s := rfl
@[simp] theorem exec_checkerSelfTest (good bad : Nat) : exec (.checkerSelfTest good bad) s = execCheckerSelfTest good bad s := rfl
@[simp] theorem exec_checkerScrub (uncorrectable : Bool) : exec (.checkerScrub uncorrectable) s = execCheckerScrub uncorrectable s := rfl
@[simp] theorem exec_safeAckEdge (e : Edge) : exec (.safeAckEdge e) s = execSafeAckEdge e s := rfl
@[simp] theorem exec_safeAckTimeout : exec (.safeAckTimeout) s = execSafeAckTimeout s := rfl
@[simp] theorem exec_ackStuck : exec (.ackStuck) s = execAckStuck s := rfl
@[simp] theorem exec_spiRead (bytes : List Byte) : exec (.spiRead bytes) s = execSpiRead bytes s := rfl
@[simp] theorem exec_spiWrite (bytes : List Byte) : exec (.spiWrite bytes) s = execSpiWrite bytes s := rfl
@[simp] theorem exec_chkRelease (v : Word32) : exec (.chkRelease v) s = execChkRelease v s := rfl
@[simp] theorem exec_chkChallenge (v : Word32) : exec (.chkChallenge v) s = execChkChallenge v s := rfl
@[simp] theorem exec_chkCauseClear (v : Word32) : exec (.chkCauseClear v) s = execChkCauseClear v s := rfl
@[simp] theorem exec_overlayBinRow (stream : Fin 1024) (frame : Nat) (row : Nat) : exec (.overlayBinRow stream frame row) s = execOverlayBinRow stream frame row s := rfl
@[simp] theorem exec_overlayPass (stream : Fin 1024) (frame : Nat) (row : Nat) : exec (.overlayPass stream frame row) s = execOverlayPass stream frame row s := rfl
@[simp] theorem exec_overlayPassAbandon (stream : Fin 1024) (frame : Nat) (row : Nat) : exec (.overlayPassAbandon stream frame row) s = execOverlayPassAbandon stream frame row s := rfl
@[simp] theorem exec_tileRowLatch (stream : Fin 1024) (frame : Nat) (row : Nat) : exec (.tileRowLatch stream frame row) s = execTileRowLatch stream frame row s := rfl
@[simp] theorem exec_lineFetch (g : Fin 4) : exec (.lineFetch g) s = execLineFetch g s := rfl
@[simp] theorem exec_lineRead (g : Fin 4) : exec (.lineRead g) s = execLineRead g s := rfl
@[simp] theorem exec_lineMatch (g : Fin 4) : exec (.lineMatch g) s = execLineMatch g s := rfl
@[simp] theorem exec_sob (g : Fin 4) : exec (.sob g) s = execSob g s := rfl
@[simp] theorem exec_frameDone (g : Fin 4) : exec (.frameDone g) s = execFrameDone g s := rfl
@[simp] theorem exec_gatePllLock (g : Fin 4) : exec (.gatePllLock g) s = execGatePllLock g s := rfl
@[simp] theorem exec_hpdEdge (g : Fin 4) (e : Edge) : exec (.hpdEdge g e) s = execHpdEdge g e s := rfl
@[simp] theorem exec_hpdUnplug (g : Fin 4) : exec (.hpdUnplug g) s = execHpdUnplug g s := rfl
@[simp] theorem exec_linkTraining (g : Fin 4) (seen : SinkSeen) : exec (.linkTraining g seen) s = execLinkTraining g seen s := rfl
@[simp] theorem exec_genlockEdge (e : Edge) : exec (.genlockEdge e) s = execGenlockEdge e s := rfl
@[simp] theorem exec_genlockLost (g : Fin 4) : exec (.genlockLost g) s = execGenlockLost g s := rfl
@[simp] theorem exec_flitSlot (port : Fin 6) : exec (.flitSlot port) s = execFlitSlot port s := rfl
@[simp] theorem exec_flitReceive (port : Fin 6) (bytes : List Byte) (frac : Byte) : exec (.flitReceive port bytes frac) s = execFlitReceive port bytes frac s := rfl
@[simp] theorem exec_retryWaitExpiry (port : Fin 6) : exec (.retryWaitExpiry port) s = execRetryWaitExpiry port s := rfl
@[simp] theorem exec_replayTimeout (port : Fin 6) : exec (.replayTimeout port) s = execReplayTimeout port s := rfl
@[simp] theorem exec_spliceTrainingAttempt (port : Fin 6) (peer : Bool) : exec (.spliceTrainingAttempt port peer) s = execSpliceTrainingAttempt port peer s := rfl
@[simp] theorem exec_spliceTrainingDone (port : Fin 6) (seen : TrainSeen) : exec (.spliceTrainingDone port seen) s = execSpliceTrainingDone port seen s := rfl
@[simp] theorem exec_retrainTimeout (port : Fin 6) : exec (.retrainTimeout port) s = execRetrainTimeout port s := rfl
@[simp] theorem exec_clapperCorrection : exec (.clapperCorrection) s = execClapperCorrection s := rfl
@[simp] theorem exec_clapInEdge (e : Edge) : exec (.clapInEdge e) s = execClapInEdge e s := rfl
@[simp] theorem exec_clapSourceLost : exec (.clapSourceLost) s = execClapSourceLost s := rfl
@[simp] theorem exec_launchMessage (peer : Fin 16) (msg : LaunchMsg) : exec (.launchMessage peer msg) s = execLaunchMessage peer msg s := rfl
@[simp] theorem exec_launchGoPoint : exec (.launchGoPoint) s = execLaunchGoPoint s := rfl
@[simp] theorem exec_launchCommit : exec (.launchCommit) s = execLaunchCommit s := rfl
@[simp] theorem exec_setCue (cue : Cue) : exec (.setCue cue) s = execSetCue cue s := rfl
@[simp] theorem exec_exchangePhase (takeId : Nat) : exec (.exchangePhase takeId) s = execExchangePhase takeId s := rfl
@[simp] theorem exec_batchFrameComplete (stream : Fin 1024) : exec (.batchFrameComplete stream) s = execBatchFrameComplete stream s := rfl
@[simp] theorem exec_returningTestDone (kind : UnitKind) (index : Nat) (pass : Bool) : exec (.returningTestDone kind index pass) s = execReturningTestDone kind index pass s := rfl
@[simp] theorem exec_portReturnTimeout (port : Fin 6) : exec (.portReturnTimeout port) s = execPortReturnTimeout port s := rfl
@[simp] theorem exec_fwSwitchReady : exec (.fwSwitchReady) s = execFwSwitchReady s := rfl
@[simp] theorem exec_fwSwitchTimeout : exec (.fwSwitchTimeout) s = execFwSwitchTimeout s := rfl
@[simp] theorem exec_rollbackFuseUpdate : exec (.rollbackFuseUpdate) s = execRollbackFuseUpdate s := rfl
@[simp] theorem exec_fundamentalReset (cause : ResetCause) : exec (.fundamentalReset cause) s = execFundamentalReset cause s := rfl
@[simp] theorem exec_bootPllLock : exec (.bootPllLock) s = execBootPllLock s := rfl
@[simp] theorem exec_bootImageVerify : exec (.bootImageVerify) s = execBootImageVerify s := rfl
@[simp] theorem exec_fwLock (v : Word32) : exec (.fwLock v) s = execFwLock v s := rfl
@[simp] theorem exec_fwReady (failedBlocks : List (Fin 36)) : exec (.fwReady failedBlocks) s = execFwReady failedBlocks s := rfl
@[simp] theorem exec_resetNAssert (e : Edge) : exec (.resetNAssert e) s = execResetNAssert e s := rfl
@[simp] theorem exec_perstNAssert (e : Edge) : exec (.perstNAssert e) s = execPerstNAssert e s := rfl
@[simp] theorem exec_deferredEdge (pin : InputPin) : exec (.deferredEdge pin) s = execDeferredEdge pin s := rfl
@[simp] theorem exec_brownOut : exec (.brownOut) s = execBrownOut s := rfl
@[simp] theorem exec_thermalTrip : exec (.thermalTrip) s = execThermalTrip s := rfl
@[simp] theorem exec_clapperFault : exec (.clapperFault) s = execClapperFault s := rfl
@[simp] theorem exec_dramHot (stack : Fin 4) (tempQ : Int) : exec (.dramHot stack tempQ) s = execDramHot stack tempQ s := rfl
@[simp] theorem exec_tjAlert (tempQ : Int) : exec (.tjAlert tempQ) s = execTjAlert tempQ s := rfl
@[simp] theorem exec_smbReadWord (code : Byte) : exec (.smbReadWord code) s = execSmbReadWord code s := rfl
@[simp] theorem exec_smbWriteWord (code : Byte) (v : Word16) (pecGood : Bool) : exec (.smbWriteWord code v pecGood) s = execSmbWriteWord code v pecGood s := rfl
@[simp] theorem exec_smbAlertResponse : exec (.smbAlertResponse) s = execSmbAlertResponse s := rfl
@[simp] theorem exec_smbTjPeakRead : exec (.smbTjPeakRead) s = execSmbTjPeakRead s := rfl
@[simp] theorem exec_smbRateFaultsRead (second : Bool) : exec (.smbRateFaultsRead second) s = execSmbRateFaultsRead second s := rfl
@[simp] theorem exec_smbAlertClear (v : PecWord) : exec (.smbAlertClear v) s = execSmbAlertClear v s := rfl
@[simp] theorem exec_jtagInstruction (instr : JtagInstr) : exec (.jtagInstruction instr) s = execJtagInstruction instr s := rfl
@[simp] theorem exec_gateFrameStart (g : Fin 4) : exec (.gateFrameStart g) s = execGateFrameStart g s := rfl
@[simp] theorem exec_acceptedSourceWrite : exec (.acceptedSourceWrite) s = execAcceptedSourceWrite s := rfl
@[simp] theorem exec_dramAlert (tempQ : Int) : exec (.dramAlert tempQ) s = execDramAlert tempQ s := rfl
@[simp] theorem exec_flashWriteDone : exec (.flashWriteDone) s = execFlashWriteDone s := rfl
@[simp] theorem exec_pagePatternTestDone (page : Nat) (pass : Bool) : exec (.pagePatternTestDone page pass) s = execPagePatternTestDone page pass s := rfl
@[simp] theorem exec_idleTimeRepair (bank : BankPass) : exec (.idleTimeRepair bank) s = execIdleTimeRepair bank s := rfl

end Laws
end Sys2Proof.Machine
end

