-- ==== Sys2Proof/Laws/State.lean ====
section
/-!
SUPPORT. What each named update of Machine/Ops.lean leaves alone, field by field, and what it does to the part it names,
so that no proof unfolds a record update.
-/
namespace Sys2Proof.Machine
namespace Laws

variable (s : State)

/-- Two states are equal when their fields are. -/
theorem state_ext {s t : State} (h0 : s.pending = t.pending) (h1 : s.free = t.free) (h2 : s.out = t.out) (h3 : s.fuses = t.fuses) (h4 : s.flash = t.flash) (h5 : s.clock = t.clock) (h6 : s.dev = t.dev) (h7 : s.host = t.host) (h8 : s.mbox = t.mbox) (h9 : s.doorbells = t.doorbells) (h10 : s.err = t.err) (h11 : s.mem = t.mem) (h12 : s.poison = t.poison) (h13 : s.wall = t.wall) (h14 : s.pool = t.pool) (h15 : s.tensors = t.tensors) (h16 : s.reels = t.reels) (h17 : s.streams = t.streams) (h18 : s.opens = t.opens) (h19 : s.arr = t.arr) (h20 : s.seq = t.seq) (h21 : s.dailies = t.dailies) (h22 : s.bench = t.bench) (h23 : s.units = t.units) (h24 : s.motion = t.motion) (h25 : s.chk = t.chk) (h26 : s.ovl = t.ovl) (h27 : s.gates = t.gates) (h28 : s.ports = t.ports) (h29 : s.set = t.set) (h30 : s.fw = t.fw) (h31 : s.inputs = t.inputs) (h32 : s.board = t.board) (h33 : s.tags = t.tags) (h34 : s.jtag = t.jtag) : s = t := by
  cases s; cases t; simp_all

/-! ### fresh -/

@[simp] theorem fresh_pending : (s.fresh).pending = s.pending := rfl
@[simp] theorem fresh_free : (s.fresh).free = s.free := rfl
@[simp] theorem fresh_fuses : (s.fresh).fuses = s.fuses := rfl
@[simp] theorem fresh_flash : (s.fresh).flash = s.flash := rfl
@[simp] theorem fresh_clock : (s.fresh).clock = s.clock := rfl
@[simp] theorem fresh_dev : (s.fresh).dev = s.dev := rfl
@[simp] theorem fresh_host : (s.fresh).host = s.host := rfl
@[simp] theorem fresh_mbox : (s.fresh).mbox = s.mbox := rfl
@[simp] theorem fresh_doorbells : (s.fresh).doorbells = s.doorbells := rfl
@[simp] theorem fresh_err : (s.fresh).err = s.err := rfl
@[simp] theorem fresh_mem : (s.fresh).mem = s.mem := rfl
@[simp] theorem fresh_poison : (s.fresh).poison = s.poison := rfl
@[simp] theorem fresh_wall : (s.fresh).wall = s.wall := rfl
@[simp] theorem fresh_pool : (s.fresh).pool = s.pool := rfl
@[simp] theorem fresh_tensors : (s.fresh).tensors = s.tensors := rfl
@[simp] theorem fresh_reels : (s.fresh).reels = s.reels := rfl
@[simp] theorem fresh_streams : (s.fresh).streams = s.streams := rfl
@[simp] theorem fresh_opens : (s.fresh).opens = s.opens := rfl
@[simp] theorem fresh_arr : (s.fresh).arr = s.arr := rfl
@[simp] theorem fresh_seq : (s.fresh).seq = s.seq := rfl
@[simp] theorem fresh_dailies : (s.fresh).dailies = s.dailies := rfl
@[simp] theorem fresh_bench : (s.fresh).bench = s.bench := rfl
@[simp] theorem fresh_units : (s.fresh).units = s.units := rfl
@[simp] theorem fresh_motion : (s.fresh).motion = s.motion := rfl
@[simp] theorem fresh_chk : (s.fresh).chk = s.chk := rfl
@[simp] theorem fresh_ovl : (s.fresh).ovl = s.ovl := rfl
@[simp] theorem fresh_gates : (s.fresh).gates = s.gates := rfl
@[simp] theorem fresh_ports : (s.fresh).ports = s.ports := rfl
@[simp] theorem fresh_set : (s.fresh).set = s.set := rfl
@[simp] theorem fresh_fw : (s.fresh).fw = s.fw := rfl
@[simp] theorem fresh_inputs : (s.fresh).inputs = s.inputs := rfl
@[simp] theorem fresh_board : (s.fresh).board = s.board := rfl
@[simp] theorem fresh_tags : (s.fresh).tags = s.tags := rfl
@[simp] theorem fresh_jtag : (s.fresh).jtag = s.jtag := rfl

/-! ### spend -/

@[simp] theorem spend_pending : (s.spend).pending = s.pending := rfl
@[simp] theorem spend_out : (s.spend).out = s.out := rfl
@[simp] theorem spend_fuses : (s.spend).fuses = s.fuses := rfl
@[simp] theorem spend_flash : (s.spend).flash = s.flash := rfl
@[simp] theorem spend_clock : (s.spend).clock = s.clock := rfl
@[simp] theorem spend_dev : (s.spend).dev = s.dev := rfl
@[simp] theorem spend_host : (s.spend).host = s.host := rfl
@[simp] theorem spend_mbox : (s.spend).mbox = s.mbox := rfl
@[simp] theorem spend_doorbells : (s.spend).doorbells = s.doorbells := rfl
@[simp] theorem spend_err : (s.spend).err = s.err := rfl
@[simp] theorem spend_mem : (s.spend).mem = s.mem := rfl
@[simp] theorem spend_poison : (s.spend).poison = s.poison := rfl
@[simp] theorem spend_wall : (s.spend).wall = s.wall := rfl
@[simp] theorem spend_pool : (s.spend).pool = s.pool := rfl
@[simp] theorem spend_tensors : (s.spend).tensors = s.tensors := rfl
@[simp] theorem spend_reels : (s.spend).reels = s.reels := rfl
@[simp] theorem spend_streams : (s.spend).streams = s.streams := rfl
@[simp] theorem spend_opens : (s.spend).opens = s.opens := rfl
@[simp] theorem spend_arr : (s.spend).arr = s.arr := rfl
@[simp] theorem spend_seq : (s.spend).seq = s.seq := rfl
@[simp] theorem spend_dailies : (s.spend).dailies = s.dailies := rfl
@[simp] theorem spend_bench : (s.spend).bench = s.bench := rfl
@[simp] theorem spend_units : (s.spend).units = s.units := rfl
@[simp] theorem spend_motion : (s.spend).motion = s.motion := rfl
@[simp] theorem spend_chk : (s.spend).chk = s.chk := rfl
@[simp] theorem spend_ovl : (s.spend).ovl = s.ovl := rfl
@[simp] theorem spend_gates : (s.spend).gates = s.gates := rfl
@[simp] theorem spend_ports : (s.spend).ports = s.ports := rfl
@[simp] theorem spend_set : (s.spend).set = s.set := rfl
@[simp] theorem spend_fw : (s.spend).fw = s.fw := rfl
@[simp] theorem spend_inputs : (s.spend).inputs = s.inputs := rfl
@[simp] theorem spend_board : (s.spend).board = s.board := rfl
@[simp] theorem spend_tags : (s.spend).tags = s.tags := rfl
@[simp] theorem spend_jtag : (s.spend).jtag = s.jtag := rfl

/-! ### answer -/

@[simp] theorem answer_pending (b : List Byte) : (s.answer b).pending = s.pending := rfl
@[simp] theorem answer_free (b : List Byte) : (s.answer b).free = s.free := rfl
@[simp] theorem answer_fuses (b : List Byte) : (s.answer b).fuses = s.fuses := rfl
@[simp] theorem answer_flash (b : List Byte) : (s.answer b).flash = s.flash := rfl
@[simp] theorem answer_clock (b : List Byte) : (s.answer b).clock = s.clock := rfl
@[simp] theorem answer_dev (b : List Byte) : (s.answer b).dev = s.dev := rfl
@[simp] theorem answer_host (b : List Byte) : (s.answer b).host = s.host := rfl
@[simp] theorem answer_mbox (b : List Byte) : (s.answer b).mbox = s.mbox := rfl
@[simp] theorem answer_doorbells (b : List Byte) : (s.answer b).doorbells = s.doorbells := rfl
@[simp] theorem answer_err (b : List Byte) : (s.answer b).err = s.err := rfl
@[simp] theorem answer_mem (b : List Byte) : (s.answer b).mem = s.mem := rfl
@[simp] theorem answer_poison (b : List Byte) : (s.answer b).poison = s.poison := rfl
@[simp] theorem answer_wall (b : List Byte) : (s.answer b).wall = s.wall := rfl
@[simp] theorem answer_pool (b : List Byte) : (s.answer b).pool = s.pool := rfl
@[simp] theorem answer_tensors (b : List Byte) : (s.answer b).tensors = s.tensors := rfl
@[simp] theorem answer_reels (b : List Byte) : (s.answer b).reels = s.reels := rfl
@[simp] theorem answer_streams (b : List Byte) : (s.answer b).streams = s.streams := rfl
@[simp] theorem answer_opens (b : List Byte) : (s.answer b).opens = s.opens := rfl
@[simp] theorem answer_arr (b : List Byte) : (s.answer b).arr = s.arr := rfl
@[simp] theorem answer_seq (b : List Byte) : (s.answer b).seq = s.seq := rfl
@[simp] theorem answer_dailies (b : List Byte) : (s.answer b).dailies = s.dailies := rfl
@[simp] theorem answer_bench (b : List Byte) : (s.answer b).bench = s.bench := rfl
@[simp] theorem answer_units (b : List Byte) : (s.answer b).units = s.units := rfl
@[simp] theorem answer_motion (b : List Byte) : (s.answer b).motion = s.motion := rfl
@[simp] theorem answer_chk (b : List Byte) : (s.answer b).chk = s.chk := rfl
@[simp] theorem answer_ovl (b : List Byte) : (s.answer b).ovl = s.ovl := rfl
@[simp] theorem answer_gates (b : List Byte) : (s.answer b).gates = s.gates := rfl
@[simp] theorem answer_ports (b : List Byte) : (s.answer b).ports = s.ports := rfl
@[simp] theorem answer_set (b : List Byte) : (s.answer b).set = s.set := rfl
@[simp] theorem answer_fw (b : List Byte) : (s.answer b).fw = s.fw := rfl
@[simp] theorem answer_inputs (b : List Byte) : (s.answer b).inputs = s.inputs := rfl
@[simp] theorem answer_board (b : List Byte) : (s.answer b).board = s.board := rfl
@[simp] theorem answer_tags (b : List Byte) : (s.answer b).tags = s.tags := rfl
@[simp] theorem answer_jtag (b : List Byte) : (s.answer b).jtag = s.jtag := rfl

/-! ### updStream -/

@[simp] theorem updStream_pending (i : Nat) (f : Stream → Stream) : (s.updStream i f).pending = s.pending := by unfold State.updStream; split <;> rfl
@[simp] theorem updStream_free (i : Nat) (f : Stream → Stream) : (s.updStream i f).free = s.free := by unfold State.updStream; split <;> rfl
@[simp] theorem updStream_out (i : Nat) (f : Stream → Stream) : (s.updStream i f).out = s.out := by unfold State.updStream; split <;> rfl
@[simp] theorem updStream_fuses (i : Nat) (f : Stream → Stream) : (s.updStream i f).fuses = s.fuses := by unfold State.updStream; split <;> rfl
@[simp] theorem updStream_flash (i : Nat) (f : Stream → Stream) : (s.updStream i f).flash = s.flash := by unfold State.updStream; split <;> rfl
@[simp] theorem updStream_clock (i : Nat) (f : Stream → Stream) : (s.updStream i f).clock = s.clock := by unfold State.updStream; split <;> rfl
@[simp] theorem updStream_dev (i : Nat) (f : Stream → Stream) : (s.updStream i f).dev = s.dev := by unfold State.updStream; split <;> rfl
@[simp] theorem updStream_host (i : Nat) (f : Stream → Stream) : (s.updStream i f).host = s.host := by unfold State.updStream; split <;> rfl
@[simp] theorem updStream_mbox (i : Nat) (f : Stream → Stream) : (s.updStream i f).mbox = s.mbox := by unfold State.updStream; split <;> rfl
@[simp] theorem updStream_doorbells (i : Nat) (f : Stream → Stream) : (s.updStream i f).doorbells = s.doorbells := by unfold State.updStream; split <;> rfl
@[simp] theorem updStream_err (i : Nat) (f : Stream → Stream) : (s.updStream i f).err = s.err := by unfold State.updStream; split <;> rfl
@[simp] theorem updStream_mem (i : Nat) (f : Stream → Stream) : (s.updStream i f).mem = s.mem := by unfold State.updStream; split <;> rfl
@[simp] theorem updStream_poison (i : Nat) (f : Stream → Stream) : (s.updStream i f).poison = s.poison := by unfold State.updStream; split <;> rfl
@[simp] theorem updStream_wall (i : Nat) (f : Stream → Stream) : (s.updStream i f).wall = s.wall := by unfold State.updStream; split <;> rfl
@[simp] theorem updStream_pool (i : Nat) (f : Stream → Stream) : (s.updStream i f).pool = s.pool := by unfold State.updStream; split <;> rfl
@[simp] theorem updStream_tensors (i : Nat) (f : Stream → Stream) : (s.updStream i f).tensors = s.tensors := by unfold State.updStream; split <;> rfl
@[simp] theorem updStream_reels (i : Nat) (f : Stream → Stream) : (s.updStream i f).reels = s.reels := by unfold State.updStream; split <;> rfl
@[simp] theorem updStream_opens (i : Nat) (f : Stream → Stream) : (s.updStream i f).opens = s.opens := by unfold State.updStream; split <;> rfl
@[simp] theorem updStream_arr (i : Nat) (f : Stream → Stream) : (s.updStream i f).arr = s.arr := by unfold State.updStream; split <;> rfl
@[simp] theorem updStream_seq (i : Nat) (f : Stream → Stream) : (s.updStream i f).seq = s.seq := by unfold State.updStream; split <;> rfl
@[simp] theorem updStream_dailies (i : Nat) (f : Stream → Stream) : (s.updStream i f).dailies = s.dailies := by unfold State.updStream; split <;> rfl
@[simp] theorem updStream_bench (i : Nat) (f : Stream → Stream) : (s.updStream i f).bench = s.bench := by unfold State.updStream; split <;> rfl
@[simp] theorem updStream_units (i : Nat) (f : Stream → Stream) : (s.updStream i f).units = s.units := by unfold State.updStream; split <;> rfl
@[simp] theorem updStream_motion (i : Nat) (f : Stream → Stream) : (s.updStream i f).motion = s.motion := by unfold State.updStream; split <;> rfl
@[simp] theorem updStream_chk (i : Nat) (f : Stream → Stream) : (s.updStream i f).chk = s.chk := by unfold State.updStream; split <;> rfl
@[simp] theorem updStream_ovl (i : Nat) (f : Stream → Stream) : (s.updStream i f).ovl = s.ovl := by unfold State.updStream; split <;> rfl
@[simp] theorem updStream_gates (i : Nat) (f : Stream → Stream) : (s.updStream i f).gates = s.gates := by unfold State.updStream; split <;> rfl
@[simp] theorem updStream_ports (i : Nat) (f : Stream → Stream) : (s.updStream i f).ports = s.ports := by unfold State.updStream; split <;> rfl
@[simp] theorem updStream_set (i : Nat) (f : Stream → Stream) : (s.updStream i f).set = s.set := by unfold State.updStream; split <;> rfl
@[simp] theorem updStream_fw (i : Nat) (f : Stream → Stream) : (s.updStream i f).fw = s.fw := by unfold State.updStream; split <;> rfl
@[simp] theorem updStream_inputs (i : Nat) (f : Stream → Stream) : (s.updStream i f).inputs = s.inputs := by unfold State.updStream; split <;> rfl
@[simp] theorem updStream_board (i : Nat) (f : Stream → Stream) : (s.updStream i f).board = s.board := by unfold State.updStream; split <;> rfl
@[simp] theorem updStream_tags (i : Nat) (f : Stream → Stream) : (s.updStream i f).tags = s.tags := by unfold State.updStream; split <;> rfl
@[simp] theorem updStream_jtag (i : Nat) (f : Stream → Stream) : (s.updStream i f).jtag = s.jtag := by unfold State.updStream; split <;> rfl

/-! ### updGate -/

@[simp] theorem updGate_pending (i : Nat) (f : Gate → Gate) : (s.updGate i f).pending = s.pending := by unfold State.updGate; split <;> rfl
@[simp] theorem updGate_free (i : Nat) (f : Gate → Gate) : (s.updGate i f).free = s.free := by unfold State.updGate; split <;> rfl
@[simp] theorem updGate_out (i : Nat) (f : Gate → Gate) : (s.updGate i f).out = s.out := by unfold State.updGate; split <;> rfl
@[simp] theorem updGate_fuses (i : Nat) (f : Gate → Gate) : (s.updGate i f).fuses = s.fuses := by unfold State.updGate; split <;> rfl
@[simp] theorem updGate_flash (i : Nat) (f : Gate → Gate) : (s.updGate i f).flash = s.flash := by unfold State.updGate; split <;> rfl
@[simp] theorem updGate_clock (i : Nat) (f : Gate → Gate) : (s.updGate i f).clock = s.clock := by unfold State.updGate; split <;> rfl
@[simp] theorem updGate_dev (i : Nat) (f : Gate → Gate) : (s.updGate i f).dev = s.dev := by unfold State.updGate; split <;> rfl
@[simp] theorem updGate_host (i : Nat) (f : Gate → Gate) : (s.updGate i f).host = s.host := by unfold State.updGate; split <;> rfl
@[simp] theorem updGate_mbox (i : Nat) (f : Gate → Gate) : (s.updGate i f).mbox = s.mbox := by unfold State.updGate; split <;> rfl
@[simp] theorem updGate_doorbells (i : Nat) (f : Gate → Gate) : (s.updGate i f).doorbells = s.doorbells := by unfold State.updGate; split <;> rfl
@[simp] theorem updGate_err (i : Nat) (f : Gate → Gate) : (s.updGate i f).err = s.err := by unfold State.updGate; split <;> rfl
@[simp] theorem updGate_mem (i : Nat) (f : Gate → Gate) : (s.updGate i f).mem = s.mem := by unfold State.updGate; split <;> rfl
@[simp] theorem updGate_poison (i : Nat) (f : Gate → Gate) : (s.updGate i f).poison = s.poison := by unfold State.updGate; split <;> rfl
@[simp] theorem updGate_wall (i : Nat) (f : Gate → Gate) : (s.updGate i f).wall = s.wall := by unfold State.updGate; split <;> rfl
@[simp] theorem updGate_pool (i : Nat) (f : Gate → Gate) : (s.updGate i f).pool = s.pool := by unfold State.updGate; split <;> rfl
@[simp] theorem updGate_tensors (i : Nat) (f : Gate → Gate) : (s.updGate i f).tensors = s.tensors := by unfold State.updGate; split <;> rfl
@[simp] theorem updGate_reels (i : Nat) (f : Gate → Gate) : (s.updGate i f).reels = s.reels := by unfold State.updGate; split <;> rfl
@[simp] theorem updGate_streams (i : Nat) (f : Gate → Gate) : (s.updGate i f).streams = s.streams := by unfold State.updGate; split <;> rfl
@[simp] theorem updGate_opens (i : Nat) (f : Gate → Gate) : (s.updGate i f).opens = s.opens := by unfold State.updGate; split <;> rfl
@[simp] theorem updGate_arr (i : Nat) (f : Gate → Gate) : (s.updGate i f).arr = s.arr := by unfold State.updGate; split <;> rfl
@[simp] theorem updGate_seq (i : Nat) (f : Gate → Gate) : (s.updGate i f).seq = s.seq := by unfold State.updGate; split <;> rfl
@[simp] theorem updGate_dailies (i : Nat) (f : Gate → Gate) : (s.updGate i f).dailies = s.dailies := by unfold State.updGate; split <;> rfl
@[simp] theorem updGate_bench (i : Nat) (f : Gate → Gate) : (s.updGate i f).bench = s.bench := by unfold State.updGate; split <;> rfl
@[simp] theorem updGate_units (i : Nat) (f : Gate → Gate) : (s.updGate i f).units = s.units := by unfold State.updGate; split <;> rfl
@[simp] theorem updGate_motion (i : Nat) (f : Gate → Gate) : (s.updGate i f).motion = s.motion := by unfold State.updGate; split <;> rfl
@[simp] theorem updGate_chk (i : Nat) (f : Gate → Gate) : (s.updGate i f).chk = s.chk := by unfold State.updGate; split <;> rfl
@[simp] theorem updGate_ovl (i : Nat) (f : Gate → Gate) : (s.updGate i f).ovl = s.ovl := by unfold State.updGate; split <;> rfl
@[simp] theorem updGate_ports (i : Nat) (f : Gate → Gate) : (s.updGate i f).ports = s.ports := by unfold State.updGate; split <;> rfl
@[simp] theorem updGate_set (i : Nat) (f : Gate → Gate) : (s.updGate i f).set = s.set := by unfold State.updGate; split <;> rfl
@[simp] theorem updGate_fw (i : Nat) (f : Gate → Gate) : (s.updGate i f).fw = s.fw := by unfold State.updGate; split <;> rfl
@[simp] theorem updGate_inputs (i : Nat) (f : Gate → Gate) : (s.updGate i f).inputs = s.inputs := by unfold State.updGate; split <;> rfl
@[simp] theorem updGate_board (i : Nat) (f : Gate → Gate) : (s.updGate i f).board = s.board := by unfold State.updGate; split <;> rfl
@[simp] theorem updGate_tags (i : Nat) (f : Gate → Gate) : (s.updGate i f).tags = s.tags := by unfold State.updGate; split <;> rfl
@[simp] theorem updGate_jtag (i : Nat) (f : Gate → Gate) : (s.updGate i f).jtag = s.jtag := by unfold State.updGate; split <;> rfl

/-! ### updPort -/

@[simp] theorem updPort_pending (i : Nat) (f : Port → Port) : (s.updPort i f).pending = s.pending := by unfold State.updPort; split <;> rfl
@[simp] theorem updPort_free (i : Nat) (f : Port → Port) : (s.updPort i f).free = s.free := by unfold State.updPort; split <;> rfl
@[simp] theorem updPort_out (i : Nat) (f : Port → Port) : (s.updPort i f).out = s.out := by unfold State.updPort; split <;> rfl
@[simp] theorem updPort_fuses (i : Nat) (f : Port → Port) : (s.updPort i f).fuses = s.fuses := by unfold State.updPort; split <;> rfl
@[simp] theorem updPort_flash (i : Nat) (f : Port → Port) : (s.updPort i f).flash = s.flash := by unfold State.updPort; split <;> rfl
@[simp] theorem updPort_clock (i : Nat) (f : Port → Port) : (s.updPort i f).clock = s.clock := by unfold State.updPort; split <;> rfl
@[simp] theorem updPort_dev (i : Nat) (f : Port → Port) : (s.updPort i f).dev = s.dev := by unfold State.updPort; split <;> rfl
@[simp] theorem updPort_host (i : Nat) (f : Port → Port) : (s.updPort i f).host = s.host := by unfold State.updPort; split <;> rfl
@[simp] theorem updPort_mbox (i : Nat) (f : Port → Port) : (s.updPort i f).mbox = s.mbox := by unfold State.updPort; split <;> rfl
@[simp] theorem updPort_doorbells (i : Nat) (f : Port → Port) : (s.updPort i f).doorbells = s.doorbells := by unfold State.updPort; split <;> rfl
@[simp] theorem updPort_err (i : Nat) (f : Port → Port) : (s.updPort i f).err = s.err := by unfold State.updPort; split <;> rfl
@[simp] theorem updPort_mem (i : Nat) (f : Port → Port) : (s.updPort i f).mem = s.mem := by unfold State.updPort; split <;> rfl
@[simp] theorem updPort_poison (i : Nat) (f : Port → Port) : (s.updPort i f).poison = s.poison := by unfold State.updPort; split <;> rfl
@[simp] theorem updPort_wall (i : Nat) (f : Port → Port) : (s.updPort i f).wall = s.wall := by unfold State.updPort; split <;> rfl
@[simp] theorem updPort_pool (i : Nat) (f : Port → Port) : (s.updPort i f).pool = s.pool := by unfold State.updPort; split <;> rfl
@[simp] theorem updPort_tensors (i : Nat) (f : Port → Port) : (s.updPort i f).tensors = s.tensors := by unfold State.updPort; split <;> rfl
@[simp] theorem updPort_reels (i : Nat) (f : Port → Port) : (s.updPort i f).reels = s.reels := by unfold State.updPort; split <;> rfl
@[simp] theorem updPort_streams (i : Nat) (f : Port → Port) : (s.updPort i f).streams = s.streams := by unfold State.updPort; split <;> rfl
@[simp] theorem updPort_opens (i : Nat) (f : Port → Port) : (s.updPort i f).opens = s.opens := by unfold State.updPort; split <;> rfl
@[simp] theorem updPort_arr (i : Nat) (f : Port → Port) : (s.updPort i f).arr = s.arr := by unfold State.updPort; split <;> rfl
@[simp] theorem updPort_seq (i : Nat) (f : Port → Port) : (s.updPort i f).seq = s.seq := by unfold State.updPort; split <;> rfl
@[simp] theorem updPort_dailies (i : Nat) (f : Port → Port) : (s.updPort i f).dailies = s.dailies := by unfold State.updPort; split <;> rfl
@[simp] theorem updPort_bench (i : Nat) (f : Port → Port) : (s.updPort i f).bench = s.bench := by unfold State.updPort; split <;> rfl
@[simp] theorem updPort_units (i : Nat) (f : Port → Port) : (s.updPort i f).units = s.units := by unfold State.updPort; split <;> rfl
@[simp] theorem updPort_motion (i : Nat) (f : Port → Port) : (s.updPort i f).motion = s.motion := by unfold State.updPort; split <;> rfl
@[simp] theorem updPort_chk (i : Nat) (f : Port → Port) : (s.updPort i f).chk = s.chk := by unfold State.updPort; split <;> rfl
@[simp] theorem updPort_ovl (i : Nat) (f : Port → Port) : (s.updPort i f).ovl = s.ovl := by unfold State.updPort; split <;> rfl
@[simp] theorem updPort_gates (i : Nat) (f : Port → Port) : (s.updPort i f).gates = s.gates := by unfold State.updPort; split <;> rfl
@[simp] theorem updPort_set (i : Nat) (f : Port → Port) : (s.updPort i f).set = s.set := by unfold State.updPort; split <;> rfl
@[simp] theorem updPort_fw (i : Nat) (f : Port → Port) : (s.updPort i f).fw = s.fw := by unfold State.updPort; split <;> rfl
@[simp] theorem updPort_inputs (i : Nat) (f : Port → Port) : (s.updPort i f).inputs = s.inputs := by unfold State.updPort; split <;> rfl
@[simp] theorem updPort_board (i : Nat) (f : Port → Port) : (s.updPort i f).board = s.board := by unfold State.updPort; split <;> rfl
@[simp] theorem updPort_tags (i : Nat) (f : Port → Port) : (s.updPort i f).tags = s.tags := by unfold State.updPort; split <;> rfl
@[simp] theorem updPort_jtag (i : Nat) (f : Port → Port) : (s.updPort i f).jtag = s.jtag := by unfold State.updPort; split <;> rfl

/-! ### updBlock -/

@[simp] theorem updBlock_pending (i : Nat) (f : BlockUnit → BlockUnit) : (s.updBlock i f).pending = s.pending := by unfold State.updBlock; split <;> rfl
@[simp] theorem updBlock_free (i : Nat) (f : BlockUnit → BlockUnit) : (s.updBlock i f).free = s.free := by unfold State.updBlock; split <;> rfl
@[simp] theorem updBlock_out (i : Nat) (f : BlockUnit → BlockUnit) : (s.updBlock i f).out = s.out := by unfold State.updBlock; split <;> rfl
@[simp] theorem updBlock_fuses (i : Nat) (f : BlockUnit → BlockUnit) : (s.updBlock i f).fuses = s.fuses := by unfold State.updBlock; split <;> rfl
@[simp] theorem updBlock_flash (i : Nat) (f : BlockUnit → BlockUnit) : (s.updBlock i f).flash = s.flash := by unfold State.updBlock; split <;> rfl
@[simp] theorem updBlock_clock (i : Nat) (f : BlockUnit → BlockUnit) : (s.updBlock i f).clock = s.clock := by unfold State.updBlock; split <;> rfl
@[simp] theorem updBlock_dev (i : Nat) (f : BlockUnit → BlockUnit) : (s.updBlock i f).dev = s.dev := by unfold State.updBlock; split <;> rfl
@[simp] theorem updBlock_host (i : Nat) (f : BlockUnit → BlockUnit) : (s.updBlock i f).host = s.host := by unfold State.updBlock; split <;> rfl
@[simp] theorem updBlock_mbox (i : Nat) (f : BlockUnit → BlockUnit) : (s.updBlock i f).mbox = s.mbox := by unfold State.updBlock; split <;> rfl
@[simp] theorem updBlock_doorbells (i : Nat) (f : BlockUnit → BlockUnit) : (s.updBlock i f).doorbells = s.doorbells := by unfold State.updBlock; split <;> rfl
@[simp] theorem updBlock_err (i : Nat) (f : BlockUnit → BlockUnit) : (s.updBlock i f).err = s.err := by unfold State.updBlock; split <;> rfl
@[simp] theorem updBlock_mem (i : Nat) (f : BlockUnit → BlockUnit) : (s.updBlock i f).mem = s.mem := by unfold State.updBlock; split <;> rfl
@[simp] theorem updBlock_poison (i : Nat) (f : BlockUnit → BlockUnit) : (s.updBlock i f).poison = s.poison := by unfold State.updBlock; split <;> rfl
@[simp] theorem updBlock_wall (i : Nat) (f : BlockUnit → BlockUnit) : (s.updBlock i f).wall = s.wall := by unfold State.updBlock; split <;> rfl
@[simp] theorem updBlock_pool (i : Nat) (f : BlockUnit → BlockUnit) : (s.updBlock i f).pool = s.pool := by unfold State.updBlock; split <;> rfl
@[simp] theorem updBlock_tensors (i : Nat) (f : BlockUnit → BlockUnit) : (s.updBlock i f).tensors = s.tensors := by unfold State.updBlock; split <;> rfl
@[simp] theorem updBlock_reels (i : Nat) (f : BlockUnit → BlockUnit) : (s.updBlock i f).reels = s.reels := by unfold State.updBlock; split <;> rfl
@[simp] theorem updBlock_streams (i : Nat) (f : BlockUnit → BlockUnit) : (s.updBlock i f).streams = s.streams := by unfold State.updBlock; split <;> rfl
@[simp] theorem updBlock_opens (i : Nat) (f : BlockUnit → BlockUnit) : (s.updBlock i f).opens = s.opens := by unfold State.updBlock; split <;> rfl
@[simp] theorem updBlock_arr (i : Nat) (f : BlockUnit → BlockUnit) : (s.updBlock i f).arr = s.arr := by unfold State.updBlock; split <;> rfl
@[simp] theorem updBlock_seq (i : Nat) (f : BlockUnit → BlockUnit) : (s.updBlock i f).seq = s.seq := by unfold State.updBlock; split <;> rfl
@[simp] theorem updBlock_dailies (i : Nat) (f : BlockUnit → BlockUnit) : (s.updBlock i f).dailies = s.dailies := by unfold State.updBlock; split <;> rfl
@[simp] theorem updBlock_bench (i : Nat) (f : BlockUnit → BlockUnit) : (s.updBlock i f).bench = s.bench := by unfold State.updBlock; split <;> rfl
@[simp] theorem updBlock_motion (i : Nat) (f : BlockUnit → BlockUnit) : (s.updBlock i f).motion = s.motion := by unfold State.updBlock; split <;> rfl
@[simp] theorem updBlock_chk (i : Nat) (f : BlockUnit → BlockUnit) : (s.updBlock i f).chk = s.chk := by unfold State.updBlock; split <;> rfl
@[simp] theorem updBlock_ovl (i : Nat) (f : BlockUnit → BlockUnit) : (s.updBlock i f).ovl = s.ovl := by unfold State.updBlock; split <;> rfl
@[simp] theorem updBlock_gates (i : Nat) (f : BlockUnit → BlockUnit) : (s.updBlock i f).gates = s.gates := by unfold State.updBlock; split <;> rfl
@[simp] theorem updBlock_ports (i : Nat) (f : BlockUnit → BlockUnit) : (s.updBlock i f).ports = s.ports := by unfold State.updBlock; split <;> rfl
@[simp] theorem updBlock_set (i : Nat) (f : BlockUnit → BlockUnit) : (s.updBlock i f).set = s.set := by unfold State.updBlock; split <;> rfl
@[simp] theorem updBlock_fw (i : Nat) (f : BlockUnit → BlockUnit) : (s.updBlock i f).fw = s.fw := by unfold State.updBlock; split <;> rfl
@[simp] theorem updBlock_inputs (i : Nat) (f : BlockUnit → BlockUnit) : (s.updBlock i f).inputs = s.inputs := by unfold State.updBlock; split <;> rfl
@[simp] theorem updBlock_board (i : Nat) (f : BlockUnit → BlockUnit) : (s.updBlock i f).board = s.board := by unfold State.updBlock; split <;> rfl
@[simp] theorem updBlock_tags (i : Nat) (f : BlockUnit → BlockUnit) : (s.updBlock i f).tags = s.tags := by unfold State.updBlock; split <;> rfl
@[simp] theorem updBlock_jtag (i : Nat) (f : BlockUnit → BlockUnit) : (s.updBlock i f).jtag = s.jtag := by unfold State.updBlock; split <;> rfl

/-! ### updEngine -/

@[simp] theorem updEngine_pending (i : Nat) (f : EngineUnit → EngineUnit) : (s.updEngine i f).pending = s.pending := by unfold State.updEngine; split <;> rfl
@[simp] theorem updEngine_free (i : Nat) (f : EngineUnit → EngineUnit) : (s.updEngine i f).free = s.free := by unfold State.updEngine; split <;> rfl
@[simp] theorem updEngine_out (i : Nat) (f : EngineUnit → EngineUnit) : (s.updEngine i f).out = s.out := by unfold State.updEngine; split <;> rfl
@[simp] theorem updEngine_fuses (i : Nat) (f : EngineUnit → EngineUnit) : (s.updEngine i f).fuses = s.fuses := by unfold State.updEngine; split <;> rfl
@[simp] theorem updEngine_flash (i : Nat) (f : EngineUnit → EngineUnit) : (s.updEngine i f).flash = s.flash := by unfold State.updEngine; split <;> rfl
@[simp] theorem updEngine_clock (i : Nat) (f : EngineUnit → EngineUnit) : (s.updEngine i f).clock = s.clock := by unfold State.updEngine; split <;> rfl
@[simp] theorem updEngine_dev (i : Nat) (f : EngineUnit → EngineUnit) : (s.updEngine i f).dev = s.dev := by unfold State.updEngine; split <;> rfl
@[simp] theorem updEngine_host (i : Nat) (f : EngineUnit → EngineUnit) : (s.updEngine i f).host = s.host := by unfold State.updEngine; split <;> rfl
@[simp] theorem updEngine_mbox (i : Nat) (f : EngineUnit → EngineUnit) : (s.updEngine i f).mbox = s.mbox := by unfold State.updEngine; split <;> rfl
@[simp] theorem updEngine_doorbells (i : Nat) (f : EngineUnit → EngineUnit) : (s.updEngine i f).doorbells = s.doorbells := by unfold State.updEngine; split <;> rfl
@[simp] theorem updEngine_err (i : Nat) (f : EngineUnit → EngineUnit) : (s.updEngine i f).err = s.err := by unfold State.updEngine; split <;> rfl
@[simp] theorem updEngine_mem (i : Nat) (f : EngineUnit → EngineUnit) : (s.updEngine i f).mem = s.mem := by unfold State.updEngine; split <;> rfl
@[simp] theorem updEngine_poison (i : Nat) (f : EngineUnit → EngineUnit) : (s.updEngine i f).poison = s.poison := by unfold State.updEngine; split <;> rfl
@[simp] theorem updEngine_wall (i : Nat) (f : EngineUnit → EngineUnit) : (s.updEngine i f).wall = s.wall := by unfold State.updEngine; split <;> rfl
@[simp] theorem updEngine_pool (i : Nat) (f : EngineUnit → EngineUnit) : (s.updEngine i f).pool = s.pool := by unfold State.updEngine; split <;> rfl
@[simp] theorem updEngine_tensors (i : Nat) (f : EngineUnit → EngineUnit) : (s.updEngine i f).tensors = s.tensors := by unfold State.updEngine; split <;> rfl
@[simp] theorem updEngine_reels (i : Nat) (f : EngineUnit → EngineUnit) : (s.updEngine i f).reels = s.reels := by unfold State.updEngine; split <;> rfl
@[simp] theorem updEngine_streams (i : Nat) (f : EngineUnit → EngineUnit) : (s.updEngine i f).streams = s.streams := by unfold State.updEngine; split <;> rfl
@[simp] theorem updEngine_opens (i : Nat) (f : EngineUnit → EngineUnit) : (s.updEngine i f).opens = s.opens := by unfold State.updEngine; split <;> rfl
@[simp] theorem updEngine_arr (i : Nat) (f : EngineUnit → EngineUnit) : (s.updEngine i f).arr = s.arr := by unfold State.updEngine; split <;> rfl
@[simp] theorem updEngine_seq (i : Nat) (f : EngineUnit → EngineUnit) : (s.updEngine i f).seq = s.seq := by unfold State.updEngine; split <;> rfl
@[simp] theorem updEngine_dailies (i : Nat) (f : EngineUnit → EngineUnit) : (s.updEngine i f).dailies = s.dailies := by unfold State.updEngine; split <;> rfl
@[simp] theorem updEngine_bench (i : Nat) (f : EngineUnit → EngineUnit) : (s.updEngine i f).bench = s.bench := by unfold State.updEngine; split <;> rfl
@[simp] theorem updEngine_motion (i : Nat) (f : EngineUnit → EngineUnit) : (s.updEngine i f).motion = s.motion := by unfold State.updEngine; split <;> rfl
@[simp] theorem updEngine_chk (i : Nat) (f : EngineUnit → EngineUnit) : (s.updEngine i f).chk = s.chk := by unfold State.updEngine; split <;> rfl
@[simp] theorem updEngine_ovl (i : Nat) (f : EngineUnit → EngineUnit) : (s.updEngine i f).ovl = s.ovl := by unfold State.updEngine; split <;> rfl
@[simp] theorem updEngine_gates (i : Nat) (f : EngineUnit → EngineUnit) : (s.updEngine i f).gates = s.gates := by unfold State.updEngine; split <;> rfl
@[simp] theorem updEngine_ports (i : Nat) (f : EngineUnit → EngineUnit) : (s.updEngine i f).ports = s.ports := by unfold State.updEngine; split <;> rfl
@[simp] theorem updEngine_set (i : Nat) (f : EngineUnit → EngineUnit) : (s.updEngine i f).set = s.set := by unfold State.updEngine; split <;> rfl
@[simp] theorem updEngine_fw (i : Nat) (f : EngineUnit → EngineUnit) : (s.updEngine i f).fw = s.fw := by unfold State.updEngine; split <;> rfl
@[simp] theorem updEngine_inputs (i : Nat) (f : EngineUnit → EngineUnit) : (s.updEngine i f).inputs = s.inputs := by unfold State.updEngine; split <;> rfl
@[simp] theorem updEngine_board (i : Nat) (f : EngineUnit → EngineUnit) : (s.updEngine i f).board = s.board := by unfold State.updEngine; split <;> rfl
@[simp] theorem updEngine_tags (i : Nat) (f : EngineUnit → EngineUnit) : (s.updEngine i f).tags = s.tags := by unfold State.updEngine; split <;> rfl
@[simp] theorem updEngine_jtag (i : Nat) (f : EngineUnit → EngineUnit) : (s.updEngine i f).jtag = s.jtag := by unfold State.updEngine; split <;> rfl

/-! ### setChan -/

@[simp] theorem setChan_pending (i : Nat) (b : List Byte) : (s.setChan i b).pending = s.pending := by unfold State.setChan; split <;> rfl
@[simp] theorem setChan_free (i : Nat) (b : List Byte) : (s.setChan i b).free = s.free := by unfold State.setChan; split <;> rfl
@[simp] theorem setChan_out (i : Nat) (b : List Byte) : (s.setChan i b).out = s.out := by unfold State.setChan; split <;> rfl
@[simp] theorem setChan_fuses (i : Nat) (b : List Byte) : (s.setChan i b).fuses = s.fuses := by unfold State.setChan; split <;> rfl
@[simp] theorem setChan_flash (i : Nat) (b : List Byte) : (s.setChan i b).flash = s.flash := by unfold State.setChan; split <;> rfl
@[simp] theorem setChan_clock (i : Nat) (b : List Byte) : (s.setChan i b).clock = s.clock := by unfold State.setChan; split <;> rfl
@[simp] theorem setChan_dev (i : Nat) (b : List Byte) : (s.setChan i b).dev = s.dev := by unfold State.setChan; split <;> rfl
@[simp] theorem setChan_host (i : Nat) (b : List Byte) : (s.setChan i b).host = s.host := by unfold State.setChan; split <;> rfl
@[simp] theorem setChan_doorbells (i : Nat) (b : List Byte) : (s.setChan i b).doorbells = s.doorbells := by unfold State.setChan; split <;> rfl
@[simp] theorem setChan_err (i : Nat) (b : List Byte) : (s.setChan i b).err = s.err := by unfold State.setChan; split <;> rfl
@[simp] theorem setChan_mem (i : Nat) (b : List Byte) : (s.setChan i b).mem = s.mem := by unfold State.setChan; split <;> rfl
@[simp] theorem setChan_poison (i : Nat) (b : List Byte) : (s.setChan i b).poison = s.poison := by unfold State.setChan; split <;> rfl
@[simp] theorem setChan_wall (i : Nat) (b : List Byte) : (s.setChan i b).wall = s.wall := by unfold State.setChan; split <;> rfl
@[simp] theorem setChan_pool (i : Nat) (b : List Byte) : (s.setChan i b).pool = s.pool := by unfold State.setChan; split <;> rfl
@[simp] theorem setChan_tensors (i : Nat) (b : List Byte) : (s.setChan i b).tensors = s.tensors := by unfold State.setChan; split <;> rfl
@[simp] theorem setChan_reels (i : Nat) (b : List Byte) : (s.setChan i b).reels = s.reels := by unfold State.setChan; split <;> rfl
@[simp] theorem setChan_streams (i : Nat) (b : List Byte) : (s.setChan i b).streams = s.streams := by unfold State.setChan; split <;> rfl
@[simp] theorem setChan_opens (i : Nat) (b : List Byte) : (s.setChan i b).opens = s.opens := by unfold State.setChan; split <;> rfl
@[simp] theorem setChan_arr (i : Nat) (b : List Byte) : (s.setChan i b).arr = s.arr := by unfold State.setChan; split <;> rfl
@[simp] theorem setChan_seq (i : Nat) (b : List Byte) : (s.setChan i b).seq = s.seq := by unfold State.setChan; split <;> rfl
@[simp] theorem setChan_dailies (i : Nat) (b : List Byte) : (s.setChan i b).dailies = s.dailies := by unfold State.setChan; split <;> rfl
@[simp] theorem setChan_bench (i : Nat) (b : List Byte) : (s.setChan i b).bench = s.bench := by unfold State.setChan; split <;> rfl
@[simp] theorem setChan_units (i : Nat) (b : List Byte) : (s.setChan i b).units = s.units := by unfold State.setChan; split <;> rfl
@[simp] theorem setChan_motion (i : Nat) (b : List Byte) : (s.setChan i b).motion = s.motion := by unfold State.setChan; split <;> rfl
@[simp] theorem setChan_chk (i : Nat) (b : List Byte) : (s.setChan i b).chk = s.chk := by unfold State.setChan; split <;> rfl
@[simp] theorem setChan_ovl (i : Nat) (b : List Byte) : (s.setChan i b).ovl = s.ovl := by unfold State.setChan; split <;> rfl
@[simp] theorem setChan_gates (i : Nat) (b : List Byte) : (s.setChan i b).gates = s.gates := by unfold State.setChan; split <;> rfl
@[simp] theorem setChan_ports (i : Nat) (b : List Byte) : (s.setChan i b).ports = s.ports := by unfold State.setChan; split <;> rfl
@[simp] theorem setChan_set (i : Nat) (b : List Byte) : (s.setChan i b).set = s.set := by unfold State.setChan; split <;> rfl
@[simp] theorem setChan_fw (i : Nat) (b : List Byte) : (s.setChan i b).fw = s.fw := by unfold State.setChan; split <;> rfl
@[simp] theorem setChan_inputs (i : Nat) (b : List Byte) : (s.setChan i b).inputs = s.inputs := by unfold State.setChan; split <;> rfl
@[simp] theorem setChan_board (i : Nat) (b : List Byte) : (s.setChan i b).board = s.board := by unfold State.setChan; split <;> rfl
@[simp] theorem setChan_tags (i : Nat) (b : List Byte) : (s.setChan i b).tags = s.tags := by unfold State.setChan; split <;> rfl
@[simp] theorem setChan_jtag (i : Nat) (b : List Byte) : (s.setChan i b).jtag = s.jtag := by unfold State.setChan; split <;> rfl

/-! ### updReel -/

@[simp] theorem updReel_pending (h : Nat) (f : LoadedReel → LoadedReel) : (s.updReel h f).pending = s.pending := rfl
@[simp] theorem updReel_free (h : Nat) (f : LoadedReel → LoadedReel) : (s.updReel h f).free = s.free := rfl
@[simp] theorem updReel_out (h : Nat) (f : LoadedReel → LoadedReel) : (s.updReel h f).out = s.out := rfl
@[simp] theorem updReel_fuses (h : Nat) (f : LoadedReel → LoadedReel) : (s.updReel h f).fuses = s.fuses := rfl
@[simp] theorem updReel_flash (h : Nat) (f : LoadedReel → LoadedReel) : (s.updReel h f).flash = s.flash := rfl
@[simp] theorem updReel_clock (h : Nat) (f : LoadedReel → LoadedReel) : (s.updReel h f).clock = s.clock := rfl
@[simp] theorem updReel_dev (h : Nat) (f : LoadedReel → LoadedReel) : (s.updReel h f).dev = s.dev := rfl
@[simp] theorem updReel_host (h : Nat) (f : LoadedReel → LoadedReel) : (s.updReel h f).host = s.host := rfl
@[simp] theorem updReel_mbox (h : Nat) (f : LoadedReel → LoadedReel) : (s.updReel h f).mbox = s.mbox := rfl
@[simp] theorem updReel_doorbells (h : Nat) (f : LoadedReel → LoadedReel) : (s.updReel h f).doorbells = s.doorbells := rfl
@[simp] theorem updReel_err (h : Nat) (f : LoadedReel → LoadedReel) : (s.updReel h f).err = s.err := rfl
@[simp] theorem updReel_mem (h : Nat) (f : LoadedReel → LoadedReel) : (s.updReel h f).mem = s.mem := rfl
@[simp] theorem updReel_poison (h : Nat) (f : LoadedReel → LoadedReel) : (s.updReel h f).poison = s.poison := rfl
@[simp] theorem updReel_wall (h : Nat) (f : LoadedReel → LoadedReel) : (s.updReel h f).wall = s.wall := rfl
@[simp] theorem updReel_pool (h : Nat) (f : LoadedReel → LoadedReel) : (s.updReel h f).pool = s.pool := rfl
@[simp] theorem updReel_tensors (h : Nat) (f : LoadedReel → LoadedReel) : (s.updReel h f).tensors = s.tensors := rfl
@[simp] theorem updReel_streams (h : Nat) (f : LoadedReel → LoadedReel) : (s.updReel h f).streams = s.streams := rfl
@[simp] theorem updReel_opens (h : Nat) (f : LoadedReel → LoadedReel) : (s.updReel h f).opens = s.opens := rfl
@[simp] theorem updReel_arr (h : Nat) (f : LoadedReel → LoadedReel) : (s.updReel h f).arr = s.arr := rfl
@[simp] theorem updReel_seq (h : Nat) (f : LoadedReel → LoadedReel) : (s.updReel h f).seq = s.seq := rfl
@[simp] theorem updReel_dailies (h : Nat) (f : LoadedReel → LoadedReel) : (s.updReel h f).dailies = s.dailies := rfl
@[simp] theorem updReel_bench (h : Nat) (f : LoadedReel → LoadedReel) : (s.updReel h f).bench = s.bench := rfl
@[simp] theorem updReel_units (h : Nat) (f : LoadedReel → LoadedReel) : (s.updReel h f).units = s.units := rfl
@[simp] theorem updReel_motion (h : Nat) (f : LoadedReel → LoadedReel) : (s.updReel h f).motion = s.motion := rfl
@[simp] theorem updReel_chk (h : Nat) (f : LoadedReel → LoadedReel) : (s.updReel h f).chk = s.chk := rfl
@[simp] theorem updReel_ovl (h : Nat) (f : LoadedReel → LoadedReel) : (s.updReel h f).ovl = s.ovl := rfl
@[simp] theorem updReel_gates (h : Nat) (f : LoadedReel → LoadedReel) : (s.updReel h f).gates = s.gates := rfl
@[simp] theorem updReel_ports (h : Nat) (f : LoadedReel → LoadedReel) : (s.updReel h f).ports = s.ports := rfl
@[simp] theorem updReel_set (h : Nat) (f : LoadedReel → LoadedReel) : (s.updReel h f).set = s.set := rfl
@[simp] theorem updReel_fw (h : Nat) (f : LoadedReel → LoadedReel) : (s.updReel h f).fw = s.fw := rfl
@[simp] theorem updReel_inputs (h : Nat) (f : LoadedReel → LoadedReel) : (s.updReel h f).inputs = s.inputs := rfl
@[simp] theorem updReel_board (h : Nat) (f : LoadedReel → LoadedReel) : (s.updReel h f).board = s.board := rfl
@[simp] theorem updReel_tags (h : Nat) (f : LoadedReel → LoadedReel) : (s.updReel h f).tags = s.tags := rfl
@[simp] theorem updReel_jtag (h : Nat) (f : LoadedReel → LoadedReel) : (s.updReel h f).jtag = s.jtag := rfl

/-! ### updDecisions -/

@[simp] theorem updDecisions_pending (i : Nat) (f : Decisions → Decisions) : (s.updDecisions i f).pending = s.pending := rfl
@[simp] theorem updDecisions_free (i : Nat) (f : Decisions → Decisions) : (s.updDecisions i f).free = s.free := rfl
@[simp] theorem updDecisions_out (i : Nat) (f : Decisions → Decisions) : (s.updDecisions i f).out = s.out := rfl
@[simp] theorem updDecisions_fuses (i : Nat) (f : Decisions → Decisions) : (s.updDecisions i f).fuses = s.fuses := rfl
@[simp] theorem updDecisions_flash (i : Nat) (f : Decisions → Decisions) : (s.updDecisions i f).flash = s.flash := rfl
@[simp] theorem updDecisions_clock (i : Nat) (f : Decisions → Decisions) : (s.updDecisions i f).clock = s.clock := rfl
@[simp] theorem updDecisions_dev (i : Nat) (f : Decisions → Decisions) : (s.updDecisions i f).dev = s.dev := rfl
@[simp] theorem updDecisions_host (i : Nat) (f : Decisions → Decisions) : (s.updDecisions i f).host = s.host := rfl
@[simp] theorem updDecisions_mbox (i : Nat) (f : Decisions → Decisions) : (s.updDecisions i f).mbox = s.mbox := rfl
@[simp] theorem updDecisions_doorbells (i : Nat) (f : Decisions → Decisions) : (s.updDecisions i f).doorbells = s.doorbells := rfl
@[simp] theorem updDecisions_err (i : Nat) (f : Decisions → Decisions) : (s.updDecisions i f).err = s.err := rfl
@[simp] theorem updDecisions_mem (i : Nat) (f : Decisions → Decisions) : (s.updDecisions i f).mem = s.mem := rfl
@[simp] theorem updDecisions_poison (i : Nat) (f : Decisions → Decisions) : (s.updDecisions i f).poison = s.poison := rfl
@[simp] theorem updDecisions_wall (i : Nat) (f : Decisions → Decisions) : (s.updDecisions i f).wall = s.wall := rfl
@[simp] theorem updDecisions_pool (i : Nat) (f : Decisions → Decisions) : (s.updDecisions i f).pool = s.pool := rfl
@[simp] theorem updDecisions_tensors (i : Nat) (f : Decisions → Decisions) : (s.updDecisions i f).tensors = s.tensors := rfl
@[simp] theorem updDecisions_reels (i : Nat) (f : Decisions → Decisions) : (s.updDecisions i f).reels = s.reels := rfl
@[simp] theorem updDecisions_streams (i : Nat) (f : Decisions → Decisions) : (s.updDecisions i f).streams = s.streams := rfl
@[simp] theorem updDecisions_opens (i : Nat) (f : Decisions → Decisions) : (s.updDecisions i f).opens = s.opens := rfl
@[simp] theorem updDecisions_arr (i : Nat) (f : Decisions → Decisions) : (s.updDecisions i f).arr = s.arr := rfl
@[simp] theorem updDecisions_seq (i : Nat) (f : Decisions → Decisions) : (s.updDecisions i f).seq = s.seq := rfl
@[simp] theorem updDecisions_dailies (i : Nat) (f : Decisions → Decisions) : (s.updDecisions i f).dailies = s.dailies := rfl
@[simp] theorem updDecisions_bench (i : Nat) (f : Decisions → Decisions) : (s.updDecisions i f).bench = s.bench := rfl
@[simp] theorem updDecisions_units (i : Nat) (f : Decisions → Decisions) : (s.updDecisions i f).units = s.units := rfl
@[simp] theorem updDecisions_motion (i : Nat) (f : Decisions → Decisions) : (s.updDecisions i f).motion = s.motion := rfl
@[simp] theorem updDecisions_ovl (i : Nat) (f : Decisions → Decisions) : (s.updDecisions i f).ovl = s.ovl := rfl
@[simp] theorem updDecisions_gates (i : Nat) (f : Decisions → Decisions) : (s.updDecisions i f).gates = s.gates := rfl
@[simp] theorem updDecisions_ports (i : Nat) (f : Decisions → Decisions) : (s.updDecisions i f).ports = s.ports := rfl
@[simp] theorem updDecisions_set (i : Nat) (f : Decisions → Decisions) : (s.updDecisions i f).set = s.set := rfl
@[simp] theorem updDecisions_fw (i : Nat) (f : Decisions → Decisions) : (s.updDecisions i f).fw = s.fw := rfl
@[simp] theorem updDecisions_inputs (i : Nat) (f : Decisions → Decisions) : (s.updDecisions i f).inputs = s.inputs := rfl
@[simp] theorem updDecisions_board (i : Nat) (f : Decisions → Decisions) : (s.updDecisions i f).board = s.board := rfl
@[simp] theorem updDecisions_tags (i : Nat) (f : Decisions → Decisions) : (s.updDecisions i f).tags = s.tags := rfl
@[simp] theorem updDecisions_jtag (i : Nat) (f : Decisions → Decisions) : (s.updDecisions i f).jtag = s.jtag := rfl

/-! ### updFrame -/

@[simp] theorem updFrame_pending (i k : Nat) (f : Frame → Frame) : (s.updFrame i k f).pending = s.pending := by simp [State.updFrame]
@[simp] theorem updFrame_free (i k : Nat) (f : Frame → Frame) : (s.updFrame i k f).free = s.free := by simp [State.updFrame]
@[simp] theorem updFrame_out (i k : Nat) (f : Frame → Frame) : (s.updFrame i k f).out = s.out := by simp [State.updFrame]
@[simp] theorem updFrame_fuses (i k : Nat) (f : Frame → Frame) : (s.updFrame i k f).fuses = s.fuses := by simp [State.updFrame]
@[simp] theorem updFrame_flash (i k : Nat) (f : Frame → Frame) : (s.updFrame i k f).flash = s.flash := by simp [State.updFrame]
@[simp] theorem updFrame_clock (i k : Nat) (f : Frame → Frame) : (s.updFrame i k f).clock = s.clock := by simp [State.updFrame]
@[simp] theorem updFrame_dev (i k : Nat) (f : Frame → Frame) : (s.updFrame i k f).dev = s.dev := by simp [State.updFrame]
@[simp] theorem updFrame_host (i k : Nat) (f : Frame → Frame) : (s.updFrame i k f).host = s.host := by simp [State.updFrame]
@[simp] theorem updFrame_mbox (i k : Nat) (f : Frame → Frame) : (s.updFrame i k f).mbox = s.mbox := by simp [State.updFrame]
@[simp] theorem updFrame_doorbells (i k : Nat) (f : Frame → Frame) : (s.updFrame i k f).doorbells = s.doorbells := by simp [State.updFrame]
@[simp] theorem updFrame_err (i k : Nat) (f : Frame → Frame) : (s.updFrame i k f).err = s.err := by simp [State.updFrame]
@[simp] theorem updFrame_mem (i k : Nat) (f : Frame → Frame) : (s.updFrame i k f).mem = s.mem := by simp [State.updFrame]
@[simp] theorem updFrame_poison (i k : Nat) (f : Frame → Frame) : (s.updFrame i k f).poison = s.poison := by simp [State.updFrame]
@[simp] theorem updFrame_wall (i k : Nat) (f : Frame → Frame) : (s.updFrame i k f).wall = s.wall := by simp [State.updFrame]
@[simp] theorem updFrame_pool (i k : Nat) (f : Frame → Frame) : (s.updFrame i k f).pool = s.pool := by simp [State.updFrame]
@[simp] theorem updFrame_tensors (i k : Nat) (f : Frame → Frame) : (s.updFrame i k f).tensors = s.tensors := by simp [State.updFrame]
@[simp] theorem updFrame_reels (i k : Nat) (f : Frame → Frame) : (s.updFrame i k f).reels = s.reels := by simp [State.updFrame]
@[simp] theorem updFrame_opens (i k : Nat) (f : Frame → Frame) : (s.updFrame i k f).opens = s.opens := by simp [State.updFrame]
@[simp] theorem updFrame_arr (i k : Nat) (f : Frame → Frame) : (s.updFrame i k f).arr = s.arr := by simp [State.updFrame]
@[simp] theorem updFrame_seq (i k : Nat) (f : Frame → Frame) : (s.updFrame i k f).seq = s.seq := by simp [State.updFrame]
@[simp] theorem updFrame_dailies (i k : Nat) (f : Frame → Frame) : (s.updFrame i k f).dailies = s.dailies := by simp [State.updFrame]
@[simp] theorem updFrame_bench (i k : Nat) (f : Frame → Frame) : (s.updFrame i k f).bench = s.bench := by simp [State.updFrame]
@[simp] theorem updFrame_units (i k : Nat) (f : Frame → Frame) : (s.updFrame i k f).units = s.units := by simp [State.updFrame]
@[simp] theorem updFrame_motion (i k : Nat) (f : Frame → Frame) : (s.updFrame i k f).motion = s.motion := by simp [State.updFrame]
@[simp] theorem updFrame_chk (i k : Nat) (f : Frame → Frame) : (s.updFrame i k f).chk = s.chk := by simp [State.updFrame]
@[simp] theorem updFrame_ovl (i k : Nat) (f : Frame → Frame) : (s.updFrame i k f).ovl = s.ovl := by simp [State.updFrame]
@[simp] theorem updFrame_gates (i k : Nat) (f : Frame → Frame) : (s.updFrame i k f).gates = s.gates := by simp [State.updFrame]
@[simp] theorem updFrame_ports (i k : Nat) (f : Frame → Frame) : (s.updFrame i k f).ports = s.ports := by simp [State.updFrame]
@[simp] theorem updFrame_set (i k : Nat) (f : Frame → Frame) : (s.updFrame i k f).set = s.set := by simp [State.updFrame]
@[simp] theorem updFrame_fw (i k : Nat) (f : Frame → Frame) : (s.updFrame i k f).fw = s.fw := by simp [State.updFrame]
@[simp] theorem updFrame_inputs (i k : Nat) (f : Frame → Frame) : (s.updFrame i k f).inputs = s.inputs := by simp [State.updFrame]
@[simp] theorem updFrame_board (i k : Nat) (f : Frame → Frame) : (s.updFrame i k f).board = s.board := by simp [State.updFrame]
@[simp] theorem updFrame_tags (i k : Nat) (f : Frame → Frame) : (s.updFrame i k f).tags = s.tags := by simp [State.updFrame]
@[simp] theorem updFrame_jtag (i k : Nat) (f : Frame → Frame) : (s.updFrame i k f).jtag = s.jtag := by simp [State.updFrame]

/-! ### writeBytes -/

@[simp] theorem writeBytes_pending (a : Nat) (b : List Byte) : (s.writeBytes a b).pending = s.pending := rfl
@[simp] theorem writeBytes_free (a : Nat) (b : List Byte) : (s.writeBytes a b).free = s.free := rfl
@[simp] theorem writeBytes_out (a : Nat) (b : List Byte) : (s.writeBytes a b).out = s.out := rfl
@[simp] theorem writeBytes_fuses (a : Nat) (b : List Byte) : (s.writeBytes a b).fuses = s.fuses := rfl
@[simp] theorem writeBytes_flash (a : Nat) (b : List Byte) : (s.writeBytes a b).flash = s.flash := rfl
@[simp] theorem writeBytes_clock (a : Nat) (b : List Byte) : (s.writeBytes a b).clock = s.clock := rfl
@[simp] theorem writeBytes_dev (a : Nat) (b : List Byte) : (s.writeBytes a b).dev = s.dev := rfl
@[simp] theorem writeBytes_host (a : Nat) (b : List Byte) : (s.writeBytes a b).host = s.host := rfl
@[simp] theorem writeBytes_mbox (a : Nat) (b : List Byte) : (s.writeBytes a b).mbox = s.mbox := rfl
@[simp] theorem writeBytes_doorbells (a : Nat) (b : List Byte) : (s.writeBytes a b).doorbells = s.doorbells := rfl
@[simp] theorem writeBytes_err (a : Nat) (b : List Byte) : (s.writeBytes a b).err = s.err := rfl
@[simp] theorem writeBytes_wall (a : Nat) (b : List Byte) : (s.writeBytes a b).wall = s.wall := rfl
@[simp] theorem writeBytes_pool (a : Nat) (b : List Byte) : (s.writeBytes a b).pool = s.pool := rfl
@[simp] theorem writeBytes_tensors (a : Nat) (b : List Byte) : (s.writeBytes a b).tensors = s.tensors := rfl
@[simp] theorem writeBytes_reels (a : Nat) (b : List Byte) : (s.writeBytes a b).reels = s.reels := rfl
@[simp] theorem writeBytes_streams (a : Nat) (b : List Byte) : (s.writeBytes a b).streams = s.streams := rfl
@[simp] theorem writeBytes_opens (a : Nat) (b : List Byte) : (s.writeBytes a b).opens = s.opens := rfl
@[simp] theorem writeBytes_arr (a : Nat) (b : List Byte) : (s.writeBytes a b).arr = s.arr := rfl
@[simp] theorem writeBytes_seq (a : Nat) (b : List Byte) : (s.writeBytes a b).seq = s.seq := rfl
@[simp] theorem writeBytes_dailies (a : Nat) (b : List Byte) : (s.writeBytes a b).dailies = s.dailies := rfl
@[simp] theorem writeBytes_bench (a : Nat) (b : List Byte) : (s.writeBytes a b).bench = s.bench := rfl
@[simp] theorem writeBytes_units (a : Nat) (b : List Byte) : (s.writeBytes a b).units = s.units := rfl
@[simp] theorem writeBytes_motion (a : Nat) (b : List Byte) : (s.writeBytes a b).motion = s.motion := rfl
@[simp] theorem writeBytes_chk (a : Nat) (b : List Byte) : (s.writeBytes a b).chk = s.chk := rfl
@[simp] theorem writeBytes_ovl (a : Nat) (b : List Byte) : (s.writeBytes a b).ovl = s.ovl := rfl
@[simp] theorem writeBytes_gates (a : Nat) (b : List Byte) : (s.writeBytes a b).gates = s.gates := rfl
@[simp] theorem writeBytes_ports (a : Nat) (b : List Byte) : (s.writeBytes a b).ports = s.ports := rfl
@[simp] theorem writeBytes_set (a : Nat) (b : List Byte) : (s.writeBytes a b).set = s.set := rfl
@[simp] theorem writeBytes_fw (a : Nat) (b : List Byte) : (s.writeBytes a b).fw = s.fw := rfl
@[simp] theorem writeBytes_inputs (a : Nat) (b : List Byte) : (s.writeBytes a b).inputs = s.inputs := rfl
@[simp] theorem writeBytes_board (a : Nat) (b : List Byte) : (s.writeBytes a b).board = s.board := rfl
@[simp] theorem writeBytes_tags (a : Nat) (b : List Byte) : (s.writeBytes a b).tags = s.tags := rfl
@[simp] theorem writeBytes_jtag (a : Nat) (b : List Byte) : (s.writeBytes a b).jtag = s.jtag := rfl

/-! ### writeNat -/

@[simp] theorem writeNat_pending (a n v : Nat) : (s.writeNat a n v).pending = s.pending := rfl
@[simp] theorem writeNat_free (a n v : Nat) : (s.writeNat a n v).free = s.free := rfl
@[simp] theorem writeNat_out (a n v : Nat) : (s.writeNat a n v).out = s.out := rfl
@[simp] theorem writeNat_fuses (a n v : Nat) : (s.writeNat a n v).fuses = s.fuses := rfl
@[simp] theorem writeNat_flash (a n v : Nat) : (s.writeNat a n v).flash = s.flash := rfl
@[simp] theorem writeNat_clock (a n v : Nat) : (s.writeNat a n v).clock = s.clock := rfl
@[simp] theorem writeNat_dev (a n v : Nat) : (s.writeNat a n v).dev = s.dev := rfl
@[simp] theorem writeNat_host (a n v : Nat) : (s.writeNat a n v).host = s.host := rfl
@[simp] theorem writeNat_mbox (a n v : Nat) : (s.writeNat a n v).mbox = s.mbox := rfl
@[simp] theorem writeNat_doorbells (a n v : Nat) : (s.writeNat a n v).doorbells = s.doorbells := rfl
@[simp] theorem writeNat_err (a n v : Nat) : (s.writeNat a n v).err = s.err := rfl
@[simp] theorem writeNat_wall (a n v : Nat) : (s.writeNat a n v).wall = s.wall := rfl
@[simp] theorem writeNat_pool (a n v : Nat) : (s.writeNat a n v).pool = s.pool := rfl
@[simp] theorem writeNat_tensors (a n v : Nat) : (s.writeNat a n v).tensors = s.tensors := rfl
@[simp] theorem writeNat_reels (a n v : Nat) : (s.writeNat a n v).reels = s.reels := rfl
@[simp] theorem writeNat_streams (a n v : Nat) : (s.writeNat a n v).streams = s.streams := rfl
@[simp] theorem writeNat_opens (a n v : Nat) : (s.writeNat a n v).opens = s.opens := rfl
@[simp] theorem writeNat_arr (a n v : Nat) : (s.writeNat a n v).arr = s.arr := rfl
@[simp] theorem writeNat_seq (a n v : Nat) : (s.writeNat a n v).seq = s.seq := rfl
@[simp] theorem writeNat_dailies (a n v : Nat) : (s.writeNat a n v).dailies = s.dailies := rfl
@[simp] theorem writeNat_bench (a n v : Nat) : (s.writeNat a n v).bench = s.bench := rfl
@[simp] theorem writeNat_units (a n v : Nat) : (s.writeNat a n v).units = s.units := rfl
@[simp] theorem writeNat_motion (a n v : Nat) : (s.writeNat a n v).motion = s.motion := rfl
@[simp] theorem writeNat_chk (a n v : Nat) : (s.writeNat a n v).chk = s.chk := rfl
@[simp] theorem writeNat_ovl (a n v : Nat) : (s.writeNat a n v).ovl = s.ovl := rfl
@[simp] theorem writeNat_gates (a n v : Nat) : (s.writeNat a n v).gates = s.gates := rfl
@[simp] theorem writeNat_ports (a n v : Nat) : (s.writeNat a n v).ports = s.ports := rfl
@[simp] theorem writeNat_set (a n v : Nat) : (s.writeNat a n v).set = s.set := rfl
@[simp] theorem writeNat_fw (a n v : Nat) : (s.writeNat a n v).fw = s.fw := rfl
@[simp] theorem writeNat_inputs (a n v : Nat) : (s.writeNat a n v).inputs = s.inputs := rfl
@[simp] theorem writeNat_board (a n v : Nat) : (s.writeNat a n v).board = s.board := rfl
@[simp] theorem writeNat_tags (a n v : Nat) : (s.writeNat a n v).tags = s.tags := rfl
@[simp] theorem writeNat_jtag (a n v : Nat) : (s.writeNat a n v).jtag = s.jtag := rfl

/-! ### poisonRange -/

@[simp] theorem poisonRange_pending (a n : Nat) : (s.poisonRange a n).pending = s.pending := rfl
@[simp] theorem poisonRange_free (a n : Nat) : (s.poisonRange a n).free = s.free := rfl
@[simp] theorem poisonRange_out (a n : Nat) : (s.poisonRange a n).out = s.out := rfl
@[simp] theorem poisonRange_fuses (a n : Nat) : (s.poisonRange a n).fuses = s.fuses := rfl
@[simp] theorem poisonRange_flash (a n : Nat) : (s.poisonRange a n).flash = s.flash := rfl
@[simp] theorem poisonRange_clock (a n : Nat) : (s.poisonRange a n).clock = s.clock := rfl
@[simp] theorem poisonRange_dev (a n : Nat) : (s.poisonRange a n).dev = s.dev := rfl
@[simp] theorem poisonRange_host (a n : Nat) : (s.poisonRange a n).host = s.host := rfl
@[simp] theorem poisonRange_mbox (a n : Nat) : (s.poisonRange a n).mbox = s.mbox := rfl
@[simp] theorem poisonRange_doorbells (a n : Nat) : (s.poisonRange a n).doorbells = s.doorbells := rfl
@[simp] theorem poisonRange_err (a n : Nat) : (s.poisonRange a n).err = s.err := rfl
@[simp] theorem poisonRange_mem (a n : Nat) : (s.poisonRange a n).mem = s.mem := rfl
@[simp] theorem poisonRange_wall (a n : Nat) : (s.poisonRange a n).wall = s.wall := rfl
@[simp] theorem poisonRange_pool (a n : Nat) : (s.poisonRange a n).pool = s.pool := rfl
@[simp] theorem poisonRange_tensors (a n : Nat) : (s.poisonRange a n).tensors = s.tensors := rfl
@[simp] theorem poisonRange_reels (a n : Nat) : (s.poisonRange a n).reels = s.reels := rfl
@[simp] theorem poisonRange_streams (a n : Nat) : (s.poisonRange a n).streams = s.streams := rfl
@[simp] theorem poisonRange_opens (a n : Nat) : (s.poisonRange a n).opens = s.opens := rfl
@[simp] theorem poisonRange_arr (a n : Nat) : (s.poisonRange a n).arr = s.arr := rfl
@[simp] theorem poisonRange_seq (a n : Nat) : (s.poisonRange a n).seq = s.seq := rfl
@[simp] theorem poisonRange_dailies (a n : Nat) : (s.poisonRange a n).dailies = s.dailies := rfl
@[simp] theorem poisonRange_bench (a n : Nat) : (s.poisonRange a n).bench = s.bench := rfl
@[simp] theorem poisonRange_units (a n : Nat) : (s.poisonRange a n).units = s.units := rfl
@[simp] theorem poisonRange_motion (a n : Nat) : (s.poisonRange a n).motion = s.motion := rfl
@[simp] theorem poisonRange_chk (a n : Nat) : (s.poisonRange a n).chk = s.chk := rfl
@[simp] theorem poisonRange_ovl (a n : Nat) : (s.poisonRange a n).ovl = s.ovl := rfl
@[simp] theorem poisonRange_gates (a n : Nat) : (s.poisonRange a n).gates = s.gates := rfl
@[simp] theorem poisonRange_ports (a n : Nat) : (s.poisonRange a n).ports = s.ports := rfl
@[simp] theorem poisonRange_set (a n : Nat) : (s.poisonRange a n).set = s.set := rfl
@[simp] theorem poisonRange_fw (a n : Nat) : (s.poisonRange a n).fw = s.fw := rfl
@[simp] theorem poisonRange_inputs (a n : Nat) : (s.poisonRange a n).inputs = s.inputs := rfl
@[simp] theorem poisonRange_board (a n : Nat) : (s.poisonRange a n).board = s.board := rfl
@[simp] theorem poisonRange_tags (a n : Nat) : (s.poisonRange a n).tags = s.tags := rfl
@[simp] theorem poisonRange_jtag (a n : Nat) : (s.poisonRange a n).jtag = s.jtag := rfl

/-! ### flashWrite -/

@[simp] theorem flashWrite_pending (a : Nat) (b : List Byte) : (s.flashWrite a b).pending = s.pending := rfl
@[simp] theorem flashWrite_free (a : Nat) (b : List Byte) : (s.flashWrite a b).free = s.free := rfl
@[simp] theorem flashWrite_out (a : Nat) (b : List Byte) : (s.flashWrite a b).out = s.out := rfl
@[simp] theorem flashWrite_fuses (a : Nat) (b : List Byte) : (s.flashWrite a b).fuses = s.fuses := rfl
@[simp] theorem flashWrite_clock (a : Nat) (b : List Byte) : (s.flashWrite a b).clock = s.clock := rfl
@[simp] theorem flashWrite_dev (a : Nat) (b : List Byte) : (s.flashWrite a b).dev = s.dev := rfl
@[simp] theorem flashWrite_host (a : Nat) (b : List Byte) : (s.flashWrite a b).host = s.host := rfl
@[simp] theorem flashWrite_mbox (a : Nat) (b : List Byte) : (s.flashWrite a b).mbox = s.mbox := rfl
@[simp] theorem flashWrite_doorbells (a : Nat) (b : List Byte) : (s.flashWrite a b).doorbells = s.doorbells := rfl
@[simp] theorem flashWrite_err (a : Nat) (b : List Byte) : (s.flashWrite a b).err = s.err := rfl
@[simp] theorem flashWrite_mem (a : Nat) (b : List Byte) : (s.flashWrite a b).mem = s.mem := rfl
@[simp] theorem flashWrite_poison (a : Nat) (b : List Byte) : (s.flashWrite a b).poison = s.poison := rfl
@[simp] theorem flashWrite_wall (a : Nat) (b : List Byte) : (s.flashWrite a b).wall = s.wall := rfl
@[simp] theorem flashWrite_pool (a : Nat) (b : List Byte) : (s.flashWrite a b).pool = s.pool := rfl
@[simp] theorem flashWrite_tensors (a : Nat) (b : List Byte) : (s.flashWrite a b).tensors = s.tensors := rfl
@[simp] theorem flashWrite_reels (a : Nat) (b : List Byte) : (s.flashWrite a b).reels = s.reels := rfl
@[simp] theorem flashWrite_streams (a : Nat) (b : List Byte) : (s.flashWrite a b).streams = s.streams := rfl
@[simp] theorem flashWrite_opens (a : Nat) (b : List Byte) : (s.flashWrite a b).opens = s.opens := rfl
@[simp] theorem flashWrite_arr (a : Nat) (b : List Byte) : (s.flashWrite a b).arr = s.arr := rfl
@[simp] theorem flashWrite_seq (a : Nat) (b : List Byte) : (s.flashWrite a b).seq = s.seq := rfl
@[simp] theorem flashWrite_dailies (a : Nat) (b : List Byte) : (s.flashWrite a b).dailies = s.dailies := rfl
@[simp] theorem flashWrite_bench (a : Nat) (b : List Byte) : (s.flashWrite a b).bench = s.bench := rfl
@[simp] theorem flashWrite_units (a : Nat) (b : List Byte) : (s.flashWrite a b).units = s.units := rfl
@[simp] theorem flashWrite_motion (a : Nat) (b : List Byte) : (s.flashWrite a b).motion = s.motion := rfl
@[simp] theorem flashWrite_chk (a : Nat) (b : List Byte) : (s.flashWrite a b).chk = s.chk := rfl
@[simp] theorem flashWrite_ovl (a : Nat) (b : List Byte) : (s.flashWrite a b).ovl = s.ovl := rfl
@[simp] theorem flashWrite_gates (a : Nat) (b : List Byte) : (s.flashWrite a b).gates = s.gates := rfl
@[simp] theorem flashWrite_ports (a : Nat) (b : List Byte) : (s.flashWrite a b).ports = s.ports := rfl
@[simp] theorem flashWrite_set (a : Nat) (b : List Byte) : (s.flashWrite a b).set = s.set := rfl
@[simp] theorem flashWrite_fw (a : Nat) (b : List Byte) : (s.flashWrite a b).fw = s.fw := rfl
@[simp] theorem flashWrite_inputs (a : Nat) (b : List Byte) : (s.flashWrite a b).inputs = s.inputs := rfl
@[simp] theorem flashWrite_board (a : Nat) (b : List Byte) : (s.flashWrite a b).board = s.board := rfl
@[simp] theorem flashWrite_tags (a : Nat) (b : List Byte) : (s.flashWrite a b).tags = s.tags := rfl
@[simp] theorem flashWrite_jtag (a : Nat) (b : List Byte) : (s.flashWrite a b).jtag = s.jtag := rfl

/-! ### advanceTo -/

@[simp] theorem advanceTo_pending (x : Nat) : (s.advanceTo x).pending = s.pending := by unfold State.advanceTo; split <;> rfl
@[simp] theorem advanceTo_free (x : Nat) : (s.advanceTo x).free = s.free := by unfold State.advanceTo; split <;> rfl
@[simp] theorem advanceTo_out (x : Nat) : (s.advanceTo x).out = s.out := by unfold State.advanceTo; split <;> rfl
@[simp] theorem advanceTo_fuses (x : Nat) : (s.advanceTo x).fuses = s.fuses := by unfold State.advanceTo; split <;> rfl
@[simp] theorem advanceTo_flash (x : Nat) : (s.advanceTo x).flash = s.flash := by unfold State.advanceTo; split <;> rfl
@[simp] theorem advanceTo_dev (x : Nat) : (s.advanceTo x).dev = s.dev := by unfold State.advanceTo; split <;> rfl
@[simp] theorem advanceTo_host (x : Nat) : (s.advanceTo x).host = s.host := by unfold State.advanceTo; split <;> rfl
@[simp] theorem advanceTo_mbox (x : Nat) : (s.advanceTo x).mbox = s.mbox := by unfold State.advanceTo; split <;> rfl
@[simp] theorem advanceTo_doorbells (x : Nat) : (s.advanceTo x).doorbells = s.doorbells := by unfold State.advanceTo; split <;> rfl
@[simp] theorem advanceTo_err (x : Nat) : (s.advanceTo x).err = s.err := by unfold State.advanceTo; split <;> rfl
@[simp] theorem advanceTo_mem (x : Nat) : (s.advanceTo x).mem = s.mem := by unfold State.advanceTo; split <;> rfl
@[simp] theorem advanceTo_poison (x : Nat) : (s.advanceTo x).poison = s.poison := by unfold State.advanceTo; split <;> rfl
@[simp] theorem advanceTo_wall (x : Nat) : (s.advanceTo x).wall = s.wall := by unfold State.advanceTo; split <;> rfl
@[simp] theorem advanceTo_pool (x : Nat) : (s.advanceTo x).pool = s.pool := by unfold State.advanceTo; split <;> rfl
@[simp] theorem advanceTo_tensors (x : Nat) : (s.advanceTo x).tensors = s.tensors := by unfold State.advanceTo; split <;> rfl
@[simp] theorem advanceTo_reels (x : Nat) : (s.advanceTo x).reels = s.reels := by unfold State.advanceTo; split <;> rfl
@[simp] theorem advanceTo_streams (x : Nat) : (s.advanceTo x).streams = s.streams := by unfold State.advanceTo; split <;> rfl
@[simp] theorem advanceTo_opens (x : Nat) : (s.advanceTo x).opens = s.opens := by unfold State.advanceTo; split <;> rfl
@[simp] theorem advanceTo_arr (x : Nat) : (s.advanceTo x).arr = s.arr := by unfold State.advanceTo; split <;> rfl
@[simp] theorem advanceTo_seq (x : Nat) : (s.advanceTo x).seq = s.seq := by unfold State.advanceTo; split <;> rfl
@[simp] theorem advanceTo_dailies (x : Nat) : (s.advanceTo x).dailies = s.dailies := by unfold State.advanceTo; split <;> rfl
@[simp] theorem advanceTo_bench (x : Nat) : (s.advanceTo x).bench = s.bench := by unfold State.advanceTo; split <;> rfl
@[simp] theorem advanceTo_units (x : Nat) : (s.advanceTo x).units = s.units := by unfold State.advanceTo; split <;> rfl
@[simp] theorem advanceTo_motion (x : Nat) : (s.advanceTo x).motion = s.motion := by unfold State.advanceTo; split <;> rfl
@[simp] theorem advanceTo_chk (x : Nat) : (s.advanceTo x).chk = s.chk := by unfold State.advanceTo; split <;> rfl
@[simp] theorem advanceTo_ovl (x : Nat) : (s.advanceTo x).ovl = s.ovl := by unfold State.advanceTo; split <;> rfl
@[simp] theorem advanceTo_gates (x : Nat) : (s.advanceTo x).gates = s.gates := by unfold State.advanceTo; split <;> rfl
@[simp] theorem advanceTo_ports (x : Nat) : (s.advanceTo x).ports = s.ports := by unfold State.advanceTo; split <;> rfl
@[simp] theorem advanceTo_set (x : Nat) : (s.advanceTo x).set = s.set := by unfold State.advanceTo; split <;> rfl
@[simp] theorem advanceTo_fw (x : Nat) : (s.advanceTo x).fw = s.fw := by unfold State.advanceTo; split <;> rfl
@[simp] theorem advanceTo_inputs (x : Nat) : (s.advanceTo x).inputs = s.inputs := by unfold State.advanceTo; split <;> rfl
@[simp] theorem advanceTo_board (x : Nat) : (s.advanceTo x).board = s.board := by unfold State.advanceTo; split <;> rfl
@[simp] theorem advanceTo_tags (x : Nat) : (s.advanceTo x).tags = s.tags := by unfold State.advanceTo; split <;> rfl
@[simp] theorem advanceTo_jtag (x : Nat) : (s.advanceTo x).jtag = s.jtag := by unfold State.advanceTo; split <;> rfl

/-! ### tick -/

@[simp] theorem tick_pending : (s.tick).pending = s.pending := by unfold State.tick; split <;> (try split) <;> rfl
@[simp] theorem tick_free : (s.tick).free = s.free := by unfold State.tick; split <;> (try split) <;> rfl
@[simp] theorem tick_out : (s.tick).out = s.out := by unfold State.tick; split <;> (try split) <;> rfl
@[simp] theorem tick_fuses : (s.tick).fuses = s.fuses := by unfold State.tick; split <;> (try split) <;> rfl
@[simp] theorem tick_flash : (s.tick).flash = s.flash := by unfold State.tick; split <;> (try split) <;> rfl
@[simp] theorem tick_dev : (s.tick).dev = s.dev := by unfold State.tick; split <;> (try split) <;> rfl
@[simp] theorem tick_host : (s.tick).host = s.host := by unfold State.tick; split <;> (try split) <;> rfl
@[simp] theorem tick_mbox : (s.tick).mbox = s.mbox := by unfold State.tick; split <;> (try split) <;> rfl
@[simp] theorem tick_doorbells : (s.tick).doorbells = s.doorbells := by unfold State.tick; split <;> (try split) <;> rfl
@[simp] theorem tick_err : (s.tick).err = s.err := by unfold State.tick; split <;> (try split) <;> rfl
@[simp] theorem tick_mem : (s.tick).mem = s.mem := by unfold State.tick; split <;> (try split) <;> rfl
@[simp] theorem tick_poison : (s.tick).poison = s.poison := by unfold State.tick; split <;> (try split) <;> rfl
@[simp] theorem tick_wall : (s.tick).wall = s.wall := by unfold State.tick; split <;> (try split) <;> rfl
@[simp] theorem tick_pool : (s.tick).pool = s.pool := by unfold State.tick; split <;> (try split) <;> rfl
@[simp] theorem tick_tensors : (s.tick).tensors = s.tensors := by unfold State.tick; split <;> (try split) <;> rfl
@[simp] theorem tick_reels : (s.tick).reels = s.reels := by unfold State.tick; split <;> (try split) <;> rfl
@[simp] theorem tick_streams : (s.tick).streams = s.streams := by unfold State.tick; split <;> (try split) <;> rfl
@[simp] theorem tick_opens : (s.tick).opens = s.opens := by unfold State.tick; split <;> (try split) <;> rfl
@[simp] theorem tick_arr : (s.tick).arr = s.arr := by unfold State.tick; split <;> (try split) <;> rfl
@[simp] theorem tick_seq : (s.tick).seq = s.seq := by unfold State.tick; split <;> (try split) <;> rfl
@[simp] theorem tick_dailies : (s.tick).dailies = s.dailies := by unfold State.tick; split <;> (try split) <;> rfl
@[simp] theorem tick_bench : (s.tick).bench = s.bench := by unfold State.tick; split <;> (try split) <;> rfl
@[simp] theorem tick_units : (s.tick).units = s.units := by unfold State.tick; split <;> (try split) <;> rfl
@[simp] theorem tick_motion : (s.tick).motion = s.motion := by unfold State.tick; split <;> (try split) <;> rfl
@[simp] theorem tick_chk : (s.tick).chk = s.chk := by unfold State.tick; split <;> (try split) <;> rfl
@[simp] theorem tick_ovl : (s.tick).ovl = s.ovl := by unfold State.tick; split <;> (try split) <;> rfl
@[simp] theorem tick_gates : (s.tick).gates = s.gates := by unfold State.tick; split <;> (try split) <;> rfl
@[simp] theorem tick_ports : (s.tick).ports = s.ports := by unfold State.tick; split <;> (try split) <;> rfl
@[simp] theorem tick_set : (s.tick).set = s.set := by unfold State.tick; split <;> (try split) <;> rfl
@[simp] theorem tick_fw : (s.tick).fw = s.fw := by unfold State.tick; split <;> (try split) <;> rfl
@[simp] theorem tick_inputs : (s.tick).inputs = s.inputs := by unfold State.tick; split <;> (try split) <;> rfl
@[simp] theorem tick_board : (s.tick).board = s.board := by unfold State.tick; split <;> (try split) <;> rfl
@[simp] theorem tick_tags : (s.tick).tags = s.tags := by unfold State.tick; split <;> (try split) <;> rfl
@[simp] theorem tick_jtag : (s.tick).jtag = s.jtag := by unfold State.tick; split <;> (try split) <;> rfl

/-! ### raise -/

@[simp] theorem raise_pending (v : Nat) : (s.raise v).pending = s.pending := by unfold State.raise; split <;> rfl
@[simp] theorem raise_free (v : Nat) : (s.raise v).free = s.free := by unfold State.raise; split <;> rfl
@[simp] theorem raise_fuses (v : Nat) : (s.raise v).fuses = s.fuses := by unfold State.raise; split <;> rfl
@[simp] theorem raise_flash (v : Nat) : (s.raise v).flash = s.flash := by unfold State.raise; split <;> rfl
@[simp] theorem raise_clock (v : Nat) : (s.raise v).clock = s.clock := by unfold State.raise; split <;> rfl
@[simp] theorem raise_dev (v : Nat) : (s.raise v).dev = s.dev := by unfold State.raise; split <;> rfl
@[simp] theorem raise_mbox (v : Nat) : (s.raise v).mbox = s.mbox := by unfold State.raise; split <;> rfl
@[simp] theorem raise_doorbells (v : Nat) : (s.raise v).doorbells = s.doorbells := by unfold State.raise; split <;> rfl
@[simp] theorem raise_err (v : Nat) : (s.raise v).err = s.err := by unfold State.raise; split <;> rfl
@[simp] theorem raise_mem (v : Nat) : (s.raise v).mem = s.mem := by unfold State.raise; split <;> rfl
@[simp] theorem raise_poison (v : Nat) : (s.raise v).poison = s.poison := by unfold State.raise; split <;> rfl
@[simp] theorem raise_wall (v : Nat) : (s.raise v).wall = s.wall := by unfold State.raise; split <;> rfl
@[simp] theorem raise_pool (v : Nat) : (s.raise v).pool = s.pool := by unfold State.raise; split <;> rfl
@[simp] theorem raise_tensors (v : Nat) : (s.raise v).tensors = s.tensors := by unfold State.raise; split <;> rfl
@[simp] theorem raise_reels (v : Nat) : (s.raise v).reels = s.reels := by unfold State.raise; split <;> rfl
@[simp] theorem raise_streams (v : Nat) : (s.raise v).streams = s.streams := by unfold State.raise; split <;> rfl
@[simp] theorem raise_opens (v : Nat) : (s.raise v).opens = s.opens := by unfold State.raise; split <;> rfl
@[simp] theorem raise_arr (v : Nat) : (s.raise v).arr = s.arr := by unfold State.raise; split <;> rfl
@[simp] theorem raise_seq (v : Nat) : (s.raise v).seq = s.seq := by unfold State.raise; split <;> rfl
@[simp] theorem raise_dailies (v : Nat) : (s.raise v).dailies = s.dailies := by unfold State.raise; split <;> rfl
@[simp] theorem raise_bench (v : Nat) : (s.raise v).bench = s.bench := by unfold State.raise; split <;> rfl
@[simp] theorem raise_units (v : Nat) : (s.raise v).units = s.units := by unfold State.raise; split <;> rfl
@[simp] theorem raise_motion (v : Nat) : (s.raise v).motion = s.motion := by unfold State.raise; split <;> rfl
@[simp] theorem raise_chk (v : Nat) : (s.raise v).chk = s.chk := by unfold State.raise; split <;> rfl
@[simp] theorem raise_ovl (v : Nat) : (s.raise v).ovl = s.ovl := by unfold State.raise; split <;> rfl
@[simp] theorem raise_gates (v : Nat) : (s.raise v).gates = s.gates := by unfold State.raise; split <;> rfl
@[simp] theorem raise_ports (v : Nat) : (s.raise v).ports = s.ports := by unfold State.raise; split <;> rfl
@[simp] theorem raise_set (v : Nat) : (s.raise v).set = s.set := by unfold State.raise; split <;> rfl
@[simp] theorem raise_fw (v : Nat) : (s.raise v).fw = s.fw := by unfold State.raise; split <;> rfl
@[simp] theorem raise_inputs (v : Nat) : (s.raise v).inputs = s.inputs := by unfold State.raise; split <;> rfl
@[simp] theorem raise_board (v : Nat) : (s.raise v).board = s.board := by unfold State.raise; split <;> rfl
@[simp] theorem raise_tags (v : Nat) : (s.raise v).tags = s.tags := by unfold State.raise; split <;> rfl
@[simp] theorem raise_jtag (v : Nat) : (s.raise v).jtag = s.jtag := by unfold State.raise; split <;> rfl

/-! ### flushPending -/

@[simp] theorem flushPending_pending : (s.flushPending).pending = s.pending := rfl
@[simp] theorem flushPending_free : (s.flushPending).free = s.free := rfl
@[simp] theorem flushPending_fuses : (s.flushPending).fuses = s.fuses := rfl
@[simp] theorem flushPending_flash : (s.flushPending).flash = s.flash := rfl
@[simp] theorem flushPending_clock : (s.flushPending).clock = s.clock := rfl
@[simp] theorem flushPending_dev : (s.flushPending).dev = s.dev := rfl
@[simp] theorem flushPending_mbox : (s.flushPending).mbox = s.mbox := rfl
@[simp] theorem flushPending_doorbells : (s.flushPending).doorbells = s.doorbells := rfl
@[simp] theorem flushPending_err : (s.flushPending).err = s.err := rfl
@[simp] theorem flushPending_mem : (s.flushPending).mem = s.mem := rfl
@[simp] theorem flushPending_poison : (s.flushPending).poison = s.poison := rfl
@[simp] theorem flushPending_wall : (s.flushPending).wall = s.wall := rfl
@[simp] theorem flushPending_pool : (s.flushPending).pool = s.pool := rfl
@[simp] theorem flushPending_tensors : (s.flushPending).tensors = s.tensors := rfl
@[simp] theorem flushPending_reels : (s.flushPending).reels = s.reels := rfl
@[simp] theorem flushPending_streams : (s.flushPending).streams = s.streams := rfl
@[simp] theorem flushPending_opens : (s.flushPending).opens = s.opens := rfl
@[simp] theorem flushPending_arr : (s.flushPending).arr = s.arr := rfl
@[simp] theorem flushPending_seq : (s.flushPending).seq = s.seq := rfl
@[simp] theorem flushPending_dailies : (s.flushPending).dailies = s.dailies := rfl
@[simp] theorem flushPending_bench : (s.flushPending).bench = s.bench := rfl
@[simp] theorem flushPending_units : (s.flushPending).units = s.units := rfl
@[simp] theorem flushPending_motion : (s.flushPending).motion = s.motion := rfl
@[simp] theorem flushPending_chk : (s.flushPending).chk = s.chk := rfl
@[simp] theorem flushPending_ovl : (s.flushPending).ovl = s.ovl := rfl
@[simp] theorem flushPending_gates : (s.flushPending).gates = s.gates := rfl
@[simp] theorem flushPending_ports : (s.flushPending).ports = s.ports := rfl
@[simp] theorem flushPending_set : (s.flushPending).set = s.set := rfl
@[simp] theorem flushPending_fw : (s.flushPending).fw = s.fw := rfl
@[simp] theorem flushPending_inputs : (s.flushPending).inputs = s.inputs := rfl
@[simp] theorem flushPending_board : (s.flushPending).board = s.board := rfl
@[simp] theorem flushPending_tags : (s.flushPending).tags = s.tags := rfl
@[simp] theorem flushPending_jtag : (s.flushPending).jtag = s.jtag := rfl

/-! ### release -/

@[simp] theorem release_pending (p : Owner → Bool) : (s.release p).pending = s.pending := rfl
@[simp] theorem release_free (p : Owner → Bool) : (s.release p).free = s.free := rfl
@[simp] theorem release_out (p : Owner → Bool) : (s.release p).out = s.out := rfl
@[simp] theorem release_fuses (p : Owner → Bool) : (s.release p).fuses = s.fuses := rfl
@[simp] theorem release_flash (p : Owner → Bool) : (s.release p).flash = s.flash := rfl
@[simp] theorem release_clock (p : Owner → Bool) : (s.release p).clock = s.clock := rfl
@[simp] theorem release_dev (p : Owner → Bool) : (s.release p).dev = s.dev := rfl
@[simp] theorem release_host (p : Owner → Bool) : (s.release p).host = s.host := rfl
@[simp] theorem release_mbox (p : Owner → Bool) : (s.release p).mbox = s.mbox := rfl
@[simp] theorem release_doorbells (p : Owner → Bool) : (s.release p).doorbells = s.doorbells := rfl
@[simp] theorem release_err (p : Owner → Bool) : (s.release p).err = s.err := rfl
@[simp] theorem release_mem (p : Owner → Bool) : (s.release p).mem = s.mem := rfl
@[simp] theorem release_poison (p : Owner → Bool) : (s.release p).poison = s.poison := rfl
@[simp] theorem release_wall (p : Owner → Bool) : (s.release p).wall = s.wall := rfl
@[simp] theorem release_tensors (p : Owner → Bool) : (s.release p).tensors = s.tensors := rfl
@[simp] theorem release_reels (p : Owner → Bool) : (s.release p).reels = s.reels := rfl
@[simp] theorem release_streams (p : Owner → Bool) : (s.release p).streams = s.streams := rfl
@[simp] theorem release_opens (p : Owner → Bool) : (s.release p).opens = s.opens := rfl
@[simp] theorem release_arr (p : Owner → Bool) : (s.release p).arr = s.arr := rfl
@[simp] theorem release_seq (p : Owner → Bool) : (s.release p).seq = s.seq := rfl
@[simp] theorem release_dailies (p : Owner → Bool) : (s.release p).dailies = s.dailies := rfl
@[simp] theorem release_bench (p : Owner → Bool) : (s.release p).bench = s.bench := rfl
@[simp] theorem release_units (p : Owner → Bool) : (s.release p).units = s.units := rfl
@[simp] theorem release_motion (p : Owner → Bool) : (s.release p).motion = s.motion := rfl
@[simp] theorem release_chk (p : Owner → Bool) : (s.release p).chk = s.chk := rfl
@[simp] theorem release_ovl (p : Owner → Bool) : (s.release p).ovl = s.ovl := rfl
@[simp] theorem release_gates (p : Owner → Bool) : (s.release p).gates = s.gates := rfl
@[simp] theorem release_ports (p : Owner → Bool) : (s.release p).ports = s.ports := rfl
@[simp] theorem release_set (p : Owner → Bool) : (s.release p).set = s.set := rfl
@[simp] theorem release_fw (p : Owner → Bool) : (s.release p).fw = s.fw := rfl
@[simp] theorem release_inputs (p : Owner → Bool) : (s.release p).inputs = s.inputs := rfl
@[simp] theorem release_board (p : Owner → Bool) : (s.release p).board = s.board := rfl
@[simp] theorem release_tags (p : Owner → Bool) : (s.release p).tags = s.tags := rfl
@[simp] theorem release_jtag (p : Owner → Bool) : (s.release p).jtag = s.jtag := rfl

/-! ### openWindow -/

@[simp] theorem openWindow_pending (a n : Nat) (w : Bool) (o : Owner) : (s.openWindow a n w o).pending = s.pending := rfl
@[simp] theorem openWindow_free (a n : Nat) (w : Bool) (o : Owner) : (s.openWindow a n w o).free = s.free := rfl
@[simp] theorem openWindow_out (a n : Nat) (w : Bool) (o : Owner) : (s.openWindow a n w o).out = s.out := rfl
@[simp] theorem openWindow_fuses (a n : Nat) (w : Bool) (o : Owner) : (s.openWindow a n w o).fuses = s.fuses := rfl
@[simp] theorem openWindow_flash (a n : Nat) (w : Bool) (o : Owner) : (s.openWindow a n w o).flash = s.flash := rfl
@[simp] theorem openWindow_clock (a n : Nat) (w : Bool) (o : Owner) : (s.openWindow a n w o).clock = s.clock := rfl
@[simp] theorem openWindow_dev (a n : Nat) (w : Bool) (o : Owner) : (s.openWindow a n w o).dev = s.dev := rfl
@[simp] theorem openWindow_host (a n : Nat) (w : Bool) (o : Owner) : (s.openWindow a n w o).host = s.host := rfl
@[simp] theorem openWindow_mbox (a n : Nat) (w : Bool) (o : Owner) : (s.openWindow a n w o).mbox = s.mbox := rfl
@[simp] theorem openWindow_doorbells (a n : Nat) (w : Bool) (o : Owner) : (s.openWindow a n w o).doorbells = s.doorbells := rfl
@[simp] theorem openWindow_err (a n : Nat) (w : Bool) (o : Owner) : (s.openWindow a n w o).err = s.err := rfl
@[simp] theorem openWindow_mem (a n : Nat) (w : Bool) (o : Owner) : (s.openWindow a n w o).mem = s.mem := rfl
@[simp] theorem openWindow_poison (a n : Nat) (w : Bool) (o : Owner) : (s.openWindow a n w o).poison = s.poison := rfl
@[simp] theorem openWindow_wall (a n : Nat) (w : Bool) (o : Owner) : (s.openWindow a n w o).wall = s.wall := rfl
@[simp] theorem openWindow_tensors (a n : Nat) (w : Bool) (o : Owner) : (s.openWindow a n w o).tensors = s.tensors := rfl
@[simp] theorem openWindow_reels (a n : Nat) (w : Bool) (o : Owner) : (s.openWindow a n w o).reels = s.reels := rfl
@[simp] theorem openWindow_streams (a n : Nat) (w : Bool) (o : Owner) : (s.openWindow a n w o).streams = s.streams := rfl
@[simp] theorem openWindow_opens (a n : Nat) (w : Bool) (o : Owner) : (s.openWindow a n w o).opens = s.opens := rfl
@[simp] theorem openWindow_arr (a n : Nat) (w : Bool) (o : Owner) : (s.openWindow a n w o).arr = s.arr := rfl
@[simp] theorem openWindow_seq (a n : Nat) (w : Bool) (o : Owner) : (s.openWindow a n w o).seq = s.seq := rfl
@[simp] theorem openWindow_dailies (a n : Nat) (w : Bool) (o : Owner) : (s.openWindow a n w o).dailies = s.dailies := rfl
@[simp] theorem openWindow_bench (a n : Nat) (w : Bool) (o : Owner) : (s.openWindow a n w o).bench = s.bench := rfl
@[simp] theorem openWindow_units (a n : Nat) (w : Bool) (o : Owner) : (s.openWindow a n w o).units = s.units := rfl
@[simp] theorem openWindow_motion (a n : Nat) (w : Bool) (o : Owner) : (s.openWindow a n w o).motion = s.motion := rfl
@[simp] theorem openWindow_chk (a n : Nat) (w : Bool) (o : Owner) : (s.openWindow a n w o).chk = s.chk := rfl
@[simp] theorem openWindow_ovl (a n : Nat) (w : Bool) (o : Owner) : (s.openWindow a n w o).ovl = s.ovl := rfl
@[simp] theorem openWindow_gates (a n : Nat) (w : Bool) (o : Owner) : (s.openWindow a n w o).gates = s.gates := rfl
@[simp] theorem openWindow_ports (a n : Nat) (w : Bool) (o : Owner) : (s.openWindow a n w o).ports = s.ports := rfl
@[simp] theorem openWindow_set (a n : Nat) (w : Bool) (o : Owner) : (s.openWindow a n w o).set = s.set := rfl
@[simp] theorem openWindow_fw (a n : Nat) (w : Bool) (o : Owner) : (s.openWindow a n w o).fw = s.fw := rfl
@[simp] theorem openWindow_inputs (a n : Nat) (w : Bool) (o : Owner) : (s.openWindow a n w o).inputs = s.inputs := rfl
@[simp] theorem openWindow_board (a n : Nat) (w : Bool) (o : Owner) : (s.openWindow a n w o).board = s.board := rfl
@[simp] theorem openWindow_tags (a n : Nat) (w : Bool) (o : Owner) : (s.openWindow a n w o).tags = s.tags := rfl
@[simp] theorem openWindow_jtag (a n : Nat) (w : Bool) (o : Owner) : (s.openWindow a n w o).jtag = s.jtag := rfl

/-! ### setProducer -/

@[simp] theorem setProducer_pending (r : Ring) (v : Nat) : (s.setProducer r v).pending = s.pending := rfl
@[simp] theorem setProducer_free (r : Ring) (v : Nat) : (s.setProducer r v).free = s.free := rfl
@[simp] theorem setProducer_out (r : Ring) (v : Nat) : (s.setProducer r v).out = s.out := rfl
@[simp] theorem setProducer_fuses (r : Ring) (v : Nat) : (s.setProducer r v).fuses = s.fuses := rfl
@[simp] theorem setProducer_flash (r : Ring) (v : Nat) : (s.setProducer r v).flash = s.flash := rfl
@[simp] theorem setProducer_clock (r : Ring) (v : Nat) : (s.setProducer r v).clock = s.clock := rfl
@[simp] theorem setProducer_dev (r : Ring) (v : Nat) : (s.setProducer r v).dev = s.dev := rfl
@[simp] theorem setProducer_host (r : Ring) (v : Nat) : (s.setProducer r v).host = s.host := rfl
@[simp] theorem setProducer_mbox (r : Ring) (v : Nat) : (s.setProducer r v).mbox = s.mbox := rfl
@[simp] theorem setProducer_doorbells (r : Ring) (v : Nat) : (s.setProducer r v).doorbells = s.doorbells := rfl
@[simp] theorem setProducer_err (r : Ring) (v : Nat) : (s.setProducer r v).err = s.err := rfl
@[simp] theorem setProducer_wall (r : Ring) (v : Nat) : (s.setProducer r v).wall = s.wall := rfl
@[simp] theorem setProducer_pool (r : Ring) (v : Nat) : (s.setProducer r v).pool = s.pool := rfl
@[simp] theorem setProducer_tensors (r : Ring) (v : Nat) : (s.setProducer r v).tensors = s.tensors := rfl
@[simp] theorem setProducer_reels (r : Ring) (v : Nat) : (s.setProducer r v).reels = s.reels := rfl
@[simp] theorem setProducer_streams (r : Ring) (v : Nat) : (s.setProducer r v).streams = s.streams := rfl
@[simp] theorem setProducer_opens (r : Ring) (v : Nat) : (s.setProducer r v).opens = s.opens := rfl
@[simp] theorem setProducer_arr (r : Ring) (v : Nat) : (s.setProducer r v).arr = s.arr := rfl
@[simp] theorem setProducer_seq (r : Ring) (v : Nat) : (s.setProducer r v).seq = s.seq := rfl
@[simp] theorem setProducer_dailies (r : Ring) (v : Nat) : (s.setProducer r v).dailies = s.dailies := rfl
@[simp] theorem setProducer_bench (r : Ring) (v : Nat) : (s.setProducer r v).bench = s.bench := rfl
@[simp] theorem setProducer_units (r : Ring) (v : Nat) : (s.setProducer r v).units = s.units := rfl
@[simp] theorem setProducer_motion (r : Ring) (v : Nat) : (s.setProducer r v).motion = s.motion := rfl
@[simp] theorem setProducer_chk (r : Ring) (v : Nat) : (s.setProducer r v).chk = s.chk := rfl
@[simp] theorem setProducer_ovl (r : Ring) (v : Nat) : (s.setProducer r v).ovl = s.ovl := rfl
@[simp] theorem setProducer_gates (r : Ring) (v : Nat) : (s.setProducer r v).gates = s.gates := rfl
@[simp] theorem setProducer_ports (r : Ring) (v : Nat) : (s.setProducer r v).ports = s.ports := rfl
@[simp] theorem setProducer_set (r : Ring) (v : Nat) : (s.setProducer r v).set = s.set := rfl
@[simp] theorem setProducer_fw (r : Ring) (v : Nat) : (s.setProducer r v).fw = s.fw := rfl
@[simp] theorem setProducer_inputs (r : Ring) (v : Nat) : (s.setProducer r v).inputs = s.inputs := rfl
@[simp] theorem setProducer_board (r : Ring) (v : Nat) : (s.setProducer r v).board = s.board := rfl
@[simp] theorem setProducer_tags (r : Ring) (v : Nat) : (s.setProducer r v).tags = s.tags := rfl
@[simp] theorem setProducer_jtag (r : Ring) (v : Nat) : (s.setProducer r v).jtag = s.jtag := rfl

/-! ### setConsumer -/

@[simp] theorem setConsumer_pending (r : Ring) (v : Nat) : (s.setConsumer r v).pending = s.pending := rfl
@[simp] theorem setConsumer_free (r : Ring) (v : Nat) : (s.setConsumer r v).free = s.free := rfl
@[simp] theorem setConsumer_out (r : Ring) (v : Nat) : (s.setConsumer r v).out = s.out := rfl
@[simp] theorem setConsumer_fuses (r : Ring) (v : Nat) : (s.setConsumer r v).fuses = s.fuses := rfl
@[simp] theorem setConsumer_flash (r : Ring) (v : Nat) : (s.setConsumer r v).flash = s.flash := rfl
@[simp] theorem setConsumer_clock (r : Ring) (v : Nat) : (s.setConsumer r v).clock = s.clock := rfl
@[simp] theorem setConsumer_dev (r : Ring) (v : Nat) : (s.setConsumer r v).dev = s.dev := rfl
@[simp] theorem setConsumer_host (r : Ring) (v : Nat) : (s.setConsumer r v).host = s.host := rfl
@[simp] theorem setConsumer_mbox (r : Ring) (v : Nat) : (s.setConsumer r v).mbox = s.mbox := rfl
@[simp] theorem setConsumer_doorbells (r : Ring) (v : Nat) : (s.setConsumer r v).doorbells = s.doorbells := rfl
@[simp] theorem setConsumer_err (r : Ring) (v : Nat) : (s.setConsumer r v).err = s.err := rfl
@[simp] theorem setConsumer_wall (r : Ring) (v : Nat) : (s.setConsumer r v).wall = s.wall := rfl
@[simp] theorem setConsumer_pool (r : Ring) (v : Nat) : (s.setConsumer r v).pool = s.pool := rfl
@[simp] theorem setConsumer_tensors (r : Ring) (v : Nat) : (s.setConsumer r v).tensors = s.tensors := rfl
@[simp] theorem setConsumer_reels (r : Ring) (v : Nat) : (s.setConsumer r v).reels = s.reels := rfl
@[simp] theorem setConsumer_streams (r : Ring) (v : Nat) : (s.setConsumer r v).streams = s.streams := rfl
@[simp] theorem setConsumer_opens (r : Ring) (v : Nat) : (s.setConsumer r v).opens = s.opens := rfl
@[simp] theorem setConsumer_arr (r : Ring) (v : Nat) : (s.setConsumer r v).arr = s.arr := rfl
@[simp] theorem setConsumer_seq (r : Ring) (v : Nat) : (s.setConsumer r v).seq = s.seq := rfl
@[simp] theorem setConsumer_dailies (r : Ring) (v : Nat) : (s.setConsumer r v).dailies = s.dailies := rfl
@[simp] theorem setConsumer_bench (r : Ring) (v : Nat) : (s.setConsumer r v).bench = s.bench := rfl
@[simp] theorem setConsumer_units (r : Ring) (v : Nat) : (s.setConsumer r v).units = s.units := rfl
@[simp] theorem setConsumer_motion (r : Ring) (v : Nat) : (s.setConsumer r v).motion = s.motion := rfl
@[simp] theorem setConsumer_chk (r : Ring) (v : Nat) : (s.setConsumer r v).chk = s.chk := rfl
@[simp] theorem setConsumer_ovl (r : Ring) (v : Nat) : (s.setConsumer r v).ovl = s.ovl := rfl
@[simp] theorem setConsumer_gates (r : Ring) (v : Nat) : (s.setConsumer r v).gates = s.gates := rfl
@[simp] theorem setConsumer_ports (r : Ring) (v : Nat) : (s.setConsumer r v).ports = s.ports := rfl
@[simp] theorem setConsumer_set (r : Ring) (v : Nat) : (s.setConsumer r v).set = s.set := rfl
@[simp] theorem setConsumer_fw (r : Ring) (v : Nat) : (s.setConsumer r v).fw = s.fw := rfl
@[simp] theorem setConsumer_inputs (r : Ring) (v : Nat) : (s.setConsumer r v).inputs = s.inputs := rfl
@[simp] theorem setConsumer_board (r : Ring) (v : Nat) : (s.setConsumer r v).board = s.board := rfl
@[simp] theorem setConsumer_tags (r : Ring) (v : Nat) : (s.setConsumer r v).tags = s.tags := rfl
@[simp] theorem setConsumer_jtag (r : Ring) (v : Nat) : (s.setConsumer r v).jtag = s.jtag := rfl

/-! ### logAt -/

@[simp] theorem logAt_pending (i : Option Nat) (l u : Nat) (n f : Bool) (a : Nat) (c : Cause) (st d : Option Nat) : (s.logAt i l u n f a c st d).pending = s.pending := rfl
@[simp] theorem logAt_out (i : Option Nat) (l u : Nat) (n f : Bool) (a : Nat) (c : Cause) (st d : Option Nat) : (s.logAt i l u n f a c st d).out = s.out := rfl
@[simp] theorem logAt_fuses (i : Option Nat) (l u : Nat) (n f : Bool) (a : Nat) (c : Cause) (st d : Option Nat) : (s.logAt i l u n f a c st d).fuses = s.fuses := rfl
@[simp] theorem logAt_flash (i : Option Nat) (l u : Nat) (n f : Bool) (a : Nat) (c : Cause) (st d : Option Nat) : (s.logAt i l u n f a c st d).flash = s.flash := rfl
@[simp] theorem logAt_clock (i : Option Nat) (l u : Nat) (n f : Bool) (a : Nat) (c : Cause) (st d : Option Nat) : (s.logAt i l u n f a c st d).clock = s.clock := rfl
@[simp] theorem logAt_dev (i : Option Nat) (l u : Nat) (n f : Bool) (a : Nat) (c : Cause) (st d : Option Nat) : (s.logAt i l u n f a c st d).dev = s.dev := rfl
@[simp] theorem logAt_host (i : Option Nat) (l u : Nat) (n f : Bool) (a : Nat) (c : Cause) (st d : Option Nat) : (s.logAt i l u n f a c st d).host = s.host := rfl
@[simp] theorem logAt_mbox (i : Option Nat) (l u : Nat) (n f : Bool) (a : Nat) (c : Cause) (st d : Option Nat) : (s.logAt i l u n f a c st d).mbox = s.mbox := rfl
@[simp] theorem logAt_doorbells (i : Option Nat) (l u : Nat) (n f : Bool) (a : Nat) (c : Cause) (st d : Option Nat) : (s.logAt i l u n f a c st d).doorbells = s.doorbells := rfl
@[simp] theorem logAt_mem (i : Option Nat) (l u : Nat) (n f : Bool) (a : Nat) (c : Cause) (st d : Option Nat) : (s.logAt i l u n f a c st d).mem = s.mem := rfl
@[simp] theorem logAt_poison (i : Option Nat) (l u : Nat) (n f : Bool) (a : Nat) (c : Cause) (st d : Option Nat) : (s.logAt i l u n f a c st d).poison = s.poison := rfl
@[simp] theorem logAt_wall (i : Option Nat) (l u : Nat) (n f : Bool) (a : Nat) (c : Cause) (st d : Option Nat) : (s.logAt i l u n f a c st d).wall = s.wall := rfl
@[simp] theorem logAt_pool (i : Option Nat) (l u : Nat) (n f : Bool) (a : Nat) (c : Cause) (st d : Option Nat) : (s.logAt i l u n f a c st d).pool = s.pool := rfl
@[simp] theorem logAt_tensors (i : Option Nat) (l u : Nat) (n f : Bool) (a : Nat) (c : Cause) (st d : Option Nat) : (s.logAt i l u n f a c st d).tensors = s.tensors := rfl
@[simp] theorem logAt_reels (i : Option Nat) (l u : Nat) (n f : Bool) (a : Nat) (c : Cause) (st d : Option Nat) : (s.logAt i l u n f a c st d).reels = s.reels := rfl
@[simp] theorem logAt_streams (i : Option Nat) (l u : Nat) (n f : Bool) (a : Nat) (c : Cause) (st d : Option Nat) : (s.logAt i l u n f a c st d).streams = s.streams := rfl
@[simp] theorem logAt_opens (i : Option Nat) (l u : Nat) (n f : Bool) (a : Nat) (c : Cause) (st d : Option Nat) : (s.logAt i l u n f a c st d).opens = s.opens := rfl
@[simp] theorem logAt_arr (i : Option Nat) (l u : Nat) (n f : Bool) (a : Nat) (c : Cause) (st d : Option Nat) : (s.logAt i l u n f a c st d).arr = s.arr := rfl
@[simp] theorem logAt_seq (i : Option Nat) (l u : Nat) (n f : Bool) (a : Nat) (c : Cause) (st d : Option Nat) : (s.logAt i l u n f a c st d).seq = s.seq := rfl
@[simp] theorem logAt_dailies (i : Option Nat) (l u : Nat) (n f : Bool) (a : Nat) (c : Cause) (st d : Option Nat) : (s.logAt i l u n f a c st d).dailies = s.dailies := rfl
@[simp] theorem logAt_bench (i : Option Nat) (l u : Nat) (n f : Bool) (a : Nat) (c : Cause) (st d : Option Nat) : (s.logAt i l u n f a c st d).bench = s.bench := rfl
@[simp] theorem logAt_units (i : Option Nat) (l u : Nat) (n f : Bool) (a : Nat) (c : Cause) (st d : Option Nat) : (s.logAt i l u n f a c st d).units = s.units := rfl
@[simp] theorem logAt_motion (i : Option Nat) (l u : Nat) (n f : Bool) (a : Nat) (c : Cause) (st d : Option Nat) : (s.logAt i l u n f a c st d).motion = s.motion := rfl
@[simp] theorem logAt_chk (i : Option Nat) (l u : Nat) (n f : Bool) (a : Nat) (c : Cause) (st d : Option Nat) : (s.logAt i l u n f a c st d).chk = s.chk := rfl
@[simp] theorem logAt_ovl (i : Option Nat) (l u : Nat) (n f : Bool) (a : Nat) (c : Cause) (st d : Option Nat) : (s.logAt i l u n f a c st d).ovl = s.ovl := rfl
@[simp] theorem logAt_gates (i : Option Nat) (l u : Nat) (n f : Bool) (a : Nat) (c : Cause) (st d : Option Nat) : (s.logAt i l u n f a c st d).gates = s.gates := rfl
@[simp] theorem logAt_ports (i : Option Nat) (l u : Nat) (n f : Bool) (a : Nat) (c : Cause) (st d : Option Nat) : (s.logAt i l u n f a c st d).ports = s.ports := rfl
@[simp] theorem logAt_set (i : Option Nat) (l u : Nat) (n f : Bool) (a : Nat) (c : Cause) (st d : Option Nat) : (s.logAt i l u n f a c st d).set = s.set := rfl
@[simp] theorem logAt_fw (i : Option Nat) (l u : Nat) (n f : Bool) (a : Nat) (c : Cause) (st d : Option Nat) : (s.logAt i l u n f a c st d).fw = s.fw := rfl
@[simp] theorem logAt_inputs (i : Option Nat) (l u : Nat) (n f : Bool) (a : Nat) (c : Cause) (st d : Option Nat) : (s.logAt i l u n f a c st d).inputs = s.inputs := rfl
@[simp] theorem logAt_board (i : Option Nat) (l u : Nat) (n f : Bool) (a : Nat) (c : Cause) (st d : Option Nat) : (s.logAt i l u n f a c st d).board = s.board := rfl
@[simp] theorem logAt_tags (i : Option Nat) (l u : Nat) (n f : Bool) (a : Nat) (c : Cause) (st d : Option Nat) : (s.logAt i l u n f a c st d).tags = s.tags := rfl
@[simp] theorem logAt_jtag (i : Option Nat) (l u : Nat) (n f : Bool) (a : Nat) (c : Cause) (st d : Option Nat) : (s.logAt i l u n f a c st d).jtag = s.jtag := rfl

/-! ### log -/

@[simp] theorem log_pending (l u : Nat) (n f : Bool) (a : Nat) (c : Cause) (st d : Option Nat) : (s.log l u n f a c st d).pending = s.pending := rfl
@[simp] theorem log_out (l u : Nat) (n f : Bool) (a : Nat) (c : Cause) (st d : Option Nat) : (s.log l u n f a c st d).out = s.out := rfl
@[simp] theorem log_fuses (l u : Nat) (n f : Bool) (a : Nat) (c : Cause) (st d : Option Nat) : (s.log l u n f a c st d).fuses = s.fuses := rfl
@[simp] theorem log_flash (l u : Nat) (n f : Bool) (a : Nat) (c : Cause) (st d : Option Nat) : (s.log l u n f a c st d).flash = s.flash := rfl
@[simp] theorem log_clock (l u : Nat) (n f : Bool) (a : Nat) (c : Cause) (st d : Option Nat) : (s.log l u n f a c st d).clock = s.clock := rfl
@[simp] theorem log_dev (l u : Nat) (n f : Bool) (a : Nat) (c : Cause) (st d : Option Nat) : (s.log l u n f a c st d).dev = s.dev := rfl
@[simp] theorem log_host (l u : Nat) (n f : Bool) (a : Nat) (c : Cause) (st d : Option Nat) : (s.log l u n f a c st d).host = s.host := rfl
@[simp] theorem log_mbox (l u : Nat) (n f : Bool) (a : Nat) (c : Cause) (st d : Option Nat) : (s.log l u n f a c st d).mbox = s.mbox := rfl
@[simp] theorem log_doorbells (l u : Nat) (n f : Bool) (a : Nat) (c : Cause) (st d : Option Nat) : (s.log l u n f a c st d).doorbells = s.doorbells := rfl
@[simp] theorem log_mem (l u : Nat) (n f : Bool) (a : Nat) (c : Cause) (st d : Option Nat) : (s.log l u n f a c st d).mem = s.mem := rfl
@[simp] theorem log_poison (l u : Nat) (n f : Bool) (a : Nat) (c : Cause) (st d : Option Nat) : (s.log l u n f a c st d).poison = s.poison := rfl
@[simp] theorem log_wall (l u : Nat) (n f : Bool) (a : Nat) (c : Cause) (st d : Option Nat) : (s.log l u n f a c st d).wall = s.wall := rfl
@[simp] theorem log_pool (l u : Nat) (n f : Bool) (a : Nat) (c : Cause) (st d : Option Nat) : (s.log l u n f a c st d).pool = s.pool := rfl
@[simp] theorem log_tensors (l u : Nat) (n f : Bool) (a : Nat) (c : Cause) (st d : Option Nat) : (s.log l u n f a c st d).tensors = s.tensors := rfl
@[simp] theorem log_reels (l u : Nat) (n f : Bool) (a : Nat) (c : Cause) (st d : Option Nat) : (s.log l u n f a c st d).reels = s.reels := rfl
@[simp] theorem log_streams (l u : Nat) (n f : Bool) (a : Nat) (c : Cause) (st d : Option Nat) : (s.log l u n f a c st d).streams = s.streams := rfl
@[simp] theorem log_opens (l u : Nat) (n f : Bool) (a : Nat) (c : Cause) (st d : Option Nat) : (s.log l u n f a c st d).opens = s.opens := rfl
@[simp] theorem log_arr (l u : Nat) (n f : Bool) (a : Nat) (c : Cause) (st d : Option Nat) : (s.log l u n f a c st d).arr = s.arr := rfl
@[simp] theorem log_seq (l u : Nat) (n f : Bool) (a : Nat) (c : Cause) (st d : Option Nat) : (s.log l u n f a c st d).seq = s.seq := rfl
@[simp] theorem log_dailies (l u : Nat) (n f : Bool) (a : Nat) (c : Cause) (st d : Option Nat) : (s.log l u n f a c st d).dailies = s.dailies := rfl
@[simp] theorem log_bench (l u : Nat) (n f : Bool) (a : Nat) (c : Cause) (st d : Option Nat) : (s.log l u n f a c st d).bench = s.bench := rfl
@[simp] theorem log_units (l u : Nat) (n f : Bool) (a : Nat) (c : Cause) (st d : Option Nat) : (s.log l u n f a c st d).units = s.units := rfl
@[simp] theorem log_motion (l u : Nat) (n f : Bool) (a : Nat) (c : Cause) (st d : Option Nat) : (s.log l u n f a c st d).motion = s.motion := rfl
@[simp] theorem log_chk (l u : Nat) (n f : Bool) (a : Nat) (c : Cause) (st d : Option Nat) : (s.log l u n f a c st d).chk = s.chk := rfl
@[simp] theorem log_ovl (l u : Nat) (n f : Bool) (a : Nat) (c : Cause) (st d : Option Nat) : (s.log l u n f a c st d).ovl = s.ovl := rfl
@[simp] theorem log_gates (l u : Nat) (n f : Bool) (a : Nat) (c : Cause) (st d : Option Nat) : (s.log l u n f a c st d).gates = s.gates := rfl
@[simp] theorem log_ports (l u : Nat) (n f : Bool) (a : Nat) (c : Cause) (st d : Option Nat) : (s.log l u n f a c st d).ports = s.ports := rfl
@[simp] theorem log_set (l u : Nat) (n f : Bool) (a : Nat) (c : Cause) (st d : Option Nat) : (s.log l u n f a c st d).set = s.set := rfl
@[simp] theorem log_fw (l u : Nat) (n f : Bool) (a : Nat) (c : Cause) (st d : Option Nat) : (s.log l u n f a c st d).fw = s.fw := rfl
@[simp] theorem log_inputs (l u : Nat) (n f : Bool) (a : Nat) (c : Cause) (st d : Option Nat) : (s.log l u n f a c st d).inputs = s.inputs := rfl
@[simp] theorem log_board (l u : Nat) (n f : Bool) (a : Nat) (c : Cause) (st d : Option Nat) : (s.log l u n f a c st d).board = s.board := rfl
@[simp] theorem log_tags (l u : Nat) (n f : Bool) (a : Nat) (c : Cause) (st d : Option Nat) : (s.log l u n f a c st d).tags = s.tags := rfl
@[simp] theorem log_jtag (l u : Nat) (n f : Bool) (a : Nat) (c : Cause) (st d : Option Nat) : (s.log l u n f a c st d).jtag = s.jtag := rfl

/-! ### setErrStatus -/

@[simp] theorem setErrStatus_pending (b : Word32) : (s.setErrStatus b).pending = s.pending := by unfold State.setErrStatus; simp only []; split <;> simp
@[simp] theorem setErrStatus_free (b : Word32) : (s.setErrStatus b).free = s.free := by unfold State.setErrStatus; simp only []; split <;> simp
@[simp] theorem setErrStatus_fuses (b : Word32) : (s.setErrStatus b).fuses = s.fuses := by unfold State.setErrStatus; simp only []; split <;> simp
@[simp] theorem setErrStatus_flash (b : Word32) : (s.setErrStatus b).flash = s.flash := by unfold State.setErrStatus; simp only []; split <;> simp
@[simp] theorem setErrStatus_clock (b : Word32) : (s.setErrStatus b).clock = s.clock := by unfold State.setErrStatus; simp only []; split <;> simp
@[simp] theorem setErrStatus_dev (b : Word32) : (s.setErrStatus b).dev = s.dev := by unfold State.setErrStatus; simp only []; split <;> simp
@[simp] theorem setErrStatus_mbox (b : Word32) : (s.setErrStatus b).mbox = s.mbox := by unfold State.setErrStatus; simp only []; split <;> simp
@[simp] theorem setErrStatus_doorbells (b : Word32) : (s.setErrStatus b).doorbells = s.doorbells := by unfold State.setErrStatus; simp only []; split <;> simp
@[simp] theorem setErrStatus_mem (b : Word32) : (s.setErrStatus b).mem = s.mem := by unfold State.setErrStatus; simp only []; split <;> simp
@[simp] theorem setErrStatus_poison (b : Word32) : (s.setErrStatus b).poison = s.poison := by unfold State.setErrStatus; simp only []; split <;> simp
@[simp] theorem setErrStatus_wall (b : Word32) : (s.setErrStatus b).wall = s.wall := by unfold State.setErrStatus; simp only []; split <;> simp
@[simp] theorem setErrStatus_pool (b : Word32) : (s.setErrStatus b).pool = s.pool := by unfold State.setErrStatus; simp only []; split <;> simp
@[simp] theorem setErrStatus_tensors (b : Word32) : (s.setErrStatus b).tensors = s.tensors := by unfold State.setErrStatus; simp only []; split <;> simp
@[simp] theorem setErrStatus_reels (b : Word32) : (s.setErrStatus b).reels = s.reels := by unfold State.setErrStatus; simp only []; split <;> simp
@[simp] theorem setErrStatus_streams (b : Word32) : (s.setErrStatus b).streams = s.streams := by unfold State.setErrStatus; simp only []; split <;> simp
@[simp] theorem setErrStatus_opens (b : Word32) : (s.setErrStatus b).opens = s.opens := by unfold State.setErrStatus; simp only []; split <;> simp
@[simp] theorem setErrStatus_arr (b : Word32) : (s.setErrStatus b).arr = s.arr := by unfold State.setErrStatus; simp only []; split <;> simp
@[simp] theorem setErrStatus_seq (b : Word32) : (s.setErrStatus b).seq = s.seq := by unfold State.setErrStatus; simp only []; split <;> simp
@[simp] theorem setErrStatus_dailies (b : Word32) : (s.setErrStatus b).dailies = s.dailies := by unfold State.setErrStatus; simp only []; split <;> simp
@[simp] theorem setErrStatus_bench (b : Word32) : (s.setErrStatus b).bench = s.bench := by unfold State.setErrStatus; simp only []; split <;> simp
@[simp] theorem setErrStatus_units (b : Word32) : (s.setErrStatus b).units = s.units := by unfold State.setErrStatus; simp only []; split <;> simp
@[simp] theorem setErrStatus_motion (b : Word32) : (s.setErrStatus b).motion = s.motion := by unfold State.setErrStatus; simp only []; split <;> simp
@[simp] theorem setErrStatus_chk (b : Word32) : (s.setErrStatus b).chk = s.chk := by unfold State.setErrStatus; simp only []; split <;> simp
@[simp] theorem setErrStatus_ovl (b : Word32) : (s.setErrStatus b).ovl = s.ovl := by unfold State.setErrStatus; simp only []; split <;> simp
@[simp] theorem setErrStatus_gates (b : Word32) : (s.setErrStatus b).gates = s.gates := by unfold State.setErrStatus; simp only []; split <;> simp
@[simp] theorem setErrStatus_ports (b : Word32) : (s.setErrStatus b).ports = s.ports := by unfold State.setErrStatus; simp only []; split <;> simp
@[simp] theorem setErrStatus_set (b : Word32) : (s.setErrStatus b).set = s.set := by unfold State.setErrStatus; simp only []; split <;> simp
@[simp] theorem setErrStatus_fw (b : Word32) : (s.setErrStatus b).fw = s.fw := by unfold State.setErrStatus; simp only []; split <;> simp
@[simp] theorem setErrStatus_inputs (b : Word32) : (s.setErrStatus b).inputs = s.inputs := by unfold State.setErrStatus; simp only []; split <;> simp
@[simp] theorem setErrStatus_board (b : Word32) : (s.setErrStatus b).board = s.board := by unfold State.setErrStatus; simp only []; split <;> simp
@[simp] theorem setErrStatus_tags (b : Word32) : (s.setErrStatus b).tags = s.tags := by unfold State.setErrStatus; simp only []; split <;> simp
@[simp] theorem setErrStatus_jtag (b : Word32) : (s.setErrStatus b).jtag = s.jtag := by unfold State.setErrStatus; simp only []; split <;> simp

/-! ### raiseStream -/

@[simp] theorem raiseStream_pending (i : Nat) : (s.raiseStream i).pending = s.pending := by unfold State.raiseStream; split <;> simp
@[simp] theorem raiseStream_free (i : Nat) : (s.raiseStream i).free = s.free := by unfold State.raiseStream; split <;> simp
@[simp] theorem raiseStream_fuses (i : Nat) : (s.raiseStream i).fuses = s.fuses := by unfold State.raiseStream; split <;> simp
@[simp] theorem raiseStream_flash (i : Nat) : (s.raiseStream i).flash = s.flash := by unfold State.raiseStream; split <;> simp
@[simp] theorem raiseStream_clock (i : Nat) : (s.raiseStream i).clock = s.clock := by unfold State.raiseStream; split <;> simp
@[simp] theorem raiseStream_dev (i : Nat) : (s.raiseStream i).dev = s.dev := by unfold State.raiseStream; split <;> simp
@[simp] theorem raiseStream_mbox (i : Nat) : (s.raiseStream i).mbox = s.mbox := by unfold State.raiseStream; split <;> simp
@[simp] theorem raiseStream_doorbells (i : Nat) : (s.raiseStream i).doorbells = s.doorbells := by unfold State.raiseStream; split <;> simp
@[simp] theorem raiseStream_err (i : Nat) : (s.raiseStream i).err = s.err := by unfold State.raiseStream; split <;> simp
@[simp] theorem raiseStream_mem (i : Nat) : (s.raiseStream i).mem = s.mem := by unfold State.raiseStream; split <;> simp
@[simp] theorem raiseStream_poison (i : Nat) : (s.raiseStream i).poison = s.poison := by unfold State.raiseStream; split <;> simp
@[simp] theorem raiseStream_wall (i : Nat) : (s.raiseStream i).wall = s.wall := by unfold State.raiseStream; split <;> simp
@[simp] theorem raiseStream_pool (i : Nat) : (s.raiseStream i).pool = s.pool := by unfold State.raiseStream; split <;> simp
@[simp] theorem raiseStream_tensors (i : Nat) : (s.raiseStream i).tensors = s.tensors := by unfold State.raiseStream; split <;> simp
@[simp] theorem raiseStream_reels (i : Nat) : (s.raiseStream i).reels = s.reels := by unfold State.raiseStream; split <;> simp
@[simp] theorem raiseStream_opens (i : Nat) : (s.raiseStream i).opens = s.opens := by unfold State.raiseStream; split <;> simp
@[simp] theorem raiseStream_arr (i : Nat) : (s.raiseStream i).arr = s.arr := by unfold State.raiseStream; split <;> simp
@[simp] theorem raiseStream_seq (i : Nat) : (s.raiseStream i).seq = s.seq := by unfold State.raiseStream; split <;> simp
@[simp] theorem raiseStream_dailies (i : Nat) : (s.raiseStream i).dailies = s.dailies := by unfold State.raiseStream; split <;> simp
@[simp] theorem raiseStream_bench (i : Nat) : (s.raiseStream i).bench = s.bench := by unfold State.raiseStream; split <;> simp
@[simp] theorem raiseStream_units (i : Nat) : (s.raiseStream i).units = s.units := by unfold State.raiseStream; split <;> simp
@[simp] theorem raiseStream_motion (i : Nat) : (s.raiseStream i).motion = s.motion := by unfold State.raiseStream; split <;> simp
@[simp] theorem raiseStream_chk (i : Nat) : (s.raiseStream i).chk = s.chk := by unfold State.raiseStream; split <;> simp
@[simp] theorem raiseStream_ovl (i : Nat) : (s.raiseStream i).ovl = s.ovl := by unfold State.raiseStream; split <;> simp
@[simp] theorem raiseStream_gates (i : Nat) : (s.raiseStream i).gates = s.gates := by unfold State.raiseStream; split <;> simp
@[simp] theorem raiseStream_ports (i : Nat) : (s.raiseStream i).ports = s.ports := by unfold State.raiseStream; split <;> simp
@[simp] theorem raiseStream_set (i : Nat) : (s.raiseStream i).set = s.set := by unfold State.raiseStream; split <;> simp
@[simp] theorem raiseStream_fw (i : Nat) : (s.raiseStream i).fw = s.fw := by unfold State.raiseStream; split <;> simp
@[simp] theorem raiseStream_inputs (i : Nat) : (s.raiseStream i).inputs = s.inputs := by unfold State.raiseStream; split <;> simp
@[simp] theorem raiseStream_board (i : Nat) : (s.raiseStream i).board = s.board := by unfold State.raiseStream; split <;> simp
@[simp] theorem raiseStream_tags (i : Nat) : (s.raiseStream i).tags = s.tags := by unfold State.raiseStream; split <;> simp
@[simp] theorem raiseStream_jtag (i : Nat) : (s.raiseStream i).jtag = s.jtag := by unfold State.raiseStream; split <;> simp

/-! ### The part itself -/

@[simp] theorem stream_updStream_same {i : Nat} (f : Stream → Stream) (h : i < 1024) : (s.updStream i f).stream i = f (s.stream i) := by
  simp [State.updStream, State.stream, h]

theorem stream_updStream_ne {i j : Nat} (f : Stream → Stream) (h : i ≠ j) : (s.updStream i f).stream j = s.stream j := by
  by_cases hi : i < 1024 <;> by_cases hj : j < 1024 <;> simp [State.updStream, State.stream, hi, hj, h]

@[simp] theorem fresh_stream_part (j : Nat) : (s.fresh).stream j = s.stream j := by simp [State.stream]
@[simp] theorem spend_stream_part (j : Nat) : (s.spend).stream j = s.stream j := by simp [State.stream]
@[simp] theorem answer_stream_part (b : List Byte) (j : Nat) : (s.answer b).stream j = s.stream j := by simp [State.stream]
@[simp] theorem updGate_stream_part (i : Nat) (f : Gate → Gate) (j : Nat) : (s.updGate i f).stream j = s.stream j := by simp [State.stream]
@[simp] theorem updPort_stream_part (i : Nat) (f : Port → Port) (j : Nat) : (s.updPort i f).stream j = s.stream j := by simp [State.stream]
@[simp] theorem updBlock_stream_part (i : Nat) (f : BlockUnit → BlockUnit) (j : Nat) : (s.updBlock i f).stream j = s.stream j := by simp [State.stream]
@[simp] theorem updEngine_stream_part (i : Nat) (f : EngineUnit → EngineUnit) (j : Nat) : (s.updEngine i f).stream j = s.stream j := by simp [State.stream]
@[simp] theorem setChan_stream_part (i : Nat) (b : List Byte) (j : Nat) : (s.setChan i b).stream j = s.stream j := by simp [State.stream]
@[simp] theorem updReel_stream_part (h : Nat) (f : LoadedReel → LoadedReel) (j : Nat) : (s.updReel h f).stream j = s.stream j := by simp [State.stream]
@[simp] theorem updDecisions_stream_part (i : Nat) (f : Decisions → Decisions) (j : Nat) : (s.updDecisions i f).stream j = s.stream j := by simp [State.stream]
@[simp] theorem writeBytes_stream_part (a : Nat) (b : List Byte) (j : Nat) : (s.writeBytes a b).stream j = s.stream j := by simp [State.stream]
@[simp] theorem writeNat_stream_part (a n v : Nat) (j : Nat) : (s.writeNat a n v).stream j = s.stream j := by simp [State.stream]
@[simp] theorem poisonRange_stream_part (a n : Nat) (j : Nat) : (s.poisonRange a n).stream j = s.stream j := by simp [State.stream]
@[simp] theorem flashWrite_stream_part (a : Nat) (b : List Byte) (j : Nat) : (s.flashWrite a b).stream j = s.stream j := by simp [State.stream]
@[simp] theorem advanceTo_stream_part (x : Nat) (j : Nat) : (s.advanceTo x).stream j = s.stream j := by simp [State.stream]
@[simp] theorem tick_stream_part (j : Nat) : (s.tick).stream j = s.stream j := by simp [State.stream]
@[simp] theorem raise_stream_part (v : Nat) (j : Nat) : (s.raise v).stream j = s.stream j := by simp [State.stream]
@[simp] theorem flushPending_stream_part (j : Nat) : (s.flushPending).stream j = s.stream j := by simp [State.stream]
@[simp] theorem release_stream_part (p : Owner → Bool) (j : Nat) : (s.release p).stream j = s.stream j := by simp [State.stream]
@[simp] theorem openWindow_stream_part (a n : Nat) (w : Bool) (o : Owner) (j : Nat) : (s.openWindow a n w o).stream j = s.stream j := by simp [State.stream]
@[simp] theorem setProducer_stream_part (r : Ring) (v : Nat) (j : Nat) : (s.setProducer r v).stream j = s.stream j := by simp [State.stream]
@[simp] theorem setConsumer_stream_part (r : Ring) (v : Nat) (j : Nat) : (s.setConsumer r v).stream j = s.stream j := by simp [State.stream]
@[simp] theorem logAt_stream_part (i : Option Nat) (l u : Nat) (n f : Bool) (a : Nat) (c : Cause) (st d : Option Nat) (j : Nat) : (s.logAt i l u n f a c st d).stream j = s.stream j := by simp [State.stream]
@[simp] theorem log_stream_part (l u : Nat) (n f : Bool) (a : Nat) (c : Cause) (st d : Option Nat) (j : Nat) : (s.log l u n f a c st d).stream j = s.stream j := by simp [State.stream]
@[simp] theorem setErrStatus_stream_part (b : Word32) (j : Nat) : (s.setErrStatus b).stream j = s.stream j := by simp [State.stream]

@[simp] theorem gate_updGate_same {i : Nat} (f : Gate → Gate) (h : i < 4) : (s.updGate i f).gate i = f (s.gate i) := by
  simp [State.updGate, State.gate, h]

theorem gate_updGate_ne {i j : Nat} (f : Gate → Gate) (h : i ≠ j) : (s.updGate i f).gate j = s.gate j := by
  by_cases hi : i < 4 <;> by_cases hj : j < 4 <;> simp [State.updGate, State.gate, hi, hj, h]

@[simp] theorem fresh_gate_part (j : Nat) : (s.fresh).gate j = s.gate j := by simp [State.gate]
@[simp] theorem spend_gate_part (j : Nat) : (s.spend).gate j = s.gate j := by simp [State.gate]
@[simp] theorem answer_gate_part (b : List Byte) (j : Nat) : (s.answer b).gate j = s.gate j := by simp [State.gate]
@[simp] theorem updStream_gate_part (i : Nat) (f : Stream → Stream) (j : Nat) : (s.updStream i f).gate j = s.gate j := by simp [State.gate]
@[simp] theorem updPort_gate_part (i : Nat) (f : Port → Port) (j : Nat) : (s.updPort i f).gate j = s.gate j := by simp [State.gate]
@[simp] theorem updBlock_gate_part (i : Nat) (f : BlockUnit → BlockUnit) (j : Nat) : (s.updBlock i f).gate j = s.gate j := by simp [State.gate]
@[simp] theorem updEngine_gate_part (i : Nat) (f : EngineUnit → EngineUnit) (j : Nat) : (s.updEngine i f).gate j = s.gate j := by simp [State.gate]
@[simp] theorem setChan_gate_part (i : Nat) (b : List Byte) (j : Nat) : (s.setChan i b).gate j = s.gate j := by simp [State.gate]
@[simp] theorem updReel_gate_part (h : Nat) (f : LoadedReel → LoadedReel) (j : Nat) : (s.updReel h f).gate j = s.gate j := by simp [State.gate]
@[simp] theorem updDecisions_gate_part (i : Nat) (f : Decisions → Decisions) (j : Nat) : (s.updDecisions i f).gate j = s.gate j := by simp [State.gate]
@[simp] theorem updFrame_gate_part (i k : Nat) (f : Frame → Frame) (j : Nat) : (s.updFrame i k f).gate j = s.gate j := by simp [State.gate]
@[simp] theorem writeBytes_gate_part (a : Nat) (b : List Byte) (j : Nat) : (s.writeBytes a b).gate j = s.gate j := by simp [State.gate]
@[simp] theorem writeNat_gate_part (a n v : Nat) (j : Nat) : (s.writeNat a n v).gate j = s.gate j := by simp [State.gate]
@[simp] theorem poisonRange_gate_part (a n : Nat) (j : Nat) : (s.poisonRange a n).gate j = s.gate j := by simp [State.gate]
@[simp] theorem flashWrite_gate_part (a : Nat) (b : List Byte) (j : Nat) : (s.flashWrite a b).gate j = s.gate j := by simp [State.gate]
@[simp] theorem advanceTo_gate_part (x : Nat) (j : Nat) : (s.advanceTo x).gate j = s.gate j := by simp [State.gate]
@[simp] theorem tick_gate_part (j : Nat) : (s.tick).gate j = s.gate j := by simp [State.gate]
@[simp] theorem raise_gate_part (v : Nat) (j : Nat) : (s.raise v).gate j = s.gate j := by simp [State.gate]
@[simp] theorem flushPending_gate_part (j : Nat) : (s.flushPending).gate j = s.gate j := by simp [State.gate]
@[simp] theorem release_gate_part (p : Owner → Bool) (j : Nat) : (s.release p).gate j = s.gate j := by simp [State.gate]
@[simp] theorem openWindow_gate_part (a n : Nat) (w : Bool) (o : Owner) (j : Nat) : (s.openWindow a n w o).gate j = s.gate j := by simp [State.gate]
@[simp] theorem setProducer_gate_part (r : Ring) (v : Nat) (j : Nat) : (s.setProducer r v).gate j = s.gate j := by simp [State.gate]
@[simp] theorem setConsumer_gate_part (r : Ring) (v : Nat) (j : Nat) : (s.setConsumer r v).gate j = s.gate j := by simp [State.gate]
@[simp] theorem logAt_gate_part (i : Option Nat) (l u : Nat) (n f : Bool) (a : Nat) (c : Cause) (st d : Option Nat) (j : Nat) : (s.logAt i l u n f a c st d).gate j = s.gate j := by simp [State.gate]
@[simp] theorem log_gate_part (l u : Nat) (n f : Bool) (a : Nat) (c : Cause) (st d : Option Nat) (j : Nat) : (s.log l u n f a c st d).gate j = s.gate j := by simp [State.gate]
@[simp] theorem setErrStatus_gate_part (b : Word32) (j : Nat) : (s.setErrStatus b).gate j = s.gate j := by simp [State.gate]
@[simp] theorem raiseStream_gate_part (i : Nat) (j : Nat) : (s.raiseStream i).gate j = s.gate j := by simp [State.gate]

@[simp] theorem port_updPort_same {i : Nat} (f : Port → Port) (h : i < 6) : (s.updPort i f).port i = f (s.port i) := by
  simp [State.updPort, State.port, h]

theorem port_updPort_ne {i j : Nat} (f : Port → Port) (h : i ≠ j) : (s.updPort i f).port j = s.port j := by
  by_cases hi : i < 6 <;> by_cases hj : j < 6 <;> simp [State.updPort, State.port, hi, hj, h]

@[simp] theorem fresh_port_part (j : Nat) : (s.fresh).port j = s.port j := by simp [State.port]
@[simp] theorem spend_port_part (j : Nat) : (s.spend).port j = s.port j := by simp [State.port]
@[simp] theorem answer_port_part (b : List Byte) (j : Nat) : (s.answer b).port j = s.port j := by simp [State.port]
@[simp] theorem updStream_port_part (i : Nat) (f : Stream → Stream) (j : Nat) : (s.updStream i f).port j = s.port j := by simp [State.port]
@[simp] theorem updGate_port_part (i : Nat) (f : Gate → Gate) (j : Nat) : (s.updGate i f).port j = s.port j := by simp [State.port]
@[simp] theorem updBlock_port_part (i : Nat) (f : BlockUnit → BlockUnit) (j : Nat) : (s.updBlock i f).port j = s.port j := by simp [State.port]
@[simp] theorem updEngine_port_part (i : Nat) (f : EngineUnit → EngineUnit) (j : Nat) : (s.updEngine i f).port j = s.port j := by simp [State.port]
@[simp] theorem setChan_port_part (i : Nat) (b : List Byte) (j : Nat) : (s.setChan i b).port j = s.port j := by simp [State.port]
@[simp] theorem updReel_port_part (h : Nat) (f : LoadedReel → LoadedReel) (j : Nat) : (s.updReel h f).port j = s.port j := by simp [State.port]
@[simp] theorem updDecisions_port_part (i : Nat) (f : Decisions → Decisions) (j : Nat) : (s.updDecisions i f).port j = s.port j := by simp [State.port]
@[simp] theorem updFrame_port_part (i k : Nat) (f : Frame → Frame) (j : Nat) : (s.updFrame i k f).port j = s.port j := by simp [State.port]
@[simp] theorem writeBytes_port_part (a : Nat) (b : List Byte) (j : Nat) : (s.writeBytes a b).port j = s.port j := by simp [State.port]
@[simp] theorem writeNat_port_part (a n v : Nat) (j : Nat) : (s.writeNat a n v).port j = s.port j := by simp [State.port]
@[simp] theorem poisonRange_port_part (a n : Nat) (j : Nat) : (s.poisonRange a n).port j = s.port j := by simp [State.port]
@[simp] theorem flashWrite_port_part (a : Nat) (b : List Byte) (j : Nat) : (s.flashWrite a b).port j = s.port j := by simp [State.port]
@[simp] theorem advanceTo_port_part (x : Nat) (j : Nat) : (s.advanceTo x).port j = s.port j := by simp [State.port]
@[simp] theorem tick_port_part (j : Nat) : (s.tick).port j = s.port j := by simp [State.port]
@[simp] theorem raise_port_part (v : Nat) (j : Nat) : (s.raise v).port j = s.port j := by simp [State.port]
@[simp] theorem flushPending_port_part (j : Nat) : (s.flushPending).port j = s.port j := by simp [State.port]
@[simp] theorem release_port_part (p : Owner → Bool) (j : Nat) : (s.release p).port j = s.port j := by simp [State.port]
@[simp] theorem openWindow_port_part (a n : Nat) (w : Bool) (o : Owner) (j : Nat) : (s.openWindow a n w o).port j = s.port j := by simp [State.port]
@[simp] theorem setProducer_port_part (r : Ring) (v : Nat) (j : Nat) : (s.setProducer r v).port j = s.port j := by simp [State.port]
@[simp] theorem setConsumer_port_part (r : Ring) (v : Nat) (j : Nat) : (s.setConsumer r v).port j = s.port j := by simp [State.port]
@[simp] theorem logAt_port_part (i : Option Nat) (l u : Nat) (n f : Bool) (a : Nat) (c : Cause) (st d : Option Nat) (j : Nat) : (s.logAt i l u n f a c st d).port j = s.port j := by simp [State.port]
@[simp] theorem log_port_part (l u : Nat) (n f : Bool) (a : Nat) (c : Cause) (st d : Option Nat) (j : Nat) : (s.log l u n f a c st d).port j = s.port j := by simp [State.port]
@[simp] theorem setErrStatus_port_part (b : Word32) (j : Nat) : (s.setErrStatus b).port j = s.port j := by simp [State.port]
@[simp] theorem raiseStream_port_part (i : Nat) (j : Nat) : (s.raiseStream i).port j = s.port j := by simp [State.port]

@[simp] theorem setChan_chanBytes_same {c : Nat} (b : List Byte) (h : c < 16) : (s.setChan c b).chanBytes c = b := by
  simp [State.setChan, State.chanBytes, h]

theorem setChan_chanBytes_ne {c d : Nat} (b : List Byte) (h : c ≠ d) : (s.setChan c b).chanBytes d = s.chanBytes d := by
  by_cases hi : c < 16 <;> by_cases hj : d < 16 <;> simp [State.setChan, State.chanBytes, hi, hj, h]

@[simp] theorem fresh_out : s.fresh.out = Out.none := rfl
@[simp] theorem spend_free : s.spend.free = s.free + 1 := rfl
@[simp] theorem answer_data (b : List Byte) : (s.answer b).out.data = b := rfl
@[simp] theorem fresh_fresh : s.fresh.fresh = s.fresh := rfl

/-- Running or not, `advanceTo` never takes the clapper back, and it reaches its time when the clapper runs. -/
theorem advanceTo_clap (x : Nat) (h : s.clock.running = true) : (s.advanceTo x).clock.clap = max s.clock.clap x := by
  unfold State.advanceTo
  by_cases hx : s.clock.clap < x
  · simp [h, hx, Nat.max_eq_right (Nat.le_of_lt hx)]
  · simp [h, hx]; omega

theorem advanceTo_reached {x : Nat} (h : x ≤ s.clock.clap) : s.advanceTo x = s := by
  unfold State.advanceTo
  have : ¬ s.clock.clap < x := by omega
  simp [this]

@[simp] theorem advanceTo_running (x : Nat) : (s.advanceTo x).clock.running = s.clock.running := by
  unfold State.advanceTo; split <;> rfl

@[simp] theorem advanceTo_source (x : Nat) : (s.advanceTo x).clock.source = s.clock.source := by
  unfold State.advanceTo; split <;> rfl

@[simp] theorem advanceTo_state (x : Nat) : (s.advanceTo x).clock.state = s.clock.state := by
  unfold State.advanceTo; split <;> rfl

end Laws
end Sys2Proof.Machine
end

