-- ==== Sys2Proof/Laws/Memory.lean ====
section
/-!
SUPPORT. Device memory and flash as sparse lists: every write keeps the canonical form, a read after a write gives the
bytes written, and every other address reads as before.
-/
namespace Sys2Proof.Machine
namespace Laws

/-! ### The canonical form in words -/

theorem cellsAbove_iff (d : Byte) (lo : Option Nat) (m : List Host.Cell) :
    cellsAbove d lo m = true ↔
      (∀ l ∈ lo, ∀ c ∈ m, l < c.1) ∧ m.Pairwise (fun a b => a.1 < b.1) ∧ ∀ c ∈ m, c.2 ≠ d := by
  induction m generalizing lo with
  | nil => simp [cellsAbove]
  | cons c m ih =>
    obtain ⟨a, v⟩ := c
    simp only [cellsAbove, Bool.and_eq_true, ih, List.pairwise_cons, List.mem_cons, Option.mem_def, Option.some.injEq,
      forall_eq', Bool.not_eq_true', beq_eq_false_iff_ne]
    constructor
    · rintro ⟨⟨h1, h2⟩, h3, h4, h5⟩
      refine ⟨?_, ⟨h3, h4⟩, ?_⟩
      · rintro l rfl c (rfl | hc)
        · simpa using h1
        · have : l < a := by simpa using h1
          have := h3 c hc
          omega
      · rintro c (rfl | hc)
        · exact h2
        · exact h5 c hc
    · rintro ⟨h1, ⟨h2, h3⟩, h4⟩
      refine ⟨⟨?_, h4 _ (Or.inl rfl)⟩, h2, h3, fun c hc => h4 c (Or.inr hc)⟩
      cases lo with
      | none => rfl
      | some l => simpa using h1 l rfl (a, v) (Or.inl rfl)

theorem wfAt_iff (d : Byte) (m : List Host.Cell) :
    Memory.wfAt d m = true ↔ m.Pairwise (fun a b => a.1 < b.1) ∧ ∀ c ∈ m, c.2 ≠ d := by
  simp [Memory.wfAt, cellsAbove_iff]

/-! ### Writing -/

theorem mem_freshCells {d : Byte} {x : Nat} {vs : List Byte} {c : Host.Cell} (h : c ∈ freshCells d x vs) :
    x ≤ c.1 ∧ c.1 < x + vs.length ∧ c.2 ≠ d := by
  induction vs generalizing x with
  | nil => simp [freshCells] at h
  | cons v vs ih =>
    simp only [freshCells] at h
    split at h
    · have := ih h
      simp only [List.length_cons]
      exact ⟨by omega, by omega, this.2.2⟩
    · rcases List.mem_cons.mp h with rfl | h
      · simp_all
      · have := ih h
        simp only [List.length_cons]
        exact ⟨by omega, by omega, this.2.2⟩

theorem freshCells_pairwise (d : Byte) (x : Nat) (vs : List Byte) :
    (freshCells d x vs).Pairwise (fun a b => a.1 < b.1) := by
  induction vs generalizing x with
  | nil => simp [freshCells]
  | cons v vs ih =>
    simp only [freshCells]
    split
    · exact ih _
    · refine List.pairwise_cons.mpr ⟨fun c hc => ?_, ih _⟩
      have := mem_freshCells hc
      simp only
      omega

/-- Every write keeps the canonical form. -/
theorem cellWriteMany_wf (d : Byte) (m : List Host.Cell) (x : Nat) (vs : List Byte) (h : Memory.wfAt d m = true) :
    Memory.wfAt d (cellWriteMany d m x vs) = true := by
  rw [wfAt_iff] at h ⊢
  obtain ⟨hp, hd⟩ := h
  unfold cellWriteMany
  constructor
  · rw [List.pairwise_append, List.pairwise_append]
    refine ⟨⟨hp.filter _, freshCells_pairwise d x vs, ?_⟩, hp.filter _, ?_⟩
    · intro a ha b hb
      have := mem_freshCells hb
      have : a.1 < x := by simpa using (List.mem_filter.mp ha).2
      omega
    · intro a ha b hb
      have hb' : x + vs.length ≤ b.1 := by simpa using (List.mem_filter.mp hb).2
      rcases List.mem_append.mp ha with ha | ha
      · have : a.1 < x := by simpa using (List.mem_filter.mp ha).2
        omega
      · have := mem_freshCells ha
        omega
  · intro c hc
    rcases List.mem_append.mp hc with hc | hc
    · rcases List.mem_append.mp hc with hc | hc
      · exact hd c (List.mem_filter.mp hc).1
      · exact (mem_freshCells hc).2.2
    · exact hd c (List.mem_filter.mp hc).1

/-! ### Reading -/

theorem cellRead_unlisted {d : Byte} {m : List Host.Cell} {a : Nat} (h : ∀ c ∈ m, c.1 ≠ a) : cellRead d m a = d := by
  induction m with
  | nil => rfl
  | cons c m ih =>
    obtain ⟨b, v⟩ := c
    have hb : a ≠ b := fun e => h (b, v) (by simp) e.symm
    simp only [cellRead, hb, if_false]
    exact ih fun c hc => h c (by simp [hc])

theorem cellRead_append {d : Byte} {m n : List Host.Cell} {a : Nat} (h : ∀ c ∈ m, c.1 ≠ a) :
    cellRead d (m ++ n) a = cellRead d n a := by
  induction m with
  | nil => rfl
  | cons c m ih =>
    obtain ⟨b, v⟩ := c
    have hb : a ≠ b := fun e => h (b, v) (by simp) e.symm
    simp only [List.cons_append, cellRead, hb, if_false]
    exact ih fun c hc => h c (by simp [hc])

theorem cellRead_append_left {d : Byte} {m n : List Host.Cell} {a : Nat} (h : ∀ c ∈ n, c.1 ≠ a) :
    cellRead d (m ++ n) a = cellRead d m a := by
  induction m with
  | nil => simpa [cellRead] using cellRead_unlisted h
  | cons c m ih =>
    obtain ⟨b, v⟩ := c
    simp only [List.cons_append, cellRead, ih]

theorem cellRead_filter {d : Byte} {m : List Host.Cell} {p : Nat → Bool} {a : Nat} (h : p a = true) :
    cellRead d (m.filter fun c => p c.1) a = cellRead d m a := by
  induction m with
  | nil => rfl
  | cons c m ih =>
    obtain ⟨b, v⟩ := c
    by_cases hb : p b = true
    · simp [hb, cellRead, ih]
    · have : a ≠ b := fun e => hb (e ▸ h)
      simp [hb, cellRead, ih, this]

theorem cellRead_fresh (d : Byte) (x : Nat) (vs : List Byte) (i : Nat) (h : i < vs.length) :
    cellRead d (freshCells d x vs) (x + i) = vs[i] := by
  induction vs generalizing x i with
  | nil => simp at h
  | cons v vs ih =>
    have rest (hi : 0 < i) : cellRead d (freshCells d (x + 1) vs) (x + i) = (v :: vs)[i] := by
      obtain ⟨j, rfl⟩ : ∃ j, i = j + 1 := ⟨i - 1, by omega⟩
      have hj : j < vs.length := by simpa using h
      have := ih (x + 1) j hj
      rw [show x + (j + 1) = x + 1 + j by omega, this]
      simp
    simp only [freshCells]
    by_cases hi : i = 0
    · subst hi
      split
      · next hv =>
        rw [cellRead_unlisted fun c hc => by have := mem_freshCells hc; omega]
        simp [hv]
      · simp [cellRead]
    · split
      · exact rest (by omega)
      · rw [cellRead, if_neg (by omega)]
        exact rest (by omega)

/-- A read after a write gives the bytes written. -/
theorem cellRead_write_inside (d : Byte) (m : List Host.Cell) (x : Nat) (vs : List Byte) (i : Nat) (h : i < vs.length) :
    cellRead d (cellWriteMany d m x vs) (x + i) = vs[i] := by
  unfold cellWriteMany
  rw [List.append_assoc, cellRead_append fun c hc => by
    have : c.1 < x := by simpa using (List.mem_filter.mp hc).2
    omega]
  rw [cellRead_append_left fun c hc => by
    have : x + vs.length ≤ c.1 := by simpa using (List.mem_filter.mp hc).2
    omega]
  exact cellRead_fresh d x vs i h

/-- A write leaves every other place alone. -/
theorem cellRead_write_outside (d : Byte) (m : List Host.Cell) (x : Nat) (vs : List Byte) (a : Nat)
    (h : a < x ∨ x + vs.length ≤ a) : cellRead d (cellWriteMany d m x vs) a = cellRead d m a := by
  unfold cellWriteMany
  have hf : ∀ c ∈ freshCells d x vs, c.1 ≠ a := fun c hc => by have := mem_freshCells hc; omega
  rcases h with h | h
  · rw [cellRead_append_left fun c hc => by
      have : x + vs.length ≤ c.1 := by simpa using (List.mem_filter.mp hc).2
      omega]
    rw [cellRead_append_left hf]
    exact cellRead_filter (p := fun y => decide (y < x)) (by simpa using h)
  · rw [cellRead_append fun c hc => by
      rcases List.mem_append.mp hc with hc | hc
      · have : c.1 < x := by simpa using (List.mem_filter.mp hc).2
        omega
      · exact hf c hc]
    exact cellRead_filter (p := fun y => decide (x + vs.length ≤ y)) (by simpa using h)

/-! ### The same of the state -/

variable (s : State)

theorem readByte_writeBytes_inside (x : Nat) (vs : List Byte) (i : Nat) (h : i < vs.length) :
    (s.writeBytes x vs).readByte (x + i) = vs[i] := cellRead_write_inside _ _ _ _ _ h

theorem readByte_writeBytes_outside (x : Nat) (vs : List Byte) (a : Nat) (h : a < x ∨ x + vs.length ≤ a) :
    (s.writeBytes x vs).readByte a = s.readByte a := cellRead_write_outside _ _ _ _ _ h

/-- A run of bytes is its bytes, one by one. -/
theorem readBytes_eq (a n : Nat) : s.readBytes a n = (List.range n).map fun i => s.readByte (a + i) := by
  unfold State.readBytes State.readByte cellWindow
  refine List.map_congr_left fun i hi => ?_
  have : i < n := List.mem_range.mp hi
  exact cellRead_filter (p := fun y => decide (a ≤ y) && decide (y < a + n)) (by simp; omega)

theorem readBytes_congr {s t : State} (h : t.mem = s.mem) (a n : Nat) : t.readBytes a n = s.readBytes a n := by
  unfold State.readBytes; rw [h]

theorem readByte_congr {s t : State} (h : t.mem = s.mem) (a : Nat) : t.readByte a = s.readByte a := by
  unfold State.readByte; rw [h]

theorem readBytes_writeBytes (x : Nat) (vs : List Byte) : (s.writeBytes x vs).readBytes x vs.length = vs := by
  rw [readBytes_eq]
  refine List.ext_getElem (by simp) fun i h1 h2 => ?_
  simp [readByte_writeBytes_inside s x vs i h2]

theorem writeBytes_canonical (x : Nat) (vs : List Byte) (h : s.memoryCanonical = true) :
    (s.writeBytes x vs).memoryCanonical = true := by
  simp only [State.memoryCanonical, Bool.and_eq_true] at h ⊢
  exact ⟨cellWriteMany_wf _ _ _ _ h.1, h.2⟩

theorem flashWrite_canonical (x : Nat) (vs : List Byte) (h : s.memoryCanonical = true) :
    (s.flashWrite x vs).memoryCanonical = true := by
  simp only [State.memoryCanonical, Bool.and_eq_true] at h ⊢
  exact ⟨h.1, cellWriteMany_wf _ _ _ _ h.2⟩

theorem canonical_congr {s t : State} (hm : t.mem = s.mem) (hf : t.flash = s.flash) :
    t.memoryCanonical = s.memoryCanonical := by
  unfold State.memoryCanonical; rw [hm, hf]

end Laws
end Sys2Proof.Machine
end

