-- ==== Sys2Proof/Laws/Ops.lean ====
section
/-!
SUPPORT. What each shared operation leaves alone: rings and events, the mailbox's answers, the checker's events and
SAFE_STATE, the error log and its slots, ports and the clapper's state.
-/
namespace Sys2Proof.Machine
namespace Laws

variable (s : State)

/-! ### ringPush -/

@[simp] theorem ringPush_pending (i r : Nat) (b : List Byte) : (s.ringPush i r b).1.pending = s.pending := by simp only [State.ringPush]; (repeat' split) <;> simp
@[simp] theorem ringPush_free (i r : Nat) (b : List Byte) : (s.ringPush i r b).1.free = s.free := by simp only [State.ringPush]; (repeat' split) <;> simp
@[simp] theorem ringPush_fuses (i r : Nat) (b : List Byte) : (s.ringPush i r b).1.fuses = s.fuses := by simp only [State.ringPush]; (repeat' split) <;> simp
@[simp] theorem ringPush_flash (i r : Nat) (b : List Byte) : (s.ringPush i r b).1.flash = s.flash := by simp only [State.ringPush]; (repeat' split) <;> simp
@[simp] theorem ringPush_clock (i r : Nat) (b : List Byte) : (s.ringPush i r b).1.clock = s.clock := by simp only [State.ringPush]; (repeat' split) <;> simp
@[simp] theorem ringPush_dev (i r : Nat) (b : List Byte) : (s.ringPush i r b).1.dev = s.dev := by simp only [State.ringPush]; (repeat' split) <;> simp
@[simp] theorem ringPush_mbox (i r : Nat) (b : List Byte) : (s.ringPush i r b).1.mbox = s.mbox := by simp only [State.ringPush]; (repeat' split) <;> simp
@[simp] theorem ringPush_doorbells (i r : Nat) (b : List Byte) : (s.ringPush i r b).1.doorbells = s.doorbells := by simp only [State.ringPush]; (repeat' split) <;> simp
@[simp] theorem ringPush_err (i r : Nat) (b : List Byte) : (s.ringPush i r b).1.err = s.err := by simp only [State.ringPush]; (repeat' split) <;> simp
@[simp] theorem ringPush_wall (i r : Nat) (b : List Byte) : (s.ringPush i r b).1.wall = s.wall := by simp only [State.ringPush]; (repeat' split) <;> simp
@[simp] theorem ringPush_pool (i r : Nat) (b : List Byte) : (s.ringPush i r b).1.pool = s.pool := by simp only [State.ringPush]; (repeat' split) <;> simp
@[simp] theorem ringPush_tensors (i r : Nat) (b : List Byte) : (s.ringPush i r b).1.tensors = s.tensors := by simp only [State.ringPush]; (repeat' split) <;> simp
@[simp] theorem ringPush_reels (i r : Nat) (b : List Byte) : (s.ringPush i r b).1.reels = s.reels := by simp only [State.ringPush]; (repeat' split) <;> simp
@[simp] theorem ringPush_opens (i r : Nat) (b : List Byte) : (s.ringPush i r b).1.opens = s.opens := by simp only [State.ringPush]; (repeat' split) <;> simp
@[simp] theorem ringPush_arr (i r : Nat) (b : List Byte) : (s.ringPush i r b).1.arr = s.arr := by simp only [State.ringPush]; (repeat' split) <;> simp
@[simp] theorem ringPush_seq (i r : Nat) (b : List Byte) : (s.ringPush i r b).1.seq = s.seq := by simp only [State.ringPush]; (repeat' split) <;> simp
@[simp] theorem ringPush_dailies (i r : Nat) (b : List Byte) : (s.ringPush i r b).1.dailies = s.dailies := by simp only [State.ringPush]; (repeat' split) <;> simp
@[simp] theorem ringPush_bench (i r : Nat) (b : List Byte) : (s.ringPush i r b).1.bench = s.bench := by simp only [State.ringPush]; (repeat' split) <;> simp
@[simp] theorem ringPush_units (i r : Nat) (b : List Byte) : (s.ringPush i r b).1.units = s.units := by simp only [State.ringPush]; (repeat' split) <;> simp
@[simp] theorem ringPush_motion (i r : Nat) (b : List Byte) : (s.ringPush i r b).1.motion = s.motion := by simp only [State.ringPush]; (repeat' split) <;> simp
@[simp] theorem ringPush_chk (i r : Nat) (b : List Byte) : (s.ringPush i r b).1.chk = s.chk := by simp only [State.ringPush]; (repeat' split) <;> simp
@[simp] theorem ringPush_ovl (i r : Nat) (b : List Byte) : (s.ringPush i r b).1.ovl = s.ovl := by simp only [State.ringPush]; (repeat' split) <;> simp
@[simp] theorem ringPush_gates (i r : Nat) (b : List Byte) : (s.ringPush i r b).1.gates = s.gates := by simp only [State.ringPush]; (repeat' split) <;> simp
@[simp] theorem ringPush_ports (i r : Nat) (b : List Byte) : (s.ringPush i r b).1.ports = s.ports := by simp only [State.ringPush]; (repeat' split) <;> simp
@[simp] theorem ringPush_set (i r : Nat) (b : List Byte) : (s.ringPush i r b).1.set = s.set := by simp only [State.ringPush]; (repeat' split) <;> simp
@[simp] theorem ringPush_fw (i r : Nat) (b : List Byte) : (s.ringPush i r b).1.fw = s.fw := by simp only [State.ringPush]; (repeat' split) <;> simp
@[simp] theorem ringPush_inputs (i r : Nat) (b : List Byte) : (s.ringPush i r b).1.inputs = s.inputs := by simp only [State.ringPush]; (repeat' split) <;> simp
@[simp] theorem ringPush_board (i r : Nat) (b : List Byte) : (s.ringPush i r b).1.board = s.board := by simp only [State.ringPush]; (repeat' split) <;> simp
@[simp] theorem ringPush_tags (i r : Nat) (b : List Byte) : (s.ringPush i r b).1.tags = s.tags := by simp only [State.ringPush]; (repeat' split) <;> simp
@[simp] theorem ringPush_jtag (i r : Nat) (b : List Byte) : (s.ringPush i r b).1.jtag = s.jtag := by simp only [State.ringPush]; (repeat' split) <;> simp

/-! ### postDevice -/

@[simp] theorem postDevice_pending (c d f : Nat) (p : List Int) : (s.postDevice c d f p).pending = s.pending := by simp only [State.postDevice]; (repeat' split) <;> simp
@[simp] theorem postDevice_free (c d f : Nat) (p : List Int) : (s.postDevice c d f p).free = s.free := by simp only [State.postDevice]; (repeat' split) <;> simp
@[simp] theorem postDevice_fuses (c d f : Nat) (p : List Int) : (s.postDevice c d f p).fuses = s.fuses := by simp only [State.postDevice]; (repeat' split) <;> simp
@[simp] theorem postDevice_flash (c d f : Nat) (p : List Int) : (s.postDevice c d f p).flash = s.flash := by simp only [State.postDevice]; (repeat' split) <;> simp
@[simp] theorem postDevice_clock (c d f : Nat) (p : List Int) : (s.postDevice c d f p).clock = s.clock := by simp only [State.postDevice]; (repeat' split) <;> simp
@[simp] theorem postDevice_mbox (c d f : Nat) (p : List Int) : (s.postDevice c d f p).mbox = s.mbox := by simp only [State.postDevice]; (repeat' split) <;> simp
@[simp] theorem postDevice_doorbells (c d f : Nat) (p : List Int) : (s.postDevice c d f p).doorbells = s.doorbells := by simp only [State.postDevice]; (repeat' split) <;> simp
@[simp] theorem postDevice_err (c d f : Nat) (p : List Int) : (s.postDevice c d f p).err = s.err := by simp only [State.postDevice]; (repeat' split) <;> simp
@[simp] theorem postDevice_wall (c d f : Nat) (p : List Int) : (s.postDevice c d f p).wall = s.wall := by simp only [State.postDevice]; (repeat' split) <;> simp
@[simp] theorem postDevice_pool (c d f : Nat) (p : List Int) : (s.postDevice c d f p).pool = s.pool := by simp only [State.postDevice]; (repeat' split) <;> simp
@[simp] theorem postDevice_tensors (c d f : Nat) (p : List Int) : (s.postDevice c d f p).tensors = s.tensors := by simp only [State.postDevice]; (repeat' split) <;> simp
@[simp] theorem postDevice_reels (c d f : Nat) (p : List Int) : (s.postDevice c d f p).reels = s.reels := by simp only [State.postDevice]; (repeat' split) <;> simp
@[simp] theorem postDevice_streams (c d f : Nat) (p : List Int) : (s.postDevice c d f p).streams = s.streams := by simp only [State.postDevice]; (repeat' split) <;> simp
@[simp] theorem postDevice_opens (c d f : Nat) (p : List Int) : (s.postDevice c d f p).opens = s.opens := by simp only [State.postDevice]; (repeat' split) <;> simp
@[simp] theorem postDevice_arr (c d f : Nat) (p : List Int) : (s.postDevice c d f p).arr = s.arr := by simp only [State.postDevice]; (repeat' split) <;> simp
@[simp] theorem postDevice_seq (c d f : Nat) (p : List Int) : (s.postDevice c d f p).seq = s.seq := by simp only [State.postDevice]; (repeat' split) <;> simp
@[simp] theorem postDevice_dailies (c d f : Nat) (p : List Int) : (s.postDevice c d f p).dailies = s.dailies := by simp only [State.postDevice]; (repeat' split) <;> simp
@[simp] theorem postDevice_bench (c d f : Nat) (p : List Int) : (s.postDevice c d f p).bench = s.bench := by simp only [State.postDevice]; (repeat' split) <;> simp
@[simp] theorem postDevice_units (c d f : Nat) (p : List Int) : (s.postDevice c d f p).units = s.units := by simp only [State.postDevice]; (repeat' split) <;> simp
@[simp] theorem postDevice_motion (c d f : Nat) (p : List Int) : (s.postDevice c d f p).motion = s.motion := by simp only [State.postDevice]; (repeat' split) <;> simp
@[simp] theorem postDevice_chk (c d f : Nat) (p : List Int) : (s.postDevice c d f p).chk = s.chk := by simp only [State.postDevice]; (repeat' split) <;> simp
@[simp] theorem postDevice_ovl (c d f : Nat) (p : List Int) : (s.postDevice c d f p).ovl = s.ovl := by simp only [State.postDevice]; (repeat' split) <;> simp
@[simp] theorem postDevice_gates (c d f : Nat) (p : List Int) : (s.postDevice c d f p).gates = s.gates := by simp only [State.postDevice]; (repeat' split) <;> simp
@[simp] theorem postDevice_ports (c d f : Nat) (p : List Int) : (s.postDevice c d f p).ports = s.ports := by simp only [State.postDevice]; (repeat' split) <;> simp
@[simp] theorem postDevice_set (c d f : Nat) (p : List Int) : (s.postDevice c d f p).set = s.set := by simp only [State.postDevice]; (repeat' split) <;> simp
@[simp] theorem postDevice_fw (c d f : Nat) (p : List Int) : (s.postDevice c d f p).fw = s.fw := by simp only [State.postDevice]; (repeat' split) <;> simp
@[simp] theorem postDevice_inputs (c d f : Nat) (p : List Int) : (s.postDevice c d f p).inputs = s.inputs := by simp only [State.postDevice]; (repeat' split) <;> simp
@[simp] theorem postDevice_board (c d f : Nat) (p : List Int) : (s.postDevice c d f p).board = s.board := by simp only [State.postDevice]; (repeat' split) <;> simp
@[simp] theorem postDevice_tags (c d f : Nat) (p : List Int) : (s.postDevice c d f p).tags = s.tags := by simp only [State.postDevice]; (repeat' split) <;> simp
@[simp] theorem postDevice_jtag (c d f : Nat) (p : List Int) : (s.postDevice c d f p).jtag = s.jtag := by simp only [State.postDevice]; (repeat' split) <;> simp

/-! ### postStream -/

@[simp] theorem postStream_pending (i c d f : Nat) (p : List Int) : (s.postStream i c d f p).pending = s.pending := by simp only [State.postStream]; (repeat' split) <;> simp
@[simp] theorem postStream_free (i c d f : Nat) (p : List Int) : (s.postStream i c d f p).free = s.free := by simp only [State.postStream]; (repeat' split) <;> simp
@[simp] theorem postStream_fuses (i c d f : Nat) (p : List Int) : (s.postStream i c d f p).fuses = s.fuses := by simp only [State.postStream]; (repeat' split) <;> simp
@[simp] theorem postStream_flash (i c d f : Nat) (p : List Int) : (s.postStream i c d f p).flash = s.flash := by simp only [State.postStream]; (repeat' split) <;> simp
@[simp] theorem postStream_clock (i c d f : Nat) (p : List Int) : (s.postStream i c d f p).clock = s.clock := by simp only [State.postStream]; (repeat' split) <;> simp
@[simp] theorem postStream_dev (i c d f : Nat) (p : List Int) : (s.postStream i c d f p).dev = s.dev := by simp only [State.postStream]; (repeat' split) <;> simp
@[simp] theorem postStream_mbox (i c d f : Nat) (p : List Int) : (s.postStream i c d f p).mbox = s.mbox := by simp only [State.postStream]; (repeat' split) <;> simp
@[simp] theorem postStream_doorbells (i c d f : Nat) (p : List Int) : (s.postStream i c d f p).doorbells = s.doorbells := by simp only [State.postStream]; (repeat' split) <;> simp
@[simp] theorem postStream_err (i c d f : Nat) (p : List Int) : (s.postStream i c d f p).err = s.err := by simp only [State.postStream]; (repeat' split) <;> simp
@[simp] theorem postStream_wall (i c d f : Nat) (p : List Int) : (s.postStream i c d f p).wall = s.wall := by simp only [State.postStream]; (repeat' split) <;> simp
@[simp] theorem postStream_pool (i c d f : Nat) (p : List Int) : (s.postStream i c d f p).pool = s.pool := by simp only [State.postStream]; (repeat' split) <;> simp
@[simp] theorem postStream_tensors (i c d f : Nat) (p : List Int) : (s.postStream i c d f p).tensors = s.tensors := by simp only [State.postStream]; (repeat' split) <;> simp
@[simp] theorem postStream_reels (i c d f : Nat) (p : List Int) : (s.postStream i c d f p).reels = s.reels := by simp only [State.postStream]; (repeat' split) <;> simp
@[simp] theorem postStream_opens (i c d f : Nat) (p : List Int) : (s.postStream i c d f p).opens = s.opens := by simp only [State.postStream]; (repeat' split) <;> simp
@[simp] theorem postStream_arr (i c d f : Nat) (p : List Int) : (s.postStream i c d f p).arr = s.arr := by simp only [State.postStream]; (repeat' split) <;> simp
@[simp] theorem postStream_seq (i c d f : Nat) (p : List Int) : (s.postStream i c d f p).seq = s.seq := by simp only [State.postStream]; (repeat' split) <;> simp
@[simp] theorem postStream_dailies (i c d f : Nat) (p : List Int) : (s.postStream i c d f p).dailies = s.dailies := by simp only [State.postStream]; (repeat' split) <;> simp
@[simp] theorem postStream_bench (i c d f : Nat) (p : List Int) : (s.postStream i c d f p).bench = s.bench := by simp only [State.postStream]; (repeat' split) <;> simp
@[simp] theorem postStream_units (i c d f : Nat) (p : List Int) : (s.postStream i c d f p).units = s.units := by simp only [State.postStream]; (repeat' split) <;> simp
@[simp] theorem postStream_motion (i c d f : Nat) (p : List Int) : (s.postStream i c d f p).motion = s.motion := by simp only [State.postStream]; (repeat' split) <;> simp
@[simp] theorem postStream_chk (i c d f : Nat) (p : List Int) : (s.postStream i c d f p).chk = s.chk := by simp only [State.postStream]; (repeat' split) <;> simp
@[simp] theorem postStream_ovl (i c d f : Nat) (p : List Int) : (s.postStream i c d f p).ovl = s.ovl := by simp only [State.postStream]; (repeat' split) <;> simp
@[simp] theorem postStream_gates (i c d f : Nat) (p : List Int) : (s.postStream i c d f p).gates = s.gates := by simp only [State.postStream]; (repeat' split) <;> simp
@[simp] theorem postStream_ports (i c d f : Nat) (p : List Int) : (s.postStream i c d f p).ports = s.ports := by simp only [State.postStream]; (repeat' split) <;> simp
@[simp] theorem postStream_set (i c d f : Nat) (p : List Int) : (s.postStream i c d f p).set = s.set := by simp only [State.postStream]; (repeat' split) <;> simp
@[simp] theorem postStream_fw (i c d f : Nat) (p : List Int) : (s.postStream i c d f p).fw = s.fw := by simp only [State.postStream]; (repeat' split) <;> simp
@[simp] theorem postStream_inputs (i c d f : Nat) (p : List Int) : (s.postStream i c d f p).inputs = s.inputs := by simp only [State.postStream]; (repeat' split) <;> simp
@[simp] theorem postStream_board (i c d f : Nat) (p : List Int) : (s.postStream i c d f p).board = s.board := by simp only [State.postStream]; (repeat' split) <;> simp
@[simp] theorem postStream_tags (i c d f : Nat) (p : List Int) : (s.postStream i c d f p).tags = s.tags := by simp only [State.postStream]; (repeat' split) <;> simp
@[simp] theorem postStream_jtag (i c d f : Nat) (p : List Int) : (s.postStream i c d f p).jtag = s.jtag := by simp only [State.postStream]; (repeat' split) <;> simp

/-! ### post -/

@[simp] theorem post_pending (i : Option Nat) (c d f : Nat) (p : List Int) : (s.post i c d f p).pending = s.pending := by simp only [State.post]; (repeat' split) <;> simp
@[simp] theorem post_free (i : Option Nat) (c d f : Nat) (p : List Int) : (s.post i c d f p).free = s.free := by simp only [State.post]; (repeat' split) <;> simp
@[simp] theorem post_fuses (i : Option Nat) (c d f : Nat) (p : List Int) : (s.post i c d f p).fuses = s.fuses := by simp only [State.post]; (repeat' split) <;> simp
@[simp] theorem post_flash (i : Option Nat) (c d f : Nat) (p : List Int) : (s.post i c d f p).flash = s.flash := by simp only [State.post]; (repeat' split) <;> simp
@[simp] theorem post_clock (i : Option Nat) (c d f : Nat) (p : List Int) : (s.post i c d f p).clock = s.clock := by simp only [State.post]; (repeat' split) <;> simp
@[simp] theorem post_mbox (i : Option Nat) (c d f : Nat) (p : List Int) : (s.post i c d f p).mbox = s.mbox := by simp only [State.post]; (repeat' split) <;> simp
@[simp] theorem post_doorbells (i : Option Nat) (c d f : Nat) (p : List Int) : (s.post i c d f p).doorbells = s.doorbells := by simp only [State.post]; (repeat' split) <;> simp
@[simp] theorem post_err (i : Option Nat) (c d f : Nat) (p : List Int) : (s.post i c d f p).err = s.err := by simp only [State.post]; (repeat' split) <;> simp
@[simp] theorem post_wall (i : Option Nat) (c d f : Nat) (p : List Int) : (s.post i c d f p).wall = s.wall := by simp only [State.post]; (repeat' split) <;> simp
@[simp] theorem post_pool (i : Option Nat) (c d f : Nat) (p : List Int) : (s.post i c d f p).pool = s.pool := by simp only [State.post]; (repeat' split) <;> simp
@[simp] theorem post_tensors (i : Option Nat) (c d f : Nat) (p : List Int) : (s.post i c d f p).tensors = s.tensors := by simp only [State.post]; (repeat' split) <;> simp
@[simp] theorem post_reels (i : Option Nat) (c d f : Nat) (p : List Int) : (s.post i c d f p).reels = s.reels := by simp only [State.post]; (repeat' split) <;> simp
@[simp] theorem post_opens (i : Option Nat) (c d f : Nat) (p : List Int) : (s.post i c d f p).opens = s.opens := by simp only [State.post]; (repeat' split) <;> simp
@[simp] theorem post_arr (i : Option Nat) (c d f : Nat) (p : List Int) : (s.post i c d f p).arr = s.arr := by simp only [State.post]; (repeat' split) <;> simp
@[simp] theorem post_seq (i : Option Nat) (c d f : Nat) (p : List Int) : (s.post i c d f p).seq = s.seq := by simp only [State.post]; (repeat' split) <;> simp
@[simp] theorem post_dailies (i : Option Nat) (c d f : Nat) (p : List Int) : (s.post i c d f p).dailies = s.dailies := by simp only [State.post]; (repeat' split) <;> simp
@[simp] theorem post_bench (i : Option Nat) (c d f : Nat) (p : List Int) : (s.post i c d f p).bench = s.bench := by simp only [State.post]; (repeat' split) <;> simp
@[simp] theorem post_units (i : Option Nat) (c d f : Nat) (p : List Int) : (s.post i c d f p).units = s.units := by simp only [State.post]; (repeat' split) <;> simp
@[simp] theorem post_motion (i : Option Nat) (c d f : Nat) (p : List Int) : (s.post i c d f p).motion = s.motion := by simp only [State.post]; (repeat' split) <;> simp
@[simp] theorem post_chk (i : Option Nat) (c d f : Nat) (p : List Int) : (s.post i c d f p).chk = s.chk := by simp only [State.post]; (repeat' split) <;> simp
@[simp] theorem post_ovl (i : Option Nat) (c d f : Nat) (p : List Int) : (s.post i c d f p).ovl = s.ovl := by simp only [State.post]; (repeat' split) <;> simp
@[simp] theorem post_gates (i : Option Nat) (c d f : Nat) (p : List Int) : (s.post i c d f p).gates = s.gates := by simp only [State.post]; (repeat' split) <;> simp
@[simp] theorem post_ports (i : Option Nat) (c d f : Nat) (p : List Int) : (s.post i c d f p).ports = s.ports := by simp only [State.post]; (repeat' split) <;> simp
@[simp] theorem post_set (i : Option Nat) (c d f : Nat) (p : List Int) : (s.post i c d f p).set = s.set := by simp only [State.post]; (repeat' split) <;> simp
@[simp] theorem post_fw (i : Option Nat) (c d f : Nat) (p : List Int) : (s.post i c d f p).fw = s.fw := by simp only [State.post]; (repeat' split) <;> simp
@[simp] theorem post_inputs (i : Option Nat) (c d f : Nat) (p : List Int) : (s.post i c d f p).inputs = s.inputs := by simp only [State.post]; (repeat' split) <;> simp
@[simp] theorem post_board (i : Option Nat) (c d f : Nat) (p : List Int) : (s.post i c d f p).board = s.board := by simp only [State.post]; (repeat' split) <;> simp
@[simp] theorem post_tags (i : Option Nat) (c d f : Nat) (p : List Int) : (s.post i c d f p).tags = s.tags := by simp only [State.post]; (repeat' split) <;> simp
@[simp] theorem post_jtag (i : Option Nat) (c d f : Nat) (p : List Int) : (s.post i c d f p).jtag = s.jtag := by simp only [State.post]; (repeat' split) <;> simp

/-! ### respond -/

@[simp] theorem respond_pending (c st d : Nat) (b : List Byte) : (s.respond c st d b).pending = s.pending := by simp [State.respond]
@[simp] theorem respond_free (c st d : Nat) (b : List Byte) : (s.respond c st d b).free = s.free := by simp [State.respond]
@[simp] theorem respond_fuses (c st d : Nat) (b : List Byte) : (s.respond c st d b).fuses = s.fuses := by simp [State.respond]
@[simp] theorem respond_flash (c st d : Nat) (b : List Byte) : (s.respond c st d b).flash = s.flash := by simp [State.respond]
@[simp] theorem respond_clock (c st d : Nat) (b : List Byte) : (s.respond c st d b).clock = s.clock := by simp [State.respond]
@[simp] theorem respond_doorbells (c st d : Nat) (b : List Byte) : (s.respond c st d b).doorbells = s.doorbells := by simp [State.respond]
@[simp] theorem respond_err (c st d : Nat) (b : List Byte) : (s.respond c st d b).err = s.err := by simp [State.respond]
@[simp] theorem respond_mem (c st d : Nat) (b : List Byte) : (s.respond c st d b).mem = s.mem := by simp [State.respond]
@[simp] theorem respond_poison (c st d : Nat) (b : List Byte) : (s.respond c st d b).poison = s.poison := by simp [State.respond]
@[simp] theorem respond_wall (c st d : Nat) (b : List Byte) : (s.respond c st d b).wall = s.wall := by simp [State.respond]
@[simp] theorem respond_pool (c st d : Nat) (b : List Byte) : (s.respond c st d b).pool = s.pool := by simp [State.respond]
@[simp] theorem respond_tensors (c st d : Nat) (b : List Byte) : (s.respond c st d b).tensors = s.tensors := by simp [State.respond]
@[simp] theorem respond_reels (c st d : Nat) (b : List Byte) : (s.respond c st d b).reels = s.reels := by simp [State.respond]
@[simp] theorem respond_streams (c st d : Nat) (b : List Byte) : (s.respond c st d b).streams = s.streams := by simp [State.respond]
@[simp] theorem respond_opens (c st d : Nat) (b : List Byte) : (s.respond c st d b).opens = s.opens := by simp [State.respond]
@[simp] theorem respond_arr (c st d : Nat) (b : List Byte) : (s.respond c st d b).arr = s.arr := by simp [State.respond]
@[simp] theorem respond_seq (c st d : Nat) (b : List Byte) : (s.respond c st d b).seq = s.seq := by simp [State.respond]
@[simp] theorem respond_dailies (c st d : Nat) (b : List Byte) : (s.respond c st d b).dailies = s.dailies := by simp [State.respond]
@[simp] theorem respond_bench (c st d : Nat) (b : List Byte) : (s.respond c st d b).bench = s.bench := by simp [State.respond]
@[simp] theorem respond_units (c st d : Nat) (b : List Byte) : (s.respond c st d b).units = s.units := by simp [State.respond]
@[simp] theorem respond_motion (c st d : Nat) (b : List Byte) : (s.respond c st d b).motion = s.motion := by simp [State.respond]
@[simp] theorem respond_chk (c st d : Nat) (b : List Byte) : (s.respond c st d b).chk = s.chk := by simp [State.respond]
@[simp] theorem respond_ovl (c st d : Nat) (b : List Byte) : (s.respond c st d b).ovl = s.ovl := by simp [State.respond]
@[simp] theorem respond_gates (c st d : Nat) (b : List Byte) : (s.respond c st d b).gates = s.gates := by simp [State.respond]
@[simp] theorem respond_ports (c st d : Nat) (b : List Byte) : (s.respond c st d b).ports = s.ports := by simp [State.respond]
@[simp] theorem respond_set (c st d : Nat) (b : List Byte) : (s.respond c st d b).set = s.set := by simp [State.respond]
@[simp] theorem respond_fw (c st d : Nat) (b : List Byte) : (s.respond c st d b).fw = s.fw := by simp [State.respond]
@[simp] theorem respond_inputs (c st d : Nat) (b : List Byte) : (s.respond c st d b).inputs = s.inputs := by simp [State.respond]
@[simp] theorem respond_board (c st d : Nat) (b : List Byte) : (s.respond c st d b).board = s.board := by simp [State.respond]
@[simp] theorem respond_tags (c st d : Nat) (b : List Byte) : (s.respond c st d b).tags = s.tags := by simp [State.respond]
@[simp] theorem respond_jtag (c st d : Nat) (b : List Byte) : (s.respond c st d b).jtag = s.jtag := by simp [State.respond]

/-! ### respondError -/

@[simp] theorem respondError_pending (c e : Nat) : (s.respondError c e).pending = s.pending := by simp [State.respondError]
@[simp] theorem respondError_free (c e : Nat) : (s.respondError c e).free = s.free := by simp [State.respondError]
@[simp] theorem respondError_fuses (c e : Nat) : (s.respondError c e).fuses = s.fuses := by simp [State.respondError]
@[simp] theorem respondError_flash (c e : Nat) : (s.respondError c e).flash = s.flash := by simp [State.respondError]
@[simp] theorem respondError_clock (c e : Nat) : (s.respondError c e).clock = s.clock := by simp [State.respondError]
@[simp] theorem respondError_doorbells (c e : Nat) : (s.respondError c e).doorbells = s.doorbells := by simp [State.respondError]
@[simp] theorem respondError_err (c e : Nat) : (s.respondError c e).err = s.err := by simp [State.respondError]
@[simp] theorem respondError_mem (c e : Nat) : (s.respondError c e).mem = s.mem := by simp [State.respondError]
@[simp] theorem respondError_poison (c e : Nat) : (s.respondError c e).poison = s.poison := by simp [State.respondError]
@[simp] theorem respondError_wall (c e : Nat) : (s.respondError c e).wall = s.wall := by simp [State.respondError]
@[simp] theorem respondError_pool (c e : Nat) : (s.respondError c e).pool = s.pool := by simp [State.respondError]
@[simp] theorem respondError_tensors (c e : Nat) : (s.respondError c e).tensors = s.tensors := by simp [State.respondError]
@[simp] theorem respondError_reels (c e : Nat) : (s.respondError c e).reels = s.reels := by simp [State.respondError]
@[simp] theorem respondError_streams (c e : Nat) : (s.respondError c e).streams = s.streams := by simp [State.respondError]
@[simp] theorem respondError_opens (c e : Nat) : (s.respondError c e).opens = s.opens := by simp [State.respondError]
@[simp] theorem respondError_arr (c e : Nat) : (s.respondError c e).arr = s.arr := by simp [State.respondError]
@[simp] theorem respondError_seq (c e : Nat) : (s.respondError c e).seq = s.seq := by simp [State.respondError]
@[simp] theorem respondError_dailies (c e : Nat) : (s.respondError c e).dailies = s.dailies := by simp [State.respondError]
@[simp] theorem respondError_bench (c e : Nat) : (s.respondError c e).bench = s.bench := by simp [State.respondError]
@[simp] theorem respondError_units (c e : Nat) : (s.respondError c e).units = s.units := by simp [State.respondError]
@[simp] theorem respondError_motion (c e : Nat) : (s.respondError c e).motion = s.motion := by simp [State.respondError]
@[simp] theorem respondError_chk (c e : Nat) : (s.respondError c e).chk = s.chk := by simp [State.respondError]
@[simp] theorem respondError_ovl (c e : Nat) : (s.respondError c e).ovl = s.ovl := by simp [State.respondError]
@[simp] theorem respondError_gates (c e : Nat) : (s.respondError c e).gates = s.gates := by simp [State.respondError]
@[simp] theorem respondError_ports (c e : Nat) : (s.respondError c e).ports = s.ports := by simp [State.respondError]
@[simp] theorem respondError_set (c e : Nat) : (s.respondError c e).set = s.set := by simp [State.respondError]
@[simp] theorem respondError_fw (c e : Nat) : (s.respondError c e).fw = s.fw := by simp [State.respondError]
@[simp] theorem respondError_inputs (c e : Nat) : (s.respondError c e).inputs = s.inputs := by simp [State.respondError]
@[simp] theorem respondError_board (c e : Nat) : (s.respondError c e).board = s.board := by simp [State.respondError]
@[simp] theorem respondError_tags (c e : Nat) : (s.respondError c e).tags = s.tags := by simp [State.respondError]
@[simp] theorem respondError_jtag (c e : Nat) : (s.respondError c e).jtag = s.jtag := by simp [State.respondError]

/-! ### defer -/

@[simp] theorem defer_pending (c : Nat) (w : Waits) (x : Option Nat) : (s.defer c w x).pending = s.pending := rfl
@[simp] theorem defer_free (c : Nat) (w : Waits) (x : Option Nat) : (s.defer c w x).free = s.free := rfl
@[simp] theorem defer_out (c : Nat) (w : Waits) (x : Option Nat) : (s.defer c w x).out = s.out := rfl
@[simp] theorem defer_fuses (c : Nat) (w : Waits) (x : Option Nat) : (s.defer c w x).fuses = s.fuses := rfl
@[simp] theorem defer_flash (c : Nat) (w : Waits) (x : Option Nat) : (s.defer c w x).flash = s.flash := rfl
@[simp] theorem defer_clock (c : Nat) (w : Waits) (x : Option Nat) : (s.defer c w x).clock = s.clock := rfl
@[simp] theorem defer_dev (c : Nat) (w : Waits) (x : Option Nat) : (s.defer c w x).dev = s.dev := rfl
@[simp] theorem defer_host (c : Nat) (w : Waits) (x : Option Nat) : (s.defer c w x).host = s.host := rfl
@[simp] theorem defer_doorbells (c : Nat) (w : Waits) (x : Option Nat) : (s.defer c w x).doorbells = s.doorbells := rfl
@[simp] theorem defer_err (c : Nat) (w : Waits) (x : Option Nat) : (s.defer c w x).err = s.err := rfl
@[simp] theorem defer_mem (c : Nat) (w : Waits) (x : Option Nat) : (s.defer c w x).mem = s.mem := rfl
@[simp] theorem defer_poison (c : Nat) (w : Waits) (x : Option Nat) : (s.defer c w x).poison = s.poison := rfl
@[simp] theorem defer_wall (c : Nat) (w : Waits) (x : Option Nat) : (s.defer c w x).wall = s.wall := rfl
@[simp] theorem defer_pool (c : Nat) (w : Waits) (x : Option Nat) : (s.defer c w x).pool = s.pool := rfl
@[simp] theorem defer_tensors (c : Nat) (w : Waits) (x : Option Nat) : (s.defer c w x).tensors = s.tensors := rfl
@[simp] theorem defer_reels (c : Nat) (w : Waits) (x : Option Nat) : (s.defer c w x).reels = s.reels := rfl
@[simp] theorem defer_streams (c : Nat) (w : Waits) (x : Option Nat) : (s.defer c w x).streams = s.streams := rfl
@[simp] theorem defer_opens (c : Nat) (w : Waits) (x : Option Nat) : (s.defer c w x).opens = s.opens := rfl
@[simp] theorem defer_arr (c : Nat) (w : Waits) (x : Option Nat) : (s.defer c w x).arr = s.arr := rfl
@[simp] theorem defer_seq (c : Nat) (w : Waits) (x : Option Nat) : (s.defer c w x).seq = s.seq := rfl
@[simp] theorem defer_dailies (c : Nat) (w : Waits) (x : Option Nat) : (s.defer c w x).dailies = s.dailies := rfl
@[simp] theorem defer_bench (c : Nat) (w : Waits) (x : Option Nat) : (s.defer c w x).bench = s.bench := rfl
@[simp] theorem defer_units (c : Nat) (w : Waits) (x : Option Nat) : (s.defer c w x).units = s.units := rfl
@[simp] theorem defer_motion (c : Nat) (w : Waits) (x : Option Nat) : (s.defer c w x).motion = s.motion := rfl
@[simp] theorem defer_chk (c : Nat) (w : Waits) (x : Option Nat) : (s.defer c w x).chk = s.chk := rfl
@[simp] theorem defer_ovl (c : Nat) (w : Waits) (x : Option Nat) : (s.defer c w x).ovl = s.ovl := rfl
@[simp] theorem defer_gates (c : Nat) (w : Waits) (x : Option Nat) : (s.defer c w x).gates = s.gates := rfl
@[simp] theorem defer_ports (c : Nat) (w : Waits) (x : Option Nat) : (s.defer c w x).ports = s.ports := rfl
@[simp] theorem defer_set (c : Nat) (w : Waits) (x : Option Nat) : (s.defer c w x).set = s.set := rfl
@[simp] theorem defer_fw (c : Nat) (w : Waits) (x : Option Nat) : (s.defer c w x).fw = s.fw := rfl
@[simp] theorem defer_inputs (c : Nat) (w : Waits) (x : Option Nat) : (s.defer c w x).inputs = s.inputs := rfl
@[simp] theorem defer_board (c : Nat) (w : Waits) (x : Option Nat) : (s.defer c w x).board = s.board := rfl
@[simp] theorem defer_tags (c : Nat) (w : Waits) (x : Option Nat) : (s.defer c w x).tags = s.tags := rfl
@[simp] theorem defer_jtag (c : Nat) (w : Waits) (x : Option Nat) : (s.defer c w x).jtag = s.jtag := rfl

/-! ### takeHead -/

@[simp] theorem takeHead_pending : (s.takeHead).pending = s.pending := rfl
@[simp] theorem takeHead_free : (s.takeHead).free = s.free := rfl
@[simp] theorem takeHead_out : (s.takeHead).out = s.out := rfl
@[simp] theorem takeHead_fuses : (s.takeHead).fuses = s.fuses := rfl
@[simp] theorem takeHead_flash : (s.takeHead).flash = s.flash := rfl
@[simp] theorem takeHead_clock : (s.takeHead).clock = s.clock := rfl
@[simp] theorem takeHead_dev : (s.takeHead).dev = s.dev := rfl
@[simp] theorem takeHead_host : (s.takeHead).host = s.host := rfl
@[simp] theorem takeHead_doorbells : (s.takeHead).doorbells = s.doorbells := rfl
@[simp] theorem takeHead_err : (s.takeHead).err = s.err := rfl
@[simp] theorem takeHead_mem : (s.takeHead).mem = s.mem := rfl
@[simp] theorem takeHead_poison : (s.takeHead).poison = s.poison := rfl
@[simp] theorem takeHead_wall : (s.takeHead).wall = s.wall := rfl
@[simp] theorem takeHead_pool : (s.takeHead).pool = s.pool := rfl
@[simp] theorem takeHead_tensors : (s.takeHead).tensors = s.tensors := rfl
@[simp] theorem takeHead_reels : (s.takeHead).reels = s.reels := rfl
@[simp] theorem takeHead_streams : (s.takeHead).streams = s.streams := rfl
@[simp] theorem takeHead_opens : (s.takeHead).opens = s.opens := rfl
@[simp] theorem takeHead_arr : (s.takeHead).arr = s.arr := rfl
@[simp] theorem takeHead_seq : (s.takeHead).seq = s.seq := rfl
@[simp] theorem takeHead_dailies : (s.takeHead).dailies = s.dailies := rfl
@[simp] theorem takeHead_bench : (s.takeHead).bench = s.bench := rfl
@[simp] theorem takeHead_units : (s.takeHead).units = s.units := rfl
@[simp] theorem takeHead_motion : (s.takeHead).motion = s.motion := rfl
@[simp] theorem takeHead_chk : (s.takeHead).chk = s.chk := rfl
@[simp] theorem takeHead_ovl : (s.takeHead).ovl = s.ovl := rfl
@[simp] theorem takeHead_gates : (s.takeHead).gates = s.gates := rfl
@[simp] theorem takeHead_ports : (s.takeHead).ports = s.ports := rfl
@[simp] theorem takeHead_set : (s.takeHead).set = s.set := rfl
@[simp] theorem takeHead_fw : (s.takeHead).fw = s.fw := rfl
@[simp] theorem takeHead_inputs : (s.takeHead).inputs = s.inputs := rfl
@[simp] theorem takeHead_board : (s.takeHead).board = s.board := rfl
@[simp] theorem takeHead_tags : (s.takeHead).tags = s.tags := rfl
@[simp] theorem takeHead_jtag : (s.takeHead).jtag = s.jtag := rfl

/-! ### checkerEvent -/

@[simp] theorem checkerEvent_pending (i : Option Nat) (c d f : Nat) : (s.checkerEvent i c d f).pending = s.pending := by simp [State.checkerEvent]
@[simp] theorem checkerEvent_free (i : Option Nat) (c d f : Nat) : (s.checkerEvent i c d f).free = s.free := by simp [State.checkerEvent]
@[simp] theorem checkerEvent_fuses (i : Option Nat) (c d f : Nat) : (s.checkerEvent i c d f).fuses = s.fuses := by simp [State.checkerEvent]
@[simp] theorem checkerEvent_flash (i : Option Nat) (c d f : Nat) : (s.checkerEvent i c d f).flash = s.flash := by simp [State.checkerEvent]
@[simp] theorem checkerEvent_clock (i : Option Nat) (c d f : Nat) : (s.checkerEvent i c d f).clock = s.clock := by simp [State.checkerEvent]
@[simp] theorem checkerEvent_mbox (i : Option Nat) (c d f : Nat) : (s.checkerEvent i c d f).mbox = s.mbox := by simp [State.checkerEvent]
@[simp] theorem checkerEvent_doorbells (i : Option Nat) (c d f : Nat) : (s.checkerEvent i c d f).doorbells = s.doorbells := by simp [State.checkerEvent]
@[simp] theorem checkerEvent_err (i : Option Nat) (c d f : Nat) : (s.checkerEvent i c d f).err = s.err := by simp [State.checkerEvent]
@[simp] theorem checkerEvent_wall (i : Option Nat) (c d f : Nat) : (s.checkerEvent i c d f).wall = s.wall := by simp [State.checkerEvent]
@[simp] theorem checkerEvent_pool (i : Option Nat) (c d f : Nat) : (s.checkerEvent i c d f).pool = s.pool := by simp [State.checkerEvent]
@[simp] theorem checkerEvent_tensors (i : Option Nat) (c d f : Nat) : (s.checkerEvent i c d f).tensors = s.tensors := by simp [State.checkerEvent]
@[simp] theorem checkerEvent_reels (i : Option Nat) (c d f : Nat) : (s.checkerEvent i c d f).reels = s.reels := by simp [State.checkerEvent]
@[simp] theorem checkerEvent_opens (i : Option Nat) (c d f : Nat) : (s.checkerEvent i c d f).opens = s.opens := by simp [State.checkerEvent]
@[simp] theorem checkerEvent_arr (i : Option Nat) (c d f : Nat) : (s.checkerEvent i c d f).arr = s.arr := by simp [State.checkerEvent]
@[simp] theorem checkerEvent_seq (i : Option Nat) (c d f : Nat) : (s.checkerEvent i c d f).seq = s.seq := by simp [State.checkerEvent]
@[simp] theorem checkerEvent_dailies (i : Option Nat) (c d f : Nat) : (s.checkerEvent i c d f).dailies = s.dailies := by simp [State.checkerEvent]
@[simp] theorem checkerEvent_bench (i : Option Nat) (c d f : Nat) : (s.checkerEvent i c d f).bench = s.bench := by simp [State.checkerEvent]
@[simp] theorem checkerEvent_units (i : Option Nat) (c d f : Nat) : (s.checkerEvent i c d f).units = s.units := by simp [State.checkerEvent]
@[simp] theorem checkerEvent_motion (i : Option Nat) (c d f : Nat) : (s.checkerEvent i c d f).motion = s.motion := by simp [State.checkerEvent]
@[simp] theorem checkerEvent_ovl (i : Option Nat) (c d f : Nat) : (s.checkerEvent i c d f).ovl = s.ovl := by simp [State.checkerEvent]
@[simp] theorem checkerEvent_gates (i : Option Nat) (c d f : Nat) : (s.checkerEvent i c d f).gates = s.gates := by simp [State.checkerEvent]
@[simp] theorem checkerEvent_ports (i : Option Nat) (c d f : Nat) : (s.checkerEvent i c d f).ports = s.ports := by simp [State.checkerEvent]
@[simp] theorem checkerEvent_set (i : Option Nat) (c d f : Nat) : (s.checkerEvent i c d f).set = s.set := by simp [State.checkerEvent]
@[simp] theorem checkerEvent_fw (i : Option Nat) (c d f : Nat) : (s.checkerEvent i c d f).fw = s.fw := by simp [State.checkerEvent]
@[simp] theorem checkerEvent_inputs (i : Option Nat) (c d f : Nat) : (s.checkerEvent i c d f).inputs = s.inputs := by simp [State.checkerEvent]
@[simp] theorem checkerEvent_board (i : Option Nat) (c d f : Nat) : (s.checkerEvent i c d f).board = s.board := by simp [State.checkerEvent]
@[simp] theorem checkerEvent_tags (i : Option Nat) (c d f : Nat) : (s.checkerEvent i c d f).tags = s.tags := by simp [State.checkerEvent]
@[simp] theorem checkerEvent_jtag (i : Option Nat) (c d f : Nat) : (s.checkerEvent i c d f).jtag = s.jtag := by simp [State.checkerEvent]

/-! ### assertSafe -/

@[simp] theorem assertSafe_pending (b : Nat) : (s.assertSafe b).pending = s.pending := by simp only [State.assertSafe]; (repeat' split) <;> simp
@[simp] theorem assertSafe_free (b : Nat) : (s.assertSafe b).free = s.free := by simp only [State.assertSafe]; (repeat' split) <;> simp
@[simp] theorem assertSafe_fuses (b : Nat) : (s.assertSafe b).fuses = s.fuses := by simp only [State.assertSafe]; (repeat' split) <;> simp
@[simp] theorem assertSafe_flash (b : Nat) : (s.assertSafe b).flash = s.flash := by simp only [State.assertSafe]; (repeat' split) <;> simp
@[simp] theorem assertSafe_clock (b : Nat) : (s.assertSafe b).clock = s.clock := by simp only [State.assertSafe]; (repeat' split) <;> simp
@[simp] theorem assertSafe_mbox (b : Nat) : (s.assertSafe b).mbox = s.mbox := by simp only [State.assertSafe]; (repeat' split) <;> simp
@[simp] theorem assertSafe_doorbells (b : Nat) : (s.assertSafe b).doorbells = s.doorbells := by simp only [State.assertSafe]; (repeat' split) <;> simp
@[simp] theorem assertSafe_err (b : Nat) : (s.assertSafe b).err = s.err := by simp only [State.assertSafe]; (repeat' split) <;> simp
@[simp] theorem assertSafe_wall (b : Nat) : (s.assertSafe b).wall = s.wall := by simp only [State.assertSafe]; (repeat' split) <;> simp
@[simp] theorem assertSafe_pool (b : Nat) : (s.assertSafe b).pool = s.pool := by simp only [State.assertSafe]; (repeat' split) <;> simp
@[simp] theorem assertSafe_tensors (b : Nat) : (s.assertSafe b).tensors = s.tensors := by simp only [State.assertSafe]; (repeat' split) <;> simp
@[simp] theorem assertSafe_reels (b : Nat) : (s.assertSafe b).reels = s.reels := by simp only [State.assertSafe]; (repeat' split) <;> simp
@[simp] theorem assertSafe_opens (b : Nat) : (s.assertSafe b).opens = s.opens := by simp only [State.assertSafe]; (repeat' split) <;> simp
@[simp] theorem assertSafe_arr (b : Nat) : (s.assertSafe b).arr = s.arr := by simp only [State.assertSafe]; (repeat' split) <;> simp
@[simp] theorem assertSafe_seq (b : Nat) : (s.assertSafe b).seq = s.seq := by simp only [State.assertSafe]; (repeat' split) <;> simp
@[simp] theorem assertSafe_dailies (b : Nat) : (s.assertSafe b).dailies = s.dailies := by simp only [State.assertSafe]; (repeat' split) <;> simp
@[simp] theorem assertSafe_bench (b : Nat) : (s.assertSafe b).bench = s.bench := by simp only [State.assertSafe]; (repeat' split) <;> simp
@[simp] theorem assertSafe_units (b : Nat) : (s.assertSafe b).units = s.units := by simp only [State.assertSafe]; (repeat' split) <;> simp
@[simp] theorem assertSafe_motion (b : Nat) : (s.assertSafe b).motion = s.motion := by simp only [State.assertSafe]; (repeat' split) <;> simp
@[simp] theorem assertSafe_ovl (b : Nat) : (s.assertSafe b).ovl = s.ovl := by simp only [State.assertSafe]; (repeat' split) <;> simp
@[simp] theorem assertSafe_gates (b : Nat) : (s.assertSafe b).gates = s.gates := by simp only [State.assertSafe]; (repeat' split) <;> simp
@[simp] theorem assertSafe_ports (b : Nat) : (s.assertSafe b).ports = s.ports := by simp only [State.assertSafe]; (repeat' split) <;> simp
@[simp] theorem assertSafe_set (b : Nat) : (s.assertSafe b).set = s.set := by simp only [State.assertSafe]; (repeat' split) <;> simp
@[simp] theorem assertSafe_fw (b : Nat) : (s.assertSafe b).fw = s.fw := by simp only [State.assertSafe]; (repeat' split) <;> simp
@[simp] theorem assertSafe_inputs (b : Nat) : (s.assertSafe b).inputs = s.inputs := by simp only [State.assertSafe]; (repeat' split) <;> simp
@[simp] theorem assertSafe_board (b : Nat) : (s.assertSafe b).board = s.board := by simp only [State.assertSafe]; (repeat' split) <;> simp
@[simp] theorem assertSafe_tags (b : Nat) : (s.assertSafe b).tags = s.tags := by simp only [State.assertSafe]; (repeat' split) <;> simp
@[simp] theorem assertSafe_jtag (b : Nat) : (s.assertSafe b).jtag = s.jtag := by simp only [State.assertSafe]; (repeat' split) <;> simp

/-! ### writeService -/

@[simp] theorem writeService_pending : (s.writeService).pending = s.pending := by simp only [State.writeService]; (repeat' split) <;> simp
@[simp] theorem writeService_free : (s.writeService).free = s.free := by simp only [State.writeService]; (repeat' split) <;> simp
@[simp] theorem writeService_out : (s.writeService).out = s.out := by simp only [State.writeService]; (repeat' split) <;> simp
@[simp] theorem writeService_fuses : (s.writeService).fuses = s.fuses := by simp only [State.writeService]; (repeat' split) <;> simp
@[simp] theorem writeService_clock : (s.writeService).clock = s.clock := by simp only [State.writeService]; (repeat' split) <;> simp
@[simp] theorem writeService_dev : (s.writeService).dev = s.dev := by simp only [State.writeService]; (repeat' split) <;> simp
@[simp] theorem writeService_host : (s.writeService).host = s.host := by simp only [State.writeService]; (repeat' split) <;> simp
@[simp] theorem writeService_mbox : (s.writeService).mbox = s.mbox := by simp only [State.writeService]; (repeat' split) <;> simp
@[simp] theorem writeService_doorbells : (s.writeService).doorbells = s.doorbells := by simp only [State.writeService]; (repeat' split) <;> simp
@[simp] theorem writeService_err : (s.writeService).err = s.err := by simp only [State.writeService]; (repeat' split) <;> simp
@[simp] theorem writeService_mem : (s.writeService).mem = s.mem := by simp only [State.writeService]; (repeat' split) <;> simp
@[simp] theorem writeService_poison : (s.writeService).poison = s.poison := by simp only [State.writeService]; (repeat' split) <;> simp
@[simp] theorem writeService_wall : (s.writeService).wall = s.wall := by simp only [State.writeService]; (repeat' split) <;> simp
@[simp] theorem writeService_pool : (s.writeService).pool = s.pool := by simp only [State.writeService]; (repeat' split) <;> simp
@[simp] theorem writeService_tensors : (s.writeService).tensors = s.tensors := by simp only [State.writeService]; (repeat' split) <;> simp
@[simp] theorem writeService_reels : (s.writeService).reels = s.reels := by simp only [State.writeService]; (repeat' split) <;> simp
@[simp] theorem writeService_streams : (s.writeService).streams = s.streams := by simp only [State.writeService]; (repeat' split) <;> simp
@[simp] theorem writeService_opens : (s.writeService).opens = s.opens := by simp only [State.writeService]; (repeat' split) <;> simp
@[simp] theorem writeService_arr : (s.writeService).arr = s.arr := by simp only [State.writeService]; (repeat' split) <;> simp
@[simp] theorem writeService_seq : (s.writeService).seq = s.seq := by simp only [State.writeService]; (repeat' split) <;> simp
@[simp] theorem writeService_dailies : (s.writeService).dailies = s.dailies := by simp only [State.writeService]; (repeat' split) <;> simp
@[simp] theorem writeService_bench : (s.writeService).bench = s.bench := by simp only [State.writeService]; (repeat' split) <;> simp
@[simp] theorem writeService_units : (s.writeService).units = s.units := by simp only [State.writeService]; (repeat' split) <;> simp
@[simp] theorem writeService_motion : (s.writeService).motion = s.motion := by simp only [State.writeService]; (repeat' split) <;> simp
@[simp] theorem writeService_chk : (s.writeService).chk = s.chk := by simp only [State.writeService]; (repeat' split) <;> simp
@[simp] theorem writeService_ovl : (s.writeService).ovl = s.ovl := by simp only [State.writeService]; (repeat' split) <;> simp
@[simp] theorem writeService_gates : (s.writeService).gates = s.gates := by simp only [State.writeService]; (repeat' split) <;> simp
@[simp] theorem writeService_ports : (s.writeService).ports = s.ports := by simp only [State.writeService]; (repeat' split) <;> simp
@[simp] theorem writeService_set : (s.writeService).set = s.set := by simp only [State.writeService]; (repeat' split) <;> simp
@[simp] theorem writeService_fw : (s.writeService).fw = s.fw := by simp only [State.writeService]; (repeat' split) <;> simp
@[simp] theorem writeService_inputs : (s.writeService).inputs = s.inputs := by simp only [State.writeService]; (repeat' split) <;> simp
@[simp] theorem writeService_board : (s.writeService).board = s.board := by simp only [State.writeService]; (repeat' split) <;> simp
@[simp] theorem writeService_tags : (s.writeService).tags = s.tags := by simp only [State.writeService]; (repeat' split) <;> simp
@[simp] theorem writeService_jtag : (s.writeService).jtag = s.jtag := by simp only [State.writeService]; (repeat' split) <;> simp

/-! ### endHoldRun -/

@[simp] theorem endHoldRun_pending (i : Nat) : (s.endHoldRun i).pending = s.pending := by simp only [State.endHoldRun]; (repeat' split) <;> simp
@[simp] theorem endHoldRun_free (i : Nat) : (s.endHoldRun i).free = s.free := by simp only [State.endHoldRun]; (repeat' split) <;> simp
@[simp] theorem endHoldRun_fuses (i : Nat) : (s.endHoldRun i).fuses = s.fuses := by simp only [State.endHoldRun]; (repeat' split) <;> simp
@[simp] theorem endHoldRun_flash (i : Nat) : (s.endHoldRun i).flash = s.flash := by simp only [State.endHoldRun]; (repeat' split) <;> simp
@[simp] theorem endHoldRun_clock (i : Nat) : (s.endHoldRun i).clock = s.clock := by simp only [State.endHoldRun]; (repeat' split) <;> simp
@[simp] theorem endHoldRun_dev (i : Nat) : (s.endHoldRun i).dev = s.dev := by simp only [State.endHoldRun]; (repeat' split) <;> simp
@[simp] theorem endHoldRun_mbox (i : Nat) : (s.endHoldRun i).mbox = s.mbox := by simp only [State.endHoldRun]; (repeat' split) <;> simp
@[simp] theorem endHoldRun_doorbells (i : Nat) : (s.endHoldRun i).doorbells = s.doorbells := by simp only [State.endHoldRun]; (repeat' split) <;> simp
@[simp] theorem endHoldRun_err (i : Nat) : (s.endHoldRun i).err = s.err := by simp only [State.endHoldRun]; (repeat' split) <;> simp
@[simp] theorem endHoldRun_wall (i : Nat) : (s.endHoldRun i).wall = s.wall := by simp only [State.endHoldRun]; (repeat' split) <;> simp
@[simp] theorem endHoldRun_pool (i : Nat) : (s.endHoldRun i).pool = s.pool := by simp only [State.endHoldRun]; (repeat' split) <;> simp
@[simp] theorem endHoldRun_tensors (i : Nat) : (s.endHoldRun i).tensors = s.tensors := by simp only [State.endHoldRun]; (repeat' split) <;> simp
@[simp] theorem endHoldRun_reels (i : Nat) : (s.endHoldRun i).reels = s.reels := by simp only [State.endHoldRun]; (repeat' split) <;> simp
@[simp] theorem endHoldRun_opens (i : Nat) : (s.endHoldRun i).opens = s.opens := by simp only [State.endHoldRun]; (repeat' split) <;> simp
@[simp] theorem endHoldRun_arr (i : Nat) : (s.endHoldRun i).arr = s.arr := by simp only [State.endHoldRun]; (repeat' split) <;> simp
@[simp] theorem endHoldRun_seq (i : Nat) : (s.endHoldRun i).seq = s.seq := by simp only [State.endHoldRun]; (repeat' split) <;> simp
@[simp] theorem endHoldRun_dailies (i : Nat) : (s.endHoldRun i).dailies = s.dailies := by simp only [State.endHoldRun]; (repeat' split) <;> simp
@[simp] theorem endHoldRun_bench (i : Nat) : (s.endHoldRun i).bench = s.bench := by simp only [State.endHoldRun]; (repeat' split) <;> simp
@[simp] theorem endHoldRun_units (i : Nat) : (s.endHoldRun i).units = s.units := by simp only [State.endHoldRun]; (repeat' split) <;> simp
@[simp] theorem endHoldRun_motion (i : Nat) : (s.endHoldRun i).motion = s.motion := by simp only [State.endHoldRun]; (repeat' split) <;> simp
@[simp] theorem endHoldRun_chk (i : Nat) : (s.endHoldRun i).chk = s.chk := by simp only [State.endHoldRun]; (repeat' split) <;> simp
@[simp] theorem endHoldRun_ovl (i : Nat) : (s.endHoldRun i).ovl = s.ovl := by simp only [State.endHoldRun]; (repeat' split) <;> simp
@[simp] theorem endHoldRun_gates (i : Nat) : (s.endHoldRun i).gates = s.gates := by simp only [State.endHoldRun]; (repeat' split) <;> simp
@[simp] theorem endHoldRun_ports (i : Nat) : (s.endHoldRun i).ports = s.ports := by simp only [State.endHoldRun]; (repeat' split) <;> simp
@[simp] theorem endHoldRun_set (i : Nat) : (s.endHoldRun i).set = s.set := by simp only [State.endHoldRun]; (repeat' split) <;> simp
@[simp] theorem endHoldRun_fw (i : Nat) : (s.endHoldRun i).fw = s.fw := by simp only [State.endHoldRun]; (repeat' split) <;> simp
@[simp] theorem endHoldRun_inputs (i : Nat) : (s.endHoldRun i).inputs = s.inputs := by simp only [State.endHoldRun]; (repeat' split) <;> simp
@[simp] theorem endHoldRun_board (i : Nat) : (s.endHoldRun i).board = s.board := by simp only [State.endHoldRun]; (repeat' split) <;> simp
@[simp] theorem endHoldRun_tags (i : Nat) : (s.endHoldRun i).tags = s.tags := by simp only [State.endHoldRun]; (repeat' split) <;> simp
@[simp] theorem endHoldRun_jtag (i : Nat) : (s.endHoldRun i).jtag = s.jtag := by simp only [State.endHoldRun]; (repeat' split) <;> simp

/-! ### holdStream -/

@[simp] theorem holdStream_pending (i : Nat) (c : HeldCause) (w : Option Nat) : (s.holdStream i c w).pending = s.pending := by simp only [State.holdStream]; (repeat' split) <;> simp
@[simp] theorem holdStream_free (i : Nat) (c : HeldCause) (w : Option Nat) : (s.holdStream i c w).free = s.free := by simp only [State.holdStream]; (repeat' split) <;> simp
@[simp] theorem holdStream_fuses (i : Nat) (c : HeldCause) (w : Option Nat) : (s.holdStream i c w).fuses = s.fuses := by simp only [State.holdStream]; (repeat' split) <;> simp
@[simp] theorem holdStream_flash (i : Nat) (c : HeldCause) (w : Option Nat) : (s.holdStream i c w).flash = s.flash := by simp only [State.holdStream]; (repeat' split) <;> simp
@[simp] theorem holdStream_clock (i : Nat) (c : HeldCause) (w : Option Nat) : (s.holdStream i c w).clock = s.clock := by simp only [State.holdStream]; (repeat' split) <;> simp
@[simp] theorem holdStream_dev (i : Nat) (c : HeldCause) (w : Option Nat) : (s.holdStream i c w).dev = s.dev := by simp only [State.holdStream]; (repeat' split) <;> simp
@[simp] theorem holdStream_mbox (i : Nat) (c : HeldCause) (w : Option Nat) : (s.holdStream i c w).mbox = s.mbox := by simp only [State.holdStream]; (repeat' split) <;> simp
@[simp] theorem holdStream_doorbells (i : Nat) (c : HeldCause) (w : Option Nat) : (s.holdStream i c w).doorbells = s.doorbells := by simp only [State.holdStream]; (repeat' split) <;> simp
@[simp] theorem holdStream_err (i : Nat) (c : HeldCause) (w : Option Nat) : (s.holdStream i c w).err = s.err := by simp only [State.holdStream]; (repeat' split) <;> simp
@[simp] theorem holdStream_wall (i : Nat) (c : HeldCause) (w : Option Nat) : (s.holdStream i c w).wall = s.wall := by simp only [State.holdStream]; (repeat' split) <;> simp
@[simp] theorem holdStream_pool (i : Nat) (c : HeldCause) (w : Option Nat) : (s.holdStream i c w).pool = s.pool := by simp only [State.holdStream]; (repeat' split) <;> simp
@[simp] theorem holdStream_tensors (i : Nat) (c : HeldCause) (w : Option Nat) : (s.holdStream i c w).tensors = s.tensors := by simp only [State.holdStream]; (repeat' split) <;> simp
@[simp] theorem holdStream_reels (i : Nat) (c : HeldCause) (w : Option Nat) : (s.holdStream i c w).reels = s.reels := by simp only [State.holdStream]; (repeat' split) <;> simp
@[simp] theorem holdStream_opens (i : Nat) (c : HeldCause) (w : Option Nat) : (s.holdStream i c w).opens = s.opens := by simp only [State.holdStream]; (repeat' split) <;> simp
@[simp] theorem holdStream_arr (i : Nat) (c : HeldCause) (w : Option Nat) : (s.holdStream i c w).arr = s.arr := by simp only [State.holdStream]; (repeat' split) <;> simp
@[simp] theorem holdStream_seq (i : Nat) (c : HeldCause) (w : Option Nat) : (s.holdStream i c w).seq = s.seq := by simp only [State.holdStream]; (repeat' split) <;> simp
@[simp] theorem holdStream_dailies (i : Nat) (c : HeldCause) (w : Option Nat) : (s.holdStream i c w).dailies = s.dailies := by simp only [State.holdStream]; (repeat' split) <;> simp
@[simp] theorem holdStream_bench (i : Nat) (c : HeldCause) (w : Option Nat) : (s.holdStream i c w).bench = s.bench := by simp only [State.holdStream]; (repeat' split) <;> simp
@[simp] theorem holdStream_units (i : Nat) (c : HeldCause) (w : Option Nat) : (s.holdStream i c w).units = s.units := by simp only [State.holdStream]; (repeat' split) <;> simp
@[simp] theorem holdStream_motion (i : Nat) (c : HeldCause) (w : Option Nat) : (s.holdStream i c w).motion = s.motion := by simp only [State.holdStream]; (repeat' split) <;> simp
@[simp] theorem holdStream_chk (i : Nat) (c : HeldCause) (w : Option Nat) : (s.holdStream i c w).chk = s.chk := by simp only [State.holdStream]; (repeat' split) <;> simp
@[simp] theorem holdStream_ovl (i : Nat) (c : HeldCause) (w : Option Nat) : (s.holdStream i c w).ovl = s.ovl := by simp only [State.holdStream]; (repeat' split) <;> simp
@[simp] theorem holdStream_gates (i : Nat) (c : HeldCause) (w : Option Nat) : (s.holdStream i c w).gates = s.gates := by simp only [State.holdStream]; (repeat' split) <;> simp
@[simp] theorem holdStream_ports (i : Nat) (c : HeldCause) (w : Option Nat) : (s.holdStream i c w).ports = s.ports := by simp only [State.holdStream]; (repeat' split) <;> simp
@[simp] theorem holdStream_set (i : Nat) (c : HeldCause) (w : Option Nat) : (s.holdStream i c w).set = s.set := by simp only [State.holdStream]; (repeat' split) <;> simp
@[simp] theorem holdStream_fw (i : Nat) (c : HeldCause) (w : Option Nat) : (s.holdStream i c w).fw = s.fw := by simp only [State.holdStream]; (repeat' split) <;> simp
@[simp] theorem holdStream_inputs (i : Nat) (c : HeldCause) (w : Option Nat) : (s.holdStream i c w).inputs = s.inputs := by simp only [State.holdStream]; (repeat' split) <;> simp
@[simp] theorem holdStream_board (i : Nat) (c : HeldCause) (w : Option Nat) : (s.holdStream i c w).board = s.board := by simp only [State.holdStream]; (repeat' split) <;> simp
@[simp] theorem holdStream_tags (i : Nat) (c : HeldCause) (w : Option Nat) : (s.holdStream i c w).tags = s.tags := by simp only [State.holdStream]; (repeat' split) <;> simp
@[simp] theorem holdStream_jtag (i : Nat) (c : HeldCause) (w : Option Nat) : (s.holdStream i c w).jtag = s.jtag := by simp only [State.holdStream]; (repeat' split) <;> simp

/-! ### logMore -/

@[simp] theorem logMore_pending (sl : Slot) (c : Cause) (a : Nat) (st : Option Nat) : (s.logMore sl c a st).pending = s.pending := by simp [State.logMore]
@[simp] theorem logMore_out (sl : Slot) (c : Cause) (a : Nat) (st : Option Nat) : (s.logMore sl c a st).out = s.out := by simp [State.logMore]
@[simp] theorem logMore_fuses (sl : Slot) (c : Cause) (a : Nat) (st : Option Nat) : (s.logMore sl c a st).fuses = s.fuses := by simp [State.logMore]
@[simp] theorem logMore_flash (sl : Slot) (c : Cause) (a : Nat) (st : Option Nat) : (s.logMore sl c a st).flash = s.flash := by simp [State.logMore]
@[simp] theorem logMore_clock (sl : Slot) (c : Cause) (a : Nat) (st : Option Nat) : (s.logMore sl c a st).clock = s.clock := by simp [State.logMore]
@[simp] theorem logMore_dev (sl : Slot) (c : Cause) (a : Nat) (st : Option Nat) : (s.logMore sl c a st).dev = s.dev := by simp [State.logMore]
@[simp] theorem logMore_host (sl : Slot) (c : Cause) (a : Nat) (st : Option Nat) : (s.logMore sl c a st).host = s.host := by simp [State.logMore]
@[simp] theorem logMore_mbox (sl : Slot) (c : Cause) (a : Nat) (st : Option Nat) : (s.logMore sl c a st).mbox = s.mbox := by simp [State.logMore]
@[simp] theorem logMore_doorbells (sl : Slot) (c : Cause) (a : Nat) (st : Option Nat) : (s.logMore sl c a st).doorbells = s.doorbells := by simp [State.logMore]
@[simp] theorem logMore_mem (sl : Slot) (c : Cause) (a : Nat) (st : Option Nat) : (s.logMore sl c a st).mem = s.mem := by simp [State.logMore]
@[simp] theorem logMore_poison (sl : Slot) (c : Cause) (a : Nat) (st : Option Nat) : (s.logMore sl c a st).poison = s.poison := by simp [State.logMore]
@[simp] theorem logMore_wall (sl : Slot) (c : Cause) (a : Nat) (st : Option Nat) : (s.logMore sl c a st).wall = s.wall := by simp [State.logMore]
@[simp] theorem logMore_pool (sl : Slot) (c : Cause) (a : Nat) (st : Option Nat) : (s.logMore sl c a st).pool = s.pool := by simp [State.logMore]
@[simp] theorem logMore_tensors (sl : Slot) (c : Cause) (a : Nat) (st : Option Nat) : (s.logMore sl c a st).tensors = s.tensors := by simp [State.logMore]
@[simp] theorem logMore_reels (sl : Slot) (c : Cause) (a : Nat) (st : Option Nat) : (s.logMore sl c a st).reels = s.reels := by simp [State.logMore]
@[simp] theorem logMore_streams (sl : Slot) (c : Cause) (a : Nat) (st : Option Nat) : (s.logMore sl c a st).streams = s.streams := by simp [State.logMore]
@[simp] theorem logMore_opens (sl : Slot) (c : Cause) (a : Nat) (st : Option Nat) : (s.logMore sl c a st).opens = s.opens := by simp [State.logMore]
@[simp] theorem logMore_arr (sl : Slot) (c : Cause) (a : Nat) (st : Option Nat) : (s.logMore sl c a st).arr = s.arr := by simp [State.logMore]
@[simp] theorem logMore_seq (sl : Slot) (c : Cause) (a : Nat) (st : Option Nat) : (s.logMore sl c a st).seq = s.seq := by simp [State.logMore]
@[simp] theorem logMore_dailies (sl : Slot) (c : Cause) (a : Nat) (st : Option Nat) : (s.logMore sl c a st).dailies = s.dailies := by simp [State.logMore]
@[simp] theorem logMore_bench (sl : Slot) (c : Cause) (a : Nat) (st : Option Nat) : (s.logMore sl c a st).bench = s.bench := by simp [State.logMore]
@[simp] theorem logMore_units (sl : Slot) (c : Cause) (a : Nat) (st : Option Nat) : (s.logMore sl c a st).units = s.units := by simp [State.logMore]
@[simp] theorem logMore_motion (sl : Slot) (c : Cause) (a : Nat) (st : Option Nat) : (s.logMore sl c a st).motion = s.motion := by simp [State.logMore]
@[simp] theorem logMore_chk (sl : Slot) (c : Cause) (a : Nat) (st : Option Nat) : (s.logMore sl c a st).chk = s.chk := by simp [State.logMore]
@[simp] theorem logMore_ovl (sl : Slot) (c : Cause) (a : Nat) (st : Option Nat) : (s.logMore sl c a st).ovl = s.ovl := by simp [State.logMore]
@[simp] theorem logMore_gates (sl : Slot) (c : Cause) (a : Nat) (st : Option Nat) : (s.logMore sl c a st).gates = s.gates := by simp [State.logMore]
@[simp] theorem logMore_ports (sl : Slot) (c : Cause) (a : Nat) (st : Option Nat) : (s.logMore sl c a st).ports = s.ports := by simp [State.logMore]
@[simp] theorem logMore_set (sl : Slot) (c : Cause) (a : Nat) (st : Option Nat) : (s.logMore sl c a st).set = s.set := by simp [State.logMore]
@[simp] theorem logMore_fw (sl : Slot) (c : Cause) (a : Nat) (st : Option Nat) : (s.logMore sl c a st).fw = s.fw := by simp [State.logMore]
@[simp] theorem logMore_inputs (sl : Slot) (c : Cause) (a : Nat) (st : Option Nat) : (s.logMore sl c a st).inputs = s.inputs := by simp [State.logMore]
@[simp] theorem logMore_board (sl : Slot) (c : Cause) (a : Nat) (st : Option Nat) : (s.logMore sl c a st).board = s.board := by simp [State.logMore]
@[simp] theorem logMore_tags (sl : Slot) (c : Cause) (a : Nat) (st : Option Nat) : (s.logMore sl c a st).tags = s.tags := by simp [State.logMore]
@[simp] theorem logMore_jtag (sl : Slot) (c : Cause) (a : Nat) (st : Option Nat) : (s.logMore sl c a st).jtag = s.jtag := by simp [State.logMore]

/-! ### halt -/

@[simp] theorem halt_pending : (s.halt).pending = s.pending := by simp [State.halt]
@[simp] theorem halt_free : (s.halt).free = s.free := by simp [State.halt]
@[simp] theorem halt_fuses : (s.halt).fuses = s.fuses := by simp [State.halt]
@[simp] theorem halt_clock : (s.halt).clock = s.clock := by simp [State.halt]
@[simp] theorem halt_mbox : (s.halt).mbox = s.mbox := by simp [State.halt]
@[simp] theorem halt_doorbells : (s.halt).doorbells = s.doorbells := by simp [State.halt]
@[simp] theorem halt_wall : (s.halt).wall = s.wall := by simp [State.halt]
@[simp] theorem halt_pool : (s.halt).pool = s.pool := by simp [State.halt]
@[simp] theorem halt_tensors : (s.halt).tensors = s.tensors := by simp [State.halt]
@[simp] theorem halt_reels : (s.halt).reels = s.reels := by simp [State.halt]
@[simp] theorem halt_opens : (s.halt).opens = s.opens := by simp [State.halt]
@[simp] theorem halt_arr : (s.halt).arr = s.arr := by simp [State.halt]
@[simp] theorem halt_seq : (s.halt).seq = s.seq := by simp [State.halt]
@[simp] theorem halt_dailies : (s.halt).dailies = s.dailies := by simp [State.halt]
@[simp] theorem halt_bench : (s.halt).bench = s.bench := by simp [State.halt]
@[simp] theorem halt_units : (s.halt).units = s.units := by simp [State.halt]
@[simp] theorem halt_gates : (s.halt).gates = s.gates := by simp [State.halt]
@[simp] theorem halt_ports : (s.halt).ports = s.ports := by simp [State.halt]
@[simp] theorem halt_set : (s.halt).set = s.set := by simp [State.halt]
@[simp] theorem halt_fw : (s.halt).fw = s.fw := by simp [State.halt]
@[simp] theorem halt_inputs : (s.halt).inputs = s.inputs := by simp [State.halt]
@[simp] theorem halt_board : (s.halt).board = s.board := by simp [State.halt]
@[simp] theorem halt_tags : (s.halt).tags = s.tags := by simp [State.halt]
@[simp] theorem halt_jtag : (s.halt).jtag = s.jtag := by simp [State.halt]

/-! ### holdSlot -/

@[simp] theorem holdSlot_pending (sl : Slot) (c : Cause) (u : Nat) (h : HeldUntil) : (s.holdSlot sl c u h).pending = s.pending := rfl
@[simp] theorem holdSlot_free (sl : Slot) (c : Cause) (u : Nat) (h : HeldUntil) : (s.holdSlot sl c u h).free = s.free := rfl
@[simp] theorem holdSlot_out (sl : Slot) (c : Cause) (u : Nat) (h : HeldUntil) : (s.holdSlot sl c u h).out = s.out := rfl
@[simp] theorem holdSlot_fuses (sl : Slot) (c : Cause) (u : Nat) (h : HeldUntil) : (s.holdSlot sl c u h).fuses = s.fuses := rfl
@[simp] theorem holdSlot_flash (sl : Slot) (c : Cause) (u : Nat) (h : HeldUntil) : (s.holdSlot sl c u h).flash = s.flash := rfl
@[simp] theorem holdSlot_clock (sl : Slot) (c : Cause) (u : Nat) (h : HeldUntil) : (s.holdSlot sl c u h).clock = s.clock := rfl
@[simp] theorem holdSlot_dev (sl : Slot) (c : Cause) (u : Nat) (h : HeldUntil) : (s.holdSlot sl c u h).dev = s.dev := rfl
@[simp] theorem holdSlot_host (sl : Slot) (c : Cause) (u : Nat) (h : HeldUntil) : (s.holdSlot sl c u h).host = s.host := rfl
@[simp] theorem holdSlot_mbox (sl : Slot) (c : Cause) (u : Nat) (h : HeldUntil) : (s.holdSlot sl c u h).mbox = s.mbox := rfl
@[simp] theorem holdSlot_doorbells (sl : Slot) (c : Cause) (u : Nat) (h : HeldUntil) : (s.holdSlot sl c u h).doorbells = s.doorbells := rfl
@[simp] theorem holdSlot_mem (sl : Slot) (c : Cause) (u : Nat) (h : HeldUntil) : (s.holdSlot sl c u h).mem = s.mem := rfl
@[simp] theorem holdSlot_poison (sl : Slot) (c : Cause) (u : Nat) (h : HeldUntil) : (s.holdSlot sl c u h).poison = s.poison := rfl
@[simp] theorem holdSlot_wall (sl : Slot) (c : Cause) (u : Nat) (h : HeldUntil) : (s.holdSlot sl c u h).wall = s.wall := rfl
@[simp] theorem holdSlot_pool (sl : Slot) (c : Cause) (u : Nat) (h : HeldUntil) : (s.holdSlot sl c u h).pool = s.pool := rfl
@[simp] theorem holdSlot_tensors (sl : Slot) (c : Cause) (u : Nat) (h : HeldUntil) : (s.holdSlot sl c u h).tensors = s.tensors := rfl
@[simp] theorem holdSlot_reels (sl : Slot) (c : Cause) (u : Nat) (h : HeldUntil) : (s.holdSlot sl c u h).reels = s.reels := rfl
@[simp] theorem holdSlot_streams (sl : Slot) (c : Cause) (u : Nat) (h : HeldUntil) : (s.holdSlot sl c u h).streams = s.streams := rfl
@[simp] theorem holdSlot_opens (sl : Slot) (c : Cause) (u : Nat) (h : HeldUntil) : (s.holdSlot sl c u h).opens = s.opens := rfl
@[simp] theorem holdSlot_arr (sl : Slot) (c : Cause) (u : Nat) (h : HeldUntil) : (s.holdSlot sl c u h).arr = s.arr := rfl
@[simp] theorem holdSlot_seq (sl : Slot) (c : Cause) (u : Nat) (h : HeldUntil) : (s.holdSlot sl c u h).seq = s.seq := rfl
@[simp] theorem holdSlot_dailies (sl : Slot) (c : Cause) (u : Nat) (h : HeldUntil) : (s.holdSlot sl c u h).dailies = s.dailies := rfl
@[simp] theorem holdSlot_bench (sl : Slot) (c : Cause) (u : Nat) (h : HeldUntil) : (s.holdSlot sl c u h).bench = s.bench := rfl
@[simp] theorem holdSlot_units (sl : Slot) (c : Cause) (u : Nat) (h : HeldUntil) : (s.holdSlot sl c u h).units = s.units := rfl
@[simp] theorem holdSlot_motion (sl : Slot) (c : Cause) (u : Nat) (h : HeldUntil) : (s.holdSlot sl c u h).motion = s.motion := rfl
@[simp] theorem holdSlot_chk (sl : Slot) (c : Cause) (u : Nat) (h : HeldUntil) : (s.holdSlot sl c u h).chk = s.chk := rfl
@[simp] theorem holdSlot_ovl (sl : Slot) (c : Cause) (u : Nat) (h : HeldUntil) : (s.holdSlot sl c u h).ovl = s.ovl := rfl
@[simp] theorem holdSlot_gates (sl : Slot) (c : Cause) (u : Nat) (h : HeldUntil) : (s.holdSlot sl c u h).gates = s.gates := rfl
@[simp] theorem holdSlot_ports (sl : Slot) (c : Cause) (u : Nat) (h : HeldUntil) : (s.holdSlot sl c u h).ports = s.ports := rfl
@[simp] theorem holdSlot_set (sl : Slot) (c : Cause) (u : Nat) (h : HeldUntil) : (s.holdSlot sl c u h).set = s.set := rfl
@[simp] theorem holdSlot_fw (sl : Slot) (c : Cause) (u : Nat) (h : HeldUntil) : (s.holdSlot sl c u h).fw = s.fw := rfl
@[simp] theorem holdSlot_inputs (sl : Slot) (c : Cause) (u : Nat) (h : HeldUntil) : (s.holdSlot sl c u h).inputs = s.inputs := rfl
@[simp] theorem holdSlot_board (sl : Slot) (c : Cause) (u : Nat) (h : HeldUntil) : (s.holdSlot sl c u h).board = s.board := rfl
@[simp] theorem holdSlot_tags (sl : Slot) (c : Cause) (u : Nat) (h : HeldUntil) : (s.holdSlot sl c u h).tags = s.tags := rfl
@[simp] theorem holdSlot_jtag (sl : Slot) (c : Cause) (u : Nat) (h : HeldUntil) : (s.holdSlot sl c u h).jtag = s.jtag := rfl

/-! ### releaseSlots -/

@[simp] theorem releaseSlots_pending (p : HeldSlot → Bool) : (s.releaseSlots p).pending = s.pending := rfl
@[simp] theorem releaseSlots_free (p : HeldSlot → Bool) : (s.releaseSlots p).free = s.free := rfl
@[simp] theorem releaseSlots_out (p : HeldSlot → Bool) : (s.releaseSlots p).out = s.out := rfl
@[simp] theorem releaseSlots_fuses (p : HeldSlot → Bool) : (s.releaseSlots p).fuses = s.fuses := rfl
@[simp] theorem releaseSlots_flash (p : HeldSlot → Bool) : (s.releaseSlots p).flash = s.flash := rfl
@[simp] theorem releaseSlots_clock (p : HeldSlot → Bool) : (s.releaseSlots p).clock = s.clock := rfl
@[simp] theorem releaseSlots_dev (p : HeldSlot → Bool) : (s.releaseSlots p).dev = s.dev := rfl
@[simp] theorem releaseSlots_host (p : HeldSlot → Bool) : (s.releaseSlots p).host = s.host := rfl
@[simp] theorem releaseSlots_mbox (p : HeldSlot → Bool) : (s.releaseSlots p).mbox = s.mbox := rfl
@[simp] theorem releaseSlots_doorbells (p : HeldSlot → Bool) : (s.releaseSlots p).doorbells = s.doorbells := rfl
@[simp] theorem releaseSlots_mem (p : HeldSlot → Bool) : (s.releaseSlots p).mem = s.mem := rfl
@[simp] theorem releaseSlots_poison (p : HeldSlot → Bool) : (s.releaseSlots p).poison = s.poison := rfl
@[simp] theorem releaseSlots_wall (p : HeldSlot → Bool) : (s.releaseSlots p).wall = s.wall := rfl
@[simp] theorem releaseSlots_pool (p : HeldSlot → Bool) : (s.releaseSlots p).pool = s.pool := rfl
@[simp] theorem releaseSlots_tensors (p : HeldSlot → Bool) : (s.releaseSlots p).tensors = s.tensors := rfl
@[simp] theorem releaseSlots_reels (p : HeldSlot → Bool) : (s.releaseSlots p).reels = s.reels := rfl
@[simp] theorem releaseSlots_streams (p : HeldSlot → Bool) : (s.releaseSlots p).streams = s.streams := rfl
@[simp] theorem releaseSlots_opens (p : HeldSlot → Bool) : (s.releaseSlots p).opens = s.opens := rfl
@[simp] theorem releaseSlots_arr (p : HeldSlot → Bool) : (s.releaseSlots p).arr = s.arr := rfl
@[simp] theorem releaseSlots_seq (p : HeldSlot → Bool) : (s.releaseSlots p).seq = s.seq := rfl
@[simp] theorem releaseSlots_dailies (p : HeldSlot → Bool) : (s.releaseSlots p).dailies = s.dailies := rfl
@[simp] theorem releaseSlots_bench (p : HeldSlot → Bool) : (s.releaseSlots p).bench = s.bench := rfl
@[simp] theorem releaseSlots_units (p : HeldSlot → Bool) : (s.releaseSlots p).units = s.units := rfl
@[simp] theorem releaseSlots_motion (p : HeldSlot → Bool) : (s.releaseSlots p).motion = s.motion := rfl
@[simp] theorem releaseSlots_chk (p : HeldSlot → Bool) : (s.releaseSlots p).chk = s.chk := rfl
@[simp] theorem releaseSlots_ovl (p : HeldSlot → Bool) : (s.releaseSlots p).ovl = s.ovl := rfl
@[simp] theorem releaseSlots_gates (p : HeldSlot → Bool) : (s.releaseSlots p).gates = s.gates := rfl
@[simp] theorem releaseSlots_ports (p : HeldSlot → Bool) : (s.releaseSlots p).ports = s.ports := rfl
@[simp] theorem releaseSlots_set (p : HeldSlot → Bool) : (s.releaseSlots p).set = s.set := rfl
@[simp] theorem releaseSlots_fw (p : HeldSlot → Bool) : (s.releaseSlots p).fw = s.fw := rfl
@[simp] theorem releaseSlots_inputs (p : HeldSlot → Bool) : (s.releaseSlots p).inputs = s.inputs := rfl
@[simp] theorem releaseSlots_board (p : HeldSlot → Bool) : (s.releaseSlots p).board = s.board := rfl
@[simp] theorem releaseSlots_tags (p : HeldSlot → Bool) : (s.releaseSlots p).tags = s.tags := rfl
@[simp] theorem releaseSlots_jtag (p : HeldSlot → Bool) : (s.releaseSlots p).jtag = s.jtag := rfl

/-! ### motionFails -/

@[simp] theorem motionFails_pending (st : Option Nat) : (s.motionFails st).pending = s.pending := rfl
@[simp] theorem motionFails_free (st : Option Nat) : (s.motionFails st).free = s.free := rfl
@[simp] theorem motionFails_out (st : Option Nat) : (s.motionFails st).out = s.out := rfl
@[simp] theorem motionFails_fuses (st : Option Nat) : (s.motionFails st).fuses = s.fuses := rfl
@[simp] theorem motionFails_flash (st : Option Nat) : (s.motionFails st).flash = s.flash := rfl
@[simp] theorem motionFails_clock (st : Option Nat) : (s.motionFails st).clock = s.clock := rfl
@[simp] theorem motionFails_dev (st : Option Nat) : (s.motionFails st).dev = s.dev := rfl
@[simp] theorem motionFails_host (st : Option Nat) : (s.motionFails st).host = s.host := rfl
@[simp] theorem motionFails_mbox (st : Option Nat) : (s.motionFails st).mbox = s.mbox := rfl
@[simp] theorem motionFails_doorbells (st : Option Nat) : (s.motionFails st).doorbells = s.doorbells := rfl
@[simp] theorem motionFails_err (st : Option Nat) : (s.motionFails st).err = s.err := rfl
@[simp] theorem motionFails_mem (st : Option Nat) : (s.motionFails st).mem = s.mem := rfl
@[simp] theorem motionFails_poison (st : Option Nat) : (s.motionFails st).poison = s.poison := rfl
@[simp] theorem motionFails_wall (st : Option Nat) : (s.motionFails st).wall = s.wall := rfl
@[simp] theorem motionFails_pool (st : Option Nat) : (s.motionFails st).pool = s.pool := rfl
@[simp] theorem motionFails_tensors (st : Option Nat) : (s.motionFails st).tensors = s.tensors := rfl
@[simp] theorem motionFails_reels (st : Option Nat) : (s.motionFails st).reels = s.reels := rfl
@[simp] theorem motionFails_streams (st : Option Nat) : (s.motionFails st).streams = s.streams := rfl
@[simp] theorem motionFails_opens (st : Option Nat) : (s.motionFails st).opens = s.opens := rfl
@[simp] theorem motionFails_arr (st : Option Nat) : (s.motionFails st).arr = s.arr := rfl
@[simp] theorem motionFails_seq (st : Option Nat) : (s.motionFails st).seq = s.seq := rfl
@[simp] theorem motionFails_dailies (st : Option Nat) : (s.motionFails st).dailies = s.dailies := rfl
@[simp] theorem motionFails_bench (st : Option Nat) : (s.motionFails st).bench = s.bench := rfl
@[simp] theorem motionFails_units (st : Option Nat) : (s.motionFails st).units = s.units := rfl
@[simp] theorem motionFails_chk (st : Option Nat) : (s.motionFails st).chk = s.chk := rfl
@[simp] theorem motionFails_ovl (st : Option Nat) : (s.motionFails st).ovl = s.ovl := rfl
@[simp] theorem motionFails_gates (st : Option Nat) : (s.motionFails st).gates = s.gates := rfl
@[simp] theorem motionFails_ports (st : Option Nat) : (s.motionFails st).ports = s.ports := rfl
@[simp] theorem motionFails_set (st : Option Nat) : (s.motionFails st).set = s.set := rfl
@[simp] theorem motionFails_fw (st : Option Nat) : (s.motionFails st).fw = s.fw := rfl
@[simp] theorem motionFails_inputs (st : Option Nat) : (s.motionFails st).inputs = s.inputs := rfl
@[simp] theorem motionFails_board (st : Option Nat) : (s.motionFails st).board = s.board := rfl
@[simp] theorem motionFails_tags (st : Option Nat) : (s.motionFails st).tags = s.tags := rfl
@[simp] theorem motionFails_jtag (st : Option Nat) : (s.motionFails st).jtag = s.jtag := rfl

/-! ### overlayFails -/

@[simp] theorem overlayFails_pending : (s.overlayFails).pending = s.pending := rfl
@[simp] theorem overlayFails_free : (s.overlayFails).free = s.free := rfl
@[simp] theorem overlayFails_out : (s.overlayFails).out = s.out := rfl
@[simp] theorem overlayFails_fuses : (s.overlayFails).fuses = s.fuses := rfl
@[simp] theorem overlayFails_flash : (s.overlayFails).flash = s.flash := rfl
@[simp] theorem overlayFails_clock : (s.overlayFails).clock = s.clock := rfl
@[simp] theorem overlayFails_dev : (s.overlayFails).dev = s.dev := rfl
@[simp] theorem overlayFails_host : (s.overlayFails).host = s.host := rfl
@[simp] theorem overlayFails_mbox : (s.overlayFails).mbox = s.mbox := rfl
@[simp] theorem overlayFails_doorbells : (s.overlayFails).doorbells = s.doorbells := rfl
@[simp] theorem overlayFails_err : (s.overlayFails).err = s.err := rfl
@[simp] theorem overlayFails_mem : (s.overlayFails).mem = s.mem := rfl
@[simp] theorem overlayFails_poison : (s.overlayFails).poison = s.poison := rfl
@[simp] theorem overlayFails_wall : (s.overlayFails).wall = s.wall := rfl
@[simp] theorem overlayFails_pool : (s.overlayFails).pool = s.pool := rfl
@[simp] theorem overlayFails_tensors : (s.overlayFails).tensors = s.tensors := rfl
@[simp] theorem overlayFails_reels : (s.overlayFails).reels = s.reels := rfl
@[simp] theorem overlayFails_streams : (s.overlayFails).streams = s.streams := rfl
@[simp] theorem overlayFails_opens : (s.overlayFails).opens = s.opens := rfl
@[simp] theorem overlayFails_arr : (s.overlayFails).arr = s.arr := rfl
@[simp] theorem overlayFails_seq : (s.overlayFails).seq = s.seq := rfl
@[simp] theorem overlayFails_dailies : (s.overlayFails).dailies = s.dailies := rfl
@[simp] theorem overlayFails_bench : (s.overlayFails).bench = s.bench := rfl
@[simp] theorem overlayFails_units : (s.overlayFails).units = s.units := rfl
@[simp] theorem overlayFails_motion : (s.overlayFails).motion = s.motion := rfl
@[simp] theorem overlayFails_chk : (s.overlayFails).chk = s.chk := rfl
@[simp] theorem overlayFails_gates : (s.overlayFails).gates = s.gates := rfl
@[simp] theorem overlayFails_ports : (s.overlayFails).ports = s.ports := rfl
@[simp] theorem overlayFails_set : (s.overlayFails).set = s.set := rfl
@[simp] theorem overlayFails_fw : (s.overlayFails).fw = s.fw := rfl
@[simp] theorem overlayFails_inputs : (s.overlayFails).inputs = s.inputs := rfl
@[simp] theorem overlayFails_board : (s.overlayFails).board = s.board := rfl
@[simp] theorem overlayFails_tags : (s.overlayFails).tags = s.tags := rfl
@[simp] theorem overlayFails_jtag : (s.overlayFails).jtag = s.jtag := rfl

/-! ### hostReset -/

@[simp] theorem hostReset_pending : (s.hostReset).pending = s.pending := by simp only [State.hostReset]; (repeat' split) <;> simp
@[simp] theorem hostReset_free : (s.hostReset).free = s.free := by simp only [State.hostReset]; (repeat' split) <;> simp
@[simp] theorem hostReset_fuses : (s.hostReset).fuses = s.fuses := by simp only [State.hostReset]; (repeat' split) <;> simp
@[simp] theorem hostReset_flash : (s.hostReset).flash = s.flash := by simp only [State.hostReset]; (repeat' split) <;> simp
@[simp] theorem hostReset_clock : (s.hostReset).clock = s.clock := by simp only [State.hostReset]; (repeat' split) <;> simp
@[simp] theorem hostReset_mbox : (s.hostReset).mbox = s.mbox := by simp only [State.hostReset]; (repeat' split) <;> simp
@[simp] theorem hostReset_doorbells : (s.hostReset).doorbells = s.doorbells := by simp only [State.hostReset]; (repeat' split) <;> simp
@[simp] theorem hostReset_err : (s.hostReset).err = s.err := by simp only [State.hostReset]; (repeat' split) <;> simp
@[simp] theorem hostReset_wall : (s.hostReset).wall = s.wall := by simp only [State.hostReset]; (repeat' split) <;> simp
@[simp] theorem hostReset_pool : (s.hostReset).pool = s.pool := by simp only [State.hostReset]; (repeat' split) <;> simp
@[simp] theorem hostReset_tensors : (s.hostReset).tensors = s.tensors := by simp only [State.hostReset]; (repeat' split) <;> simp
@[simp] theorem hostReset_reels : (s.hostReset).reels = s.reels := by simp only [State.hostReset]; (repeat' split) <;> simp
@[simp] theorem hostReset_streams : (s.hostReset).streams = s.streams := by simp only [State.hostReset]; (repeat' split) <;> simp
@[simp] theorem hostReset_opens : (s.hostReset).opens = s.opens := by simp only [State.hostReset]; (repeat' split) <;> simp
@[simp] theorem hostReset_arr : (s.hostReset).arr = s.arr := by simp only [State.hostReset]; (repeat' split) <;> simp
@[simp] theorem hostReset_seq : (s.hostReset).seq = s.seq := by simp only [State.hostReset]; (repeat' split) <;> simp
@[simp] theorem hostReset_dailies : (s.hostReset).dailies = s.dailies := by simp only [State.hostReset]; (repeat' split) <;> simp
@[simp] theorem hostReset_bench : (s.hostReset).bench = s.bench := by simp only [State.hostReset]; (repeat' split) <;> simp
@[simp] theorem hostReset_units : (s.hostReset).units = s.units := by simp only [State.hostReset]; (repeat' split) <;> simp
@[simp] theorem hostReset_motion : (s.hostReset).motion = s.motion := by simp only [State.hostReset]; (repeat' split) <;> simp
@[simp] theorem hostReset_chk : (s.hostReset).chk = s.chk := by simp only [State.hostReset]; (repeat' split) <;> simp
@[simp] theorem hostReset_ovl : (s.hostReset).ovl = s.ovl := by simp only [State.hostReset]; (repeat' split) <;> simp
@[simp] theorem hostReset_gates : (s.hostReset).gates = s.gates := by simp only [State.hostReset]; (repeat' split) <;> simp
@[simp] theorem hostReset_ports : (s.hostReset).ports = s.ports := by simp only [State.hostReset]; (repeat' split) <;> simp
@[simp] theorem hostReset_set : (s.hostReset).set = s.set := by simp only [State.hostReset]; (repeat' split) <;> simp
@[simp] theorem hostReset_fw : (s.hostReset).fw = s.fw := by simp only [State.hostReset]; (repeat' split) <;> simp
@[simp] theorem hostReset_inputs : (s.hostReset).inputs = s.inputs := by simp only [State.hostReset]; (repeat' split) <;> simp
@[simp] theorem hostReset_board : (s.hostReset).board = s.board := by simp only [State.hostReset]; (repeat' split) <;> simp
@[simp] theorem hostReset_tags : (s.hostReset).tags = s.tags := by simp only [State.hostReset]; (repeat' split) <;> simp
@[simp] theorem hostReset_jtag : (s.hostReset).jtag = s.jtag := by simp only [State.hostReset]; (repeat' split) <;> simp

/-! ### postLink -/

@[simp] theorem postLink_pending (p : Nat) : (s.postLink p).pending = s.pending := by simp [State.postLink]
@[simp] theorem postLink_free (p : Nat) : (s.postLink p).free = s.free := by simp [State.postLink]
@[simp] theorem postLink_fuses (p : Nat) : (s.postLink p).fuses = s.fuses := by simp [State.postLink]
@[simp] theorem postLink_flash (p : Nat) : (s.postLink p).flash = s.flash := by simp [State.postLink]
@[simp] theorem postLink_clock (p : Nat) : (s.postLink p).clock = s.clock := by simp [State.postLink]
@[simp] theorem postLink_mbox (p : Nat) : (s.postLink p).mbox = s.mbox := by simp [State.postLink]
@[simp] theorem postLink_doorbells (p : Nat) : (s.postLink p).doorbells = s.doorbells := by simp [State.postLink]
@[simp] theorem postLink_wall (p : Nat) : (s.postLink p).wall = s.wall := by simp [State.postLink]
@[simp] theorem postLink_pool (p : Nat) : (s.postLink p).pool = s.pool := by simp [State.postLink]
@[simp] theorem postLink_tensors (p : Nat) : (s.postLink p).tensors = s.tensors := by simp [State.postLink]
@[simp] theorem postLink_reels (p : Nat) : (s.postLink p).reels = s.reels := by simp [State.postLink]
@[simp] theorem postLink_streams (p : Nat) : (s.postLink p).streams = s.streams := by simp [State.postLink]
@[simp] theorem postLink_opens (p : Nat) : (s.postLink p).opens = s.opens := by simp [State.postLink]
@[simp] theorem postLink_arr (p : Nat) : (s.postLink p).arr = s.arr := by simp [State.postLink]
@[simp] theorem postLink_seq (p : Nat) : (s.postLink p).seq = s.seq := by simp [State.postLink]
@[simp] theorem postLink_dailies (p : Nat) : (s.postLink p).dailies = s.dailies := by simp [State.postLink]
@[simp] theorem postLink_bench (p : Nat) : (s.postLink p).bench = s.bench := by simp [State.postLink]
@[simp] theorem postLink_units (p : Nat) : (s.postLink p).units = s.units := by simp [State.postLink]
@[simp] theorem postLink_motion (p : Nat) : (s.postLink p).motion = s.motion := by simp [State.postLink]
@[simp] theorem postLink_chk (p : Nat) : (s.postLink p).chk = s.chk := by simp [State.postLink]
@[simp] theorem postLink_ovl (p : Nat) : (s.postLink p).ovl = s.ovl := by simp [State.postLink]
@[simp] theorem postLink_gates (p : Nat) : (s.postLink p).gates = s.gates := by simp [State.postLink]
@[simp] theorem postLink_ports (p : Nat) : (s.postLink p).ports = s.ports := by simp [State.postLink]
@[simp] theorem postLink_set (p : Nat) : (s.postLink p).set = s.set := by simp [State.postLink]
@[simp] theorem postLink_fw (p : Nat) : (s.postLink p).fw = s.fw := by simp [State.postLink]
@[simp] theorem postLink_inputs (p : Nat) : (s.postLink p).inputs = s.inputs := by simp [State.postLink]
@[simp] theorem postLink_board (p : Nat) : (s.postLink p).board = s.board := by simp [State.postLink]
@[simp] theorem postLink_tags (p : Nat) : (s.postLink p).tags = s.tags := by simp [State.postLink]
@[simp] theorem postLink_jtag (p : Nat) : (s.postLink p).jtag = s.jtag := by simp [State.postLink]

/-! ### setClap -/

@[simp] theorem setClap_pending (c : ClapState) : (s.setClap c).pending = s.pending := by simp only [State.setClap]; (repeat' split) <;> simp
@[simp] theorem setClap_free (c : ClapState) : (s.setClap c).free = s.free := by simp only [State.setClap]; (repeat' split) <;> simp
@[simp] theorem setClap_fuses (c : ClapState) : (s.setClap c).fuses = s.fuses := by simp only [State.setClap]; (repeat' split) <;> simp
@[simp] theorem setClap_flash (c : ClapState) : (s.setClap c).flash = s.flash := by simp only [State.setClap]; (repeat' split) <;> simp
@[simp] theorem setClap_mbox (c : ClapState) : (s.setClap c).mbox = s.mbox := by simp only [State.setClap]; (repeat' split) <;> simp
@[simp] theorem setClap_doorbells (c : ClapState) : (s.setClap c).doorbells = s.doorbells := by simp only [State.setClap]; (repeat' split) <;> simp
@[simp] theorem setClap_err (c : ClapState) : (s.setClap c).err = s.err := by simp only [State.setClap]; (repeat' split) <;> simp
@[simp] theorem setClap_wall (c : ClapState) : (s.setClap c).wall = s.wall := by simp only [State.setClap]; (repeat' split) <;> simp
@[simp] theorem setClap_pool (c : ClapState) : (s.setClap c).pool = s.pool := by simp only [State.setClap]; (repeat' split) <;> simp
@[simp] theorem setClap_tensors (c : ClapState) : (s.setClap c).tensors = s.tensors := by simp only [State.setClap]; (repeat' split) <;> simp
@[simp] theorem setClap_reels (c : ClapState) : (s.setClap c).reels = s.reels := by simp only [State.setClap]; (repeat' split) <;> simp
@[simp] theorem setClap_streams (c : ClapState) : (s.setClap c).streams = s.streams := by simp only [State.setClap]; (repeat' split) <;> simp
@[simp] theorem setClap_opens (c : ClapState) : (s.setClap c).opens = s.opens := by simp only [State.setClap]; (repeat' split) <;> simp
@[simp] theorem setClap_arr (c : ClapState) : (s.setClap c).arr = s.arr := by simp only [State.setClap]; (repeat' split) <;> simp
@[simp] theorem setClap_seq (c : ClapState) : (s.setClap c).seq = s.seq := by simp only [State.setClap]; (repeat' split) <;> simp
@[simp] theorem setClap_dailies (c : ClapState) : (s.setClap c).dailies = s.dailies := by simp only [State.setClap]; (repeat' split) <;> simp
@[simp] theorem setClap_bench (c : ClapState) : (s.setClap c).bench = s.bench := by simp only [State.setClap]; (repeat' split) <;> simp
@[simp] theorem setClap_units (c : ClapState) : (s.setClap c).units = s.units := by simp only [State.setClap]; (repeat' split) <;> simp
@[simp] theorem setClap_motion (c : ClapState) : (s.setClap c).motion = s.motion := by simp only [State.setClap]; (repeat' split) <;> simp
@[simp] theorem setClap_chk (c : ClapState) : (s.setClap c).chk = s.chk := by simp only [State.setClap]; (repeat' split) <;> simp
@[simp] theorem setClap_ovl (c : ClapState) : (s.setClap c).ovl = s.ovl := by simp only [State.setClap]; (repeat' split) <;> simp
@[simp] theorem setClap_gates (c : ClapState) : (s.setClap c).gates = s.gates := by simp only [State.setClap]; (repeat' split) <;> simp
@[simp] theorem setClap_ports (c : ClapState) : (s.setClap c).ports = s.ports := by simp only [State.setClap]; (repeat' split) <;> simp
@[simp] theorem setClap_set (c : ClapState) : (s.setClap c).set = s.set := by simp only [State.setClap]; (repeat' split) <;> simp
@[simp] theorem setClap_fw (c : ClapState) : (s.setClap c).fw = s.fw := by simp only [State.setClap]; (repeat' split) <;> simp
@[simp] theorem setClap_inputs (c : ClapState) : (s.setClap c).inputs = s.inputs := by simp only [State.setClap]; (repeat' split) <;> simp
@[simp] theorem setClap_board (c : ClapState) : (s.setClap c).board = s.board := by simp only [State.setClap]; (repeat' split) <;> simp
@[simp] theorem setClap_tags (c : ClapState) : (s.setClap c).tags = s.tags := by simp only [State.setClap]; (repeat' split) <;> simp
@[simp] theorem setClap_jtag (c : ClapState) : (s.setClap c).jtag = s.jtag := by simp only [State.setClap]; (repeat' split) <;> simp

/-! ### loseSource -/

@[simp] theorem loseSource_pending : (s.loseSource).pending = s.pending := by simp only [State.loseSource]; (repeat' split) <;> simp
@[simp] theorem loseSource_free : (s.loseSource).free = s.free := by simp only [State.loseSource]; (repeat' split) <;> simp
@[simp] theorem loseSource_fuses : (s.loseSource).fuses = s.fuses := by simp only [State.loseSource]; (repeat' split) <;> simp
@[simp] theorem loseSource_flash : (s.loseSource).flash = s.flash := by simp only [State.loseSource]; (repeat' split) <;> simp
@[simp] theorem loseSource_mbox : (s.loseSource).mbox = s.mbox := by simp only [State.loseSource]; (repeat' split) <;> simp
@[simp] theorem loseSource_doorbells : (s.loseSource).doorbells = s.doorbells := by simp only [State.loseSource]; (repeat' split) <;> simp
@[simp] theorem loseSource_err : (s.loseSource).err = s.err := by simp only [State.loseSource]; (repeat' split) <;> simp
@[simp] theorem loseSource_wall : (s.loseSource).wall = s.wall := by simp only [State.loseSource]; (repeat' split) <;> simp
@[simp] theorem loseSource_pool : (s.loseSource).pool = s.pool := by simp only [State.loseSource]; (repeat' split) <;> simp
@[simp] theorem loseSource_tensors : (s.loseSource).tensors = s.tensors := by simp only [State.loseSource]; (repeat' split) <;> simp
@[simp] theorem loseSource_reels : (s.loseSource).reels = s.reels := by simp only [State.loseSource]; (repeat' split) <;> simp
@[simp] theorem loseSource_streams : (s.loseSource).streams = s.streams := by simp only [State.loseSource]; (repeat' split) <;> simp
@[simp] theorem loseSource_opens : (s.loseSource).opens = s.opens := by simp only [State.loseSource]; (repeat' split) <;> simp
@[simp] theorem loseSource_arr : (s.loseSource).arr = s.arr := by simp only [State.loseSource]; (repeat' split) <;> simp
@[simp] theorem loseSource_seq : (s.loseSource).seq = s.seq := by simp only [State.loseSource]; (repeat' split) <;> simp
@[simp] theorem loseSource_dailies : (s.loseSource).dailies = s.dailies := by simp only [State.loseSource]; (repeat' split) <;> simp
@[simp] theorem loseSource_bench : (s.loseSource).bench = s.bench := by simp only [State.loseSource]; (repeat' split) <;> simp
@[simp] theorem loseSource_units : (s.loseSource).units = s.units := by simp only [State.loseSource]; (repeat' split) <;> simp
@[simp] theorem loseSource_motion : (s.loseSource).motion = s.motion := by simp only [State.loseSource]; (repeat' split) <;> simp
@[simp] theorem loseSource_chk : (s.loseSource).chk = s.chk := by simp only [State.loseSource]; (repeat' split) <;> simp
@[simp] theorem loseSource_ovl : (s.loseSource).ovl = s.ovl := by simp only [State.loseSource]; (repeat' split) <;> simp
@[simp] theorem loseSource_gates : (s.loseSource).gates = s.gates := by simp only [State.loseSource]; (repeat' split) <;> simp
@[simp] theorem loseSource_ports : (s.loseSource).ports = s.ports := by simp only [State.loseSource]; (repeat' split) <;> simp
@[simp] theorem loseSource_set : (s.loseSource).set = s.set := by simp only [State.loseSource]; (repeat' split) <;> simp
@[simp] theorem loseSource_fw : (s.loseSource).fw = s.fw := by simp only [State.loseSource]; (repeat' split) <;> simp
@[simp] theorem loseSource_inputs : (s.loseSource).inputs = s.inputs := by simp only [State.loseSource]; (repeat' split) <;> simp
@[simp] theorem loseSource_board : (s.loseSource).board = s.board := by simp only [State.loseSource]; (repeat' split) <;> simp
@[simp] theorem loseSource_tags : (s.loseSource).tags = s.tags := by simp only [State.loseSource]; (repeat' split) <;> simp
@[simp] theorem loseSource_jtag : (s.loseSource).jtag = s.jtag := by simp only [State.loseSource]; (repeat' split) <;> simp

/-! ### portEnters -/

@[simp] theorem portEnters_pending (p : Nat) (x : PortState) : (s.portEnters p x).pending = s.pending := by simp only [State.portEnters]; (repeat' split) <;> simp
@[simp] theorem portEnters_free (p : Nat) (x : PortState) : (s.portEnters p x).free = s.free := by simp only [State.portEnters]; (repeat' split) <;> simp
@[simp] theorem portEnters_fuses (p : Nat) (x : PortState) : (s.portEnters p x).fuses = s.fuses := by simp only [State.portEnters]; (repeat' split) <;> simp
@[simp] theorem portEnters_flash (p : Nat) (x : PortState) : (s.portEnters p x).flash = s.flash := by simp only [State.portEnters]; (repeat' split) <;> simp
@[simp] theorem portEnters_mbox (p : Nat) (x : PortState) : (s.portEnters p x).mbox = s.mbox := by simp only [State.portEnters]; (repeat' split) <;> simp
@[simp] theorem portEnters_doorbells (p : Nat) (x : PortState) : (s.portEnters p x).doorbells = s.doorbells := by simp only [State.portEnters]; (repeat' split) <;> simp
@[simp] theorem portEnters_wall (p : Nat) (x : PortState) : (s.portEnters p x).wall = s.wall := by simp only [State.portEnters]; (repeat' split) <;> simp
@[simp] theorem portEnters_pool (p : Nat) (x : PortState) : (s.portEnters p x).pool = s.pool := by simp only [State.portEnters]; (repeat' split) <;> simp
@[simp] theorem portEnters_tensors (p : Nat) (x : PortState) : (s.portEnters p x).tensors = s.tensors := by simp only [State.portEnters]; (repeat' split) <;> simp
@[simp] theorem portEnters_reels (p : Nat) (x : PortState) : (s.portEnters p x).reels = s.reels := by simp only [State.portEnters]; (repeat' split) <;> simp
@[simp] theorem portEnters_streams (p : Nat) (x : PortState) : (s.portEnters p x).streams = s.streams := by simp only [State.portEnters]; (repeat' split) <;> simp
@[simp] theorem portEnters_opens (p : Nat) (x : PortState) : (s.portEnters p x).opens = s.opens := by simp only [State.portEnters]; (repeat' split) <;> simp
@[simp] theorem portEnters_arr (p : Nat) (x : PortState) : (s.portEnters p x).arr = s.arr := by simp only [State.portEnters]; (repeat' split) <;> simp
@[simp] theorem portEnters_seq (p : Nat) (x : PortState) : (s.portEnters p x).seq = s.seq := by simp only [State.portEnters]; (repeat' split) <;> simp
@[simp] theorem portEnters_dailies (p : Nat) (x : PortState) : (s.portEnters p x).dailies = s.dailies := by simp only [State.portEnters]; (repeat' split) <;> simp
@[simp] theorem portEnters_bench (p : Nat) (x : PortState) : (s.portEnters p x).bench = s.bench := by simp only [State.portEnters]; (repeat' split) <;> simp
@[simp] theorem portEnters_units (p : Nat) (x : PortState) : (s.portEnters p x).units = s.units := by simp only [State.portEnters]; (repeat' split) <;> simp
@[simp] theorem portEnters_motion (p : Nat) (x : PortState) : (s.portEnters p x).motion = s.motion := by simp only [State.portEnters]; (repeat' split) <;> simp
@[simp] theorem portEnters_chk (p : Nat) (x : PortState) : (s.portEnters p x).chk = s.chk := by simp only [State.portEnters]; (repeat' split) <;> simp
@[simp] theorem portEnters_ovl (p : Nat) (x : PortState) : (s.portEnters p x).ovl = s.ovl := by simp only [State.portEnters]; (repeat' split) <;> simp
@[simp] theorem portEnters_gates (p : Nat) (x : PortState) : (s.portEnters p x).gates = s.gates := by simp only [State.portEnters]; (repeat' split) <;> simp
@[simp] theorem portEnters_set (p : Nat) (x : PortState) : (s.portEnters p x).set = s.set := by simp only [State.portEnters]; (repeat' split) <;> simp
@[simp] theorem portEnters_fw (p : Nat) (x : PortState) : (s.portEnters p x).fw = s.fw := by simp only [State.portEnters]; (repeat' split) <;> simp
@[simp] theorem portEnters_inputs (p : Nat) (x : PortState) : (s.portEnters p x).inputs = s.inputs := by simp only [State.portEnters]; (repeat' split) <;> simp
@[simp] theorem portEnters_board (p : Nat) (x : PortState) : (s.portEnters p x).board = s.board := by simp only [State.portEnters]; (repeat' split) <;> simp
@[simp] theorem portEnters_tags (p : Nat) (x : PortState) : (s.portEnters p x).tags = s.tags := by simp only [State.portEnters]; (repeat' split) <;> simp
@[simp] theorem portEnters_jtag (p : Nat) (x : PortState) : (s.portEnters p x).jtag = s.jtag := by simp only [State.portEnters]; (repeat' split) <;> simp

/-! ### doorbellIgnored -/

@[simp] theorem doorbellIgnored_pending (i r x : Nat) : (s.doorbellIgnored i r x).pending = s.pending := by simp [State.doorbellIgnored]
@[simp] theorem doorbellIgnored_fuses (i r x : Nat) : (s.doorbellIgnored i r x).fuses = s.fuses := by simp [State.doorbellIgnored]
@[simp] theorem doorbellIgnored_flash (i r x : Nat) : (s.doorbellIgnored i r x).flash = s.flash := by simp [State.doorbellIgnored]
@[simp] theorem doorbellIgnored_clock (i r x : Nat) : (s.doorbellIgnored i r x).clock = s.clock := by simp [State.doorbellIgnored]
@[simp] theorem doorbellIgnored_dev (i r x : Nat) : (s.doorbellIgnored i r x).dev = s.dev := by simp [State.doorbellIgnored]
@[simp] theorem doorbellIgnored_mbox (i r x : Nat) : (s.doorbellIgnored i r x).mbox = s.mbox := by simp [State.doorbellIgnored]
@[simp] theorem doorbellIgnored_doorbells (i r x : Nat) : (s.doorbellIgnored i r x).doorbells = s.doorbells := by simp [State.doorbellIgnored]
@[simp] theorem doorbellIgnored_mem (i r x : Nat) : (s.doorbellIgnored i r x).mem = s.mem := by simp [State.doorbellIgnored]
@[simp] theorem doorbellIgnored_poison (i r x : Nat) : (s.doorbellIgnored i r x).poison = s.poison := by simp [State.doorbellIgnored]
@[simp] theorem doorbellIgnored_wall (i r x : Nat) : (s.doorbellIgnored i r x).wall = s.wall := by simp [State.doorbellIgnored]
@[simp] theorem doorbellIgnored_pool (i r x : Nat) : (s.doorbellIgnored i r x).pool = s.pool := by simp [State.doorbellIgnored]
@[simp] theorem doorbellIgnored_tensors (i r x : Nat) : (s.doorbellIgnored i r x).tensors = s.tensors := by simp [State.doorbellIgnored]
@[simp] theorem doorbellIgnored_reels (i r x : Nat) : (s.doorbellIgnored i r x).reels = s.reels := by simp [State.doorbellIgnored]
@[simp] theorem doorbellIgnored_streams (i r x : Nat) : (s.doorbellIgnored i r x).streams = s.streams := by simp [State.doorbellIgnored]
@[simp] theorem doorbellIgnored_opens (i r x : Nat) : (s.doorbellIgnored i r x).opens = s.opens := by simp [State.doorbellIgnored]
@[simp] theorem doorbellIgnored_arr (i r x : Nat) : (s.doorbellIgnored i r x).arr = s.arr := by simp [State.doorbellIgnored]
@[simp] theorem doorbellIgnored_seq (i r x : Nat) : (s.doorbellIgnored i r x).seq = s.seq := by simp [State.doorbellIgnored]
@[simp] theorem doorbellIgnored_dailies (i r x : Nat) : (s.doorbellIgnored i r x).dailies = s.dailies := by simp [State.doorbellIgnored]
@[simp] theorem doorbellIgnored_bench (i r x : Nat) : (s.doorbellIgnored i r x).bench = s.bench := by simp [State.doorbellIgnored]
@[simp] theorem doorbellIgnored_units (i r x : Nat) : (s.doorbellIgnored i r x).units = s.units := by simp [State.doorbellIgnored]
@[simp] theorem doorbellIgnored_motion (i r x : Nat) : (s.doorbellIgnored i r x).motion = s.motion := by simp [State.doorbellIgnored]
@[simp] theorem doorbellIgnored_chk (i r x : Nat) : (s.doorbellIgnored i r x).chk = s.chk := by simp [State.doorbellIgnored]
@[simp] theorem doorbellIgnored_ovl (i r x : Nat) : (s.doorbellIgnored i r x).ovl = s.ovl := by simp [State.doorbellIgnored]
@[simp] theorem doorbellIgnored_gates (i r x : Nat) : (s.doorbellIgnored i r x).gates = s.gates := by simp [State.doorbellIgnored]
@[simp] theorem doorbellIgnored_ports (i r x : Nat) : (s.doorbellIgnored i r x).ports = s.ports := by simp [State.doorbellIgnored]
@[simp] theorem doorbellIgnored_set (i r x : Nat) : (s.doorbellIgnored i r x).set = s.set := by simp [State.doorbellIgnored]
@[simp] theorem doorbellIgnored_fw (i r x : Nat) : (s.doorbellIgnored i r x).fw = s.fw := by simp [State.doorbellIgnored]
@[simp] theorem doorbellIgnored_inputs (i r x : Nat) : (s.doorbellIgnored i r x).inputs = s.inputs := by simp [State.doorbellIgnored]
@[simp] theorem doorbellIgnored_board (i r x : Nat) : (s.doorbellIgnored i r x).board = s.board := by simp [State.doorbellIgnored]
@[simp] theorem doorbellIgnored_tags (i r x : Nat) : (s.doorbellIgnored i r x).tags = s.tags := by simp [State.doorbellIgnored]
@[simp] theorem doorbellIgnored_jtag (i r x : Nat) : (s.doorbellIgnored i r x).jtag = s.jtag := by simp [State.doorbellIgnored]

/-! ### setMapByte -/

@[simp] theorem setMapByte_pending (i h t b v : Nat) : (s.setMapByte i h t b v).pending = s.pending := by simp [State.setMapByte]
@[simp] theorem setMapByte_free (i h t b v : Nat) : (s.setMapByte i h t b v).free = s.free := by simp [State.setMapByte]
@[simp] theorem setMapByte_out (i h t b v : Nat) : (s.setMapByte i h t b v).out = s.out := by simp [State.setMapByte]
@[simp] theorem setMapByte_fuses (i h t b v : Nat) : (s.setMapByte i h t b v).fuses = s.fuses := by simp [State.setMapByte]
@[simp] theorem setMapByte_flash (i h t b v : Nat) : (s.setMapByte i h t b v).flash = s.flash := by simp [State.setMapByte]
@[simp] theorem setMapByte_clock (i h t b v : Nat) : (s.setMapByte i h t b v).clock = s.clock := by simp [State.setMapByte]
@[simp] theorem setMapByte_dev (i h t b v : Nat) : (s.setMapByte i h t b v).dev = s.dev := by simp [State.setMapByte]
@[simp] theorem setMapByte_host (i h t b v : Nat) : (s.setMapByte i h t b v).host = s.host := by simp [State.setMapByte]
@[simp] theorem setMapByte_mbox (i h t b v : Nat) : (s.setMapByte i h t b v).mbox = s.mbox := by simp [State.setMapByte]
@[simp] theorem setMapByte_doorbells (i h t b v : Nat) : (s.setMapByte i h t b v).doorbells = s.doorbells := by simp [State.setMapByte]
@[simp] theorem setMapByte_err (i h t b v : Nat) : (s.setMapByte i h t b v).err = s.err := by simp [State.setMapByte]
@[simp] theorem setMapByte_wall (i h t b v : Nat) : (s.setMapByte i h t b v).wall = s.wall := by simp [State.setMapByte]
@[simp] theorem setMapByte_pool (i h t b v : Nat) : (s.setMapByte i h t b v).pool = s.pool := by simp [State.setMapByte]
@[simp] theorem setMapByte_tensors (i h t b v : Nat) : (s.setMapByte i h t b v).tensors = s.tensors := by simp [State.setMapByte]
@[simp] theorem setMapByte_reels (i h t b v : Nat) : (s.setMapByte i h t b v).reels = s.reels := by simp [State.setMapByte]
@[simp] theorem setMapByte_streams (i h t b v : Nat) : (s.setMapByte i h t b v).streams = s.streams := by simp [State.setMapByte]
@[simp] theorem setMapByte_opens (i h t b v : Nat) : (s.setMapByte i h t b v).opens = s.opens := by simp [State.setMapByte]
@[simp] theorem setMapByte_arr (i h t b v : Nat) : (s.setMapByte i h t b v).arr = s.arr := by simp [State.setMapByte]
@[simp] theorem setMapByte_seq (i h t b v : Nat) : (s.setMapByte i h t b v).seq = s.seq := by simp [State.setMapByte]
@[simp] theorem setMapByte_dailies (i h t b v : Nat) : (s.setMapByte i h t b v).dailies = s.dailies := by simp [State.setMapByte]
@[simp] theorem setMapByte_bench (i h t b v : Nat) : (s.setMapByte i h t b v).bench = s.bench := by simp [State.setMapByte]
@[simp] theorem setMapByte_units (i h t b v : Nat) : (s.setMapByte i h t b v).units = s.units := by simp [State.setMapByte]
@[simp] theorem setMapByte_motion (i h t b v : Nat) : (s.setMapByte i h t b v).motion = s.motion := by simp [State.setMapByte]
@[simp] theorem setMapByte_chk (i h t b v : Nat) : (s.setMapByte i h t b v).chk = s.chk := by simp [State.setMapByte]
@[simp] theorem setMapByte_ovl (i h t b v : Nat) : (s.setMapByte i h t b v).ovl = s.ovl := by simp [State.setMapByte]
@[simp] theorem setMapByte_gates (i h t b v : Nat) : (s.setMapByte i h t b v).gates = s.gates := by simp [State.setMapByte]
@[simp] theorem setMapByte_ports (i h t b v : Nat) : (s.setMapByte i h t b v).ports = s.ports := by simp [State.setMapByte]
@[simp] theorem setMapByte_set (i h t b v : Nat) : (s.setMapByte i h t b v).set = s.set := by simp [State.setMapByte]
@[simp] theorem setMapByte_fw (i h t b v : Nat) : (s.setMapByte i h t b v).fw = s.fw := by simp [State.setMapByte]
@[simp] theorem setMapByte_inputs (i h t b v : Nat) : (s.setMapByte i h t b v).inputs = s.inputs := by simp [State.setMapByte]
@[simp] theorem setMapByte_board (i h t b v : Nat) : (s.setMapByte i h t b v).board = s.board := by simp [State.setMapByte]
@[simp] theorem setMapByte_tags (i h t b v : Nat) : (s.setMapByte i h t b v).tags = s.tags := by simp [State.setMapByte]
@[simp] theorem setMapByte_jtag (i h t b v : Nat) : (s.setMapByte i h t b v).jtag = s.jtag := by simp [State.setMapByte]

/-! ### readHalf -/

@[simp] theorem readHalf_pending (v : Nat) (w : Bool) : (s.readHalf v w).pending = s.pending := by simp [State.readHalf]
@[simp] theorem readHalf_free (v : Nat) (w : Bool) : (s.readHalf v w).free = s.free := by simp [State.readHalf]
@[simp] theorem readHalf_fuses (v : Nat) (w : Bool) : (s.readHalf v w).fuses = s.fuses := by simp [State.readHalf]
@[simp] theorem readHalf_flash (v : Nat) (w : Bool) : (s.readHalf v w).flash = s.flash := by simp [State.readHalf]
@[simp] theorem readHalf_clock (v : Nat) (w : Bool) : (s.readHalf v w).clock = s.clock := by simp [State.readHalf]
@[simp] theorem readHalf_dev (v : Nat) (w : Bool) : (s.readHalf v w).dev = s.dev := by simp [State.readHalf]
@[simp] theorem readHalf_host (v : Nat) (w : Bool) : (s.readHalf v w).host = s.host := by simp [State.readHalf]
@[simp] theorem readHalf_mbox (v : Nat) (w : Bool) : (s.readHalf v w).mbox = s.mbox := by simp [State.readHalf]
@[simp] theorem readHalf_doorbells (v : Nat) (w : Bool) : (s.readHalf v w).doorbells = s.doorbells := by simp [State.readHalf]
@[simp] theorem readHalf_err (v : Nat) (w : Bool) : (s.readHalf v w).err = s.err := by simp [State.readHalf]
@[simp] theorem readHalf_mem (v : Nat) (w : Bool) : (s.readHalf v w).mem = s.mem := by simp [State.readHalf]
@[simp] theorem readHalf_poison (v : Nat) (w : Bool) : (s.readHalf v w).poison = s.poison := by simp [State.readHalf]
@[simp] theorem readHalf_wall (v : Nat) (w : Bool) : (s.readHalf v w).wall = s.wall := by simp [State.readHalf]
@[simp] theorem readHalf_pool (v : Nat) (w : Bool) : (s.readHalf v w).pool = s.pool := by simp [State.readHalf]
@[simp] theorem readHalf_tensors (v : Nat) (w : Bool) : (s.readHalf v w).tensors = s.tensors := by simp [State.readHalf]
@[simp] theorem readHalf_reels (v : Nat) (w : Bool) : (s.readHalf v w).reels = s.reels := by simp [State.readHalf]
@[simp] theorem readHalf_streams (v : Nat) (w : Bool) : (s.readHalf v w).streams = s.streams := by simp [State.readHalf]
@[simp] theorem readHalf_opens (v : Nat) (w : Bool) : (s.readHalf v w).opens = s.opens := by simp [State.readHalf]
@[simp] theorem readHalf_arr (v : Nat) (w : Bool) : (s.readHalf v w).arr = s.arr := by simp [State.readHalf]
@[simp] theorem readHalf_seq (v : Nat) (w : Bool) : (s.readHalf v w).seq = s.seq := by simp [State.readHalf]
@[simp] theorem readHalf_dailies (v : Nat) (w : Bool) : (s.readHalf v w).dailies = s.dailies := by simp [State.readHalf]
@[simp] theorem readHalf_bench (v : Nat) (w : Bool) : (s.readHalf v w).bench = s.bench := by simp [State.readHalf]
@[simp] theorem readHalf_units (v : Nat) (w : Bool) : (s.readHalf v w).units = s.units := by simp [State.readHalf]
@[simp] theorem readHalf_motion (v : Nat) (w : Bool) : (s.readHalf v w).motion = s.motion := by simp [State.readHalf]
@[simp] theorem readHalf_chk (v : Nat) (w : Bool) : (s.readHalf v w).chk = s.chk := by simp [State.readHalf]
@[simp] theorem readHalf_ovl (v : Nat) (w : Bool) : (s.readHalf v w).ovl = s.ovl := by simp [State.readHalf]
@[simp] theorem readHalf_gates (v : Nat) (w : Bool) : (s.readHalf v w).gates = s.gates := by simp [State.readHalf]
@[simp] theorem readHalf_ports (v : Nat) (w : Bool) : (s.readHalf v w).ports = s.ports := by simp [State.readHalf]
@[simp] theorem readHalf_set (v : Nat) (w : Bool) : (s.readHalf v w).set = s.set := by simp [State.readHalf]
@[simp] theorem readHalf_fw (v : Nat) (w : Bool) : (s.readHalf v w).fw = s.fw := by simp [State.readHalf]
@[simp] theorem readHalf_inputs (v : Nat) (w : Bool) : (s.readHalf v w).inputs = s.inputs := by simp [State.readHalf]
@[simp] theorem readHalf_board (v : Nat) (w : Bool) : (s.readHalf v w).board = s.board := by simp [State.readHalf]
@[simp] theorem readHalf_tags (v : Nat) (w : Bool) : (s.readHalf v w).tags = s.tags := by simp [State.readHalf]
@[simp] theorem readHalf_jtag (v : Nat) (w : Bool) : (s.readHalf v w).jtag = s.jtag := by simp [State.readHalf]

/-! ### More exactly -/

/-- The event ring's indices are all of the DEVICE block that an event changes. -/
theorem postDevice_dev (c d f : Nat) (p : List Int) :
    ∃ r, (s.postDevice c d f p).dev = { s.dev with ring := r } := by
  simp only [State.postDevice]
  (repeat' split)
  · exact ⟨s.dev.ring, rfl⟩
  · exact ⟨_, rfl⟩
  · exact ⟨_, by simp only [raise_dev]; rfl⟩

/-- An answer: the response stands in the channel, which is DONE. -/
theorem respond_channel {c : Nat} (st d : Nat) (b : List Byte) (h : c < 16) :
    (s.respond c st d b).chanBytes c =
      patch (s.chanBytes c) 0 (slice (responseHeader (s.chanBytes c) st d ++ b) 0
        (64 * responseUnits (msgOpcode (s.chanBytes c)))) := by
  have e : ∀ t : State, ∀ v, (t.raise v).chanBytes c = t.chanBytes c := fun t v => by
    simp [State.chanBytes]
  unfold State.respond
  rw [e]
  simp [State.chanBytes, State.setChan, h]

end Laws
end Sys2Proof.Machine
end

