-- ==== Sys2Proof/Laws/Mail.lean ====
section
/-!
SUPPORT. The mailbox and the host's accesses: what `mboxRun` does with a message that firmware begins, what an answer leaves,
and an access violation that meets a free slot.
-/
namespace Sys2Proof.Machine
namespace Laws

variable {s : State}

/-- A fold keeps what each of its steps keeps. -/
theorem foldl_keeps {α β γ : Type} (f : β → α → β) (g : β → γ) (h : ∀ b a, g (f b a) = g b) (l : List α) (b : β) :
    g (l.foldl f b) = g b := by
  induction l generalizing b with
  | nil => rfl
  | cons a l ih => rw [List.foldl_cons, ih, h]

/-- A fold keeps a property that each of its steps keeps. -/
theorem foldl_inv {α β : Type} (f : β → α → β) (p : β → Prop) (h : ∀ b a, p b → p (f b a)) (l : List α) (b : β)
    (hb : p b) : p (l.foldl f b) := by
  induction l generalizing b with
  | nil => exact hb
  | cons a l ih => exact ih _ (h b a hb)

theorem hostThere_up (h : s.hostUp) (f : State → State) : s.hostThere f = .next (f s.fresh) := by
  obtain ⟨h1, h2⟩ := h
  simp [State.hostThere, h1, h2]

/-- A message that firmware begins is carried out on the state without it in mailbox order. -/
theorem mboxRun_begins {op c : Nat} (h : s.Begins op c) (run : State → Nat → List Byte → State) :
    s.fresh.mboxRun op run = run s.taken c (s.chanBytes c) := by
  obtain ⟨hn, hc, hr, hp, hw, hk, ho, hs, hf⟩ := h
  obtain ⟨l, hl⟩ : ∃ l, s.mbox.order = c :: l := by
    cases hm : s.mbox.order with
    | nil => simp [hm] at hn
    | cons x l => exact ⟨l, by simp [hm] at hn; rw [hn]⟩
  have e1 : s.fresh.chanBytes c = s.chanBytes c := rfl
  have e2 : s.fresh.waiting? Waits.isSwitch = none := hw
  have e3 : s.fresh.namesPending (s.chanBytes c) = false := hf
  simp only [State.mboxRun, fresh_mbox, hl, fresh_dev, hp, if_false, e1, e2, e3, hr, hk, ho, hs, Option.isSome_none]
  simp [State.taken]

@[simp] theorem respond_mbox_order (c st d : Nat) (b : List Byte) : (s.respond c st d b).mbox.order = s.mbox.order := by
  simp only [State.respond, raise_mbox, State.setChan]
  split <;> rfl

@[simp] theorem respond_mbox_deferred (c st d : Nat) (b : List Byte) :
    (s.respond c st d b).mbox.deferred = s.mbox.deferred := by
  simp only [State.respond, raise_mbox, State.setChan]
  split <;> rfl

@[simp] theorem setChan_dev' (c : Nat) (b : List Byte) : (s.setChan c b).dev = s.dev := setChan_dev s c b

/-- The DEVICE block after an answer. -/
theorem respond_dev (c st d : Nat) (b : List Byte) : (s.respond c st d b).dev =
    { s.dev with mboxBusy := s.dev.mboxBusy &&& ~~~ chanBit c, mboxDone := s.dev.mboxDone ||| chanBit c } := by
  simp only [State.respond, raise_dev, setChan_dev]
  rfl

theorem respond_completed (c st d : Nat) (b : List Byte) :
    (s.respond c st d b).out.completed = s.out.completed ++ [c] := by
  have e : (s.setChan c (patch (s.chanBytes c) 0 (slice (responseHeader (s.chanBytes c) st d ++ b) 0
      (64 * responseUnits (msgOpcode (s.chanBytes c)))))).out = s.out := setChan_out _ _ _
  simp only [State.respond, State.raise]
  split <;> simp

theorem respond_chanBytes_ne {t : State} {c k : Nat} (st d : Nat) (b : List Byte) (hk : k ≠ c) :
    (t.respond c st d b).chanBytes k = t.chanBytes k := by
  simp only [State.respond, State.chanBytes, raise_mbox]
  exact setChan_chanBytes_ne _ _ (Ne.symm hk)

theorem raise_host (v : Nat) : (s.raise v).host = { s.host with pend := (s.raise v).host.pend } := by
  simp only [State.raise]; split <;> rfl

theorem respond_host {t : State} (c st d : Nat) (b : List Byte) :
    (t.respond c st d b).host = { t.host with pend := (t.respond c st d b).host.pend } := by
  simp only [State.respond]
  rw [raise_host]
  simp

/-- The answer to a message that firmware has taken, on a state in which its channel and the mailbox registers stand as they
did. -/
theorem answered_of_respond {t : State} {c : Nat} (st d : Nat) (b : List Byte) (hc : c < 16)
    (hch : ∀ k, t.chanBytes k = s.chanBytes k) (hd : t.dev = s.dev) (ho : t.mbox.order = s.mbox.order.drop 1)
    (hw : t.mbox.deferred = s.mbox.deferred) (hh : t.host = s.host) : s.Answered (t.respond c st d b) c st d b where
  response := by rw [respond_channel t st d b hc, hch]
  busy := by rw [respond_dev, hd]
  done := by rw [respond_dev, hd]
  order := by simp [ho]
  deferred := by simp [hw]
  others := by intro k hk; rw [respond_chanBytes_ne _ _ _ hk, hch]
  regs := by rw [respond_dev, hd]
  pend := by rw [respond_host, hh]

@[simp] theorem taken_chanBytes (c : Nat) : s.taken.chanBytes c = s.chanBytes c := rfl
@[simp] theorem taken_dev : s.taken.dev = s.dev := rfl
@[simp] theorem taken_order : s.taken.mbox.order = s.mbox.order.drop 1 := rfl
@[simp] theorem taken_deferred : s.taken.mbox.deferred = s.mbox.deferred := rfl
@[simp] theorem taken_out : s.taken.out = Out.none := rfl

/-! ### Errors that meet a free slot -/

theorem setErrStatus_err (b : Word32) : (s.setErrStatus b).err = { s.err with status := s.err.status ||| b } := by
  simp only [State.setErrStatus]
  split <;> simp

theorem setErrStatus_data (b : Word32) : (s.setErrStatus b).out.data = s.out.data := by
  simp only [State.setErrStatus, State.raise]
  (repeat' split) <;> rfl

/-- An error whose slot is free: held, logged with the cause's own action, ERR_STATUS bit of the level (R488, R489). -/
theorem detectAs_free {c : Cause} {u act : Nat} {st : Option Nat} {h : HeldUntil} {sl : Slot}
    (hs : causeSlot c u = some sl) (hf : s.slotHeld sl = false) :
    s.detectAs c u act st h = (((s.holdSlot sl c u h).logAt (errorIsland c u (slotLevel sl) (slotUnit sl)) (slotLevel sl) (slotUnit sl) false (act == 9) act c st
      none).setErrStatus (levelBit sl)).spend := by
  simp [State.detectAs, hs, State.enterSlot, hf]

/-- An access violation of a region whose slot is free. -/
theorem accessViolation_free (b : Word32) (k : Nat) (h : s.regionFree k) :
    let t := s.accessViolation k b
    t.slotHeld (.region k) = true ∧ t.err.status = s.err.status ||| 4 ||| b ∧ t.out.data = s.out.data ∧
    t = { s with free := t.free, err := t.err, out := t.out, host := t.host } := by
  have e := detectAs_free (s := s) (c := .accessViolation) (u := k) (act := causeAction .accessViolation) (st := none)
    (h := .response s.responseEnd) (sl := .region k) rfl h
  simp only [State.accessViolation, State.detectBrief, State.detect]
  rw [e]
  refine ⟨?_, ?_, ?_, ?_⟩
  · simp [State.slotHeld, setErrStatus_err, State.logAt, State.holdSlot, HeldSlot.live, State.responseEnd, State.spend]
    left; omega
  · simp [setErrStatus_err, State.logAt, State.holdSlot, levelBit, slotLevel, State.spend]
  · rw [setErrStatus_data]
    simp only [spend_out]
    rw [setErrStatus_data]
    rfl
  · apply state_ext <;> simp [State.holdSlot]

end Laws
end Sys2Proof.Machine
end

