-- ==== Sys2Proof/Laws/Frames.lean ====
section
/-!
SUPPORT. Frames of the shared operations, whole: the state after each is the state before it but for the fields named, which
`congrArg State.field` gives one by one.
-/
namespace Sys2Proof.Machine

/-- Two states with the same fields are the same. -/
theorem State.same {s t : State}
    (h0 : s.pending = t.pending) (h1 : s.free = t.free) (h2 : s.out = t.out) (h3 : s.fuses = t.fuses) (h4 : s.flash = t.flash)
    (h5 : s.clock = t.clock)
    (h6 : s.dev = t.dev) (h7 : s.host = t.host) (h8 : s.mbox = t.mbox) (h9 : s.doorbells = t.doorbells) (h10 : s.err = t.err) (h11 : s.mem = t.mem)
    (h12 : s.poison = t.poison) (h13 : s.wall = t.wall) (h14 : s.pool = t.pool) (h15 : s.tensors = t.tensors) (h16 : s.reels = t.reels)
    (h17 : s.streams = t.streams)
    (h18 : s.opens = t.opens) (h19 : s.arr = t.arr) (h20 : s.seq = t.seq) (h21 : s.dailies = t.dailies) (h22 : s.bench = t.bench)
    (h23 : s.units = t.units)
    (h24 : s.motion = t.motion) (h25 : s.chk = t.chk) (h26 : s.ovl = t.ovl) (h27 : s.gates = t.gates) (h28 : s.ports = t.ports) (h29 : s.set = t.set)
    (h30 : s.fw = t.fw) (h31 : s.inputs = t.inputs) (h32 : s.board = t.board) (h33 : s.tags = t.tags) (h34 : s.jtag = t.jtag) : s = t := by
  cases s; cases t
  simp only at *
  subst_vars
  rfl

namespace Laws

variable (s : State)

theorem updWork_frame (t : TileRef) (f : TileWork → TileWork) :
    s.updWork t f = { s with streams := (s.updWork t f).streams } := by
  apply State.same <;> simp [State.updWork]

theorem setRowBins_frame (r : RowBins) :
    s.setRowBins r = { s with ovl := (s.setRowBins r).ovl } := rfl

theorem dropArray_frame :
    s.dropArray = { s with chk := s.dropArray.chk } := rfl

theorem setPair_frame (p : Pair) :
    s.setPair p = { s with motion := (s.setPair p).motion } := rfl

theorem laneServed_frame (st : Nat) :
    s.laneServed st = { s with motion := (s.laneServed st).motion } := by
  simp only [State.laneServed]
  (repeat' split) <;> rfl

theorem setInput_frame (x : Input) :
    s.setInput x = { s with inputs := (s.setInput x).inputs } := rfl

theorem dropTag_frame (t : Nat) :
    s.dropTag t = { s with set := (s.dropTag t).set, tags := (s.dropTag t).tags } := rfl

theorem sendWrite_frame (region : Fin 9) (exchange : Option Nat) (dst a : Nat) (bs : List Byte) :
    s.sendWrite region exchange dst a bs = { s with set := (s.sendWrite region exchange dst a bs).set } := rfl

theorem takeAck_frame (p : Nat) (bs : List Byte) :
    s.takeAck p bs = { s with ports := (s.takeAck p bs).ports } := by
  apply State.same <;> simp [State.takeAck]

theorem askRetry_frame (p : Nat) :
    s.askRetry p = { s with ports := (s.askRetry p).ports } := by
  apply State.same <;> simp [State.askRetry]

theorem returnHeld_frame (p : Fin 6) :
    s.returnHeld p = { s with ports := (s.returnHeld p).ports } := by
  apply State.same <;> simp [State.returnHeld]

theorem sendFlit_frame (p : Nat) (flit : List Byte) :
    s.sendFlit p flit = { s with out := (s.sendFlit p flit).out, ports := (s.sendFlit p flit).ports } := by
  apply State.same <;> simp [State.sendFlit]

theorem sendData_frame (p : Nat) (rsp : Bool) :
    s.sendData p rsp = { s with out := (s.sendData p rsp).out, ports := (s.sendData p rsp).ports } := by
  apply State.same <;> simp [State.sendData, State.sendFlit]

theorem noteFetched_frame (f : Option Fetch) (data : List Byte) (bad : Bool) :
    s.noteFetched f data bad = { s with set := (s.noteFetched f data bad).set } := by
  cases f <;> rfl

theorem failTag_frame (t : Nat) :
    s.failTag t = { s with set := (s.failTag t).set, tags := (s.failTag t).tags } := by
  simp only [State.failTag]
  rw [dropTag_frame, noteFetched_frame]

theorem routePacket_frame (rsp : Bool) (bytes : List Byte) (tag : Option Nat) :
    (s.routePacket rsp bytes tag).1 = { s with ports := (s.routePacket rsp bytes tag).1.ports } := by
  apply State.same <;> simp only [State.routePacket] <;> (repeat' split) <;> simp

theorem readSlot_frame (slot : Nat) :
    s.readSlot slot = { s with mem := (s.readSlot slot).mem, poison := (s.readSlot slot).poison } := rfl

theorem sendSdp_frame (g : Nat) (ps : List Sdp) :
    s.sendSdp g ps = { s with out := (s.sendSdp g ps).out } := rfl

theorem sendPps_frame (g : Nat) (c : GateConfig) :
    s.sendPps g c = { s with out := (s.sendPps g c).out, gates := (s.sendPps g c).gates } := by
  apply State.same <;> simp only [State.sendPps, State.sendSdp] <;> (repeat' split) <;> simp

theorem startEffects_frame (g : Nat) :
    s.startEffects g = { s with out := (s.startEffects g).out, gates := (s.startEffects g).gates } := by
  apply State.same <;> simp only [State.startEffects, State.sendPps, State.sendSdp] <;> (repeat' split) <;> simp

theorem gateEvent_frame (g bit : Nat) (payload : List Int) :
    s.gateEvent g bit payload = { s with
      out := (s.gateEvent g bit payload).out, dev := (s.gateEvent g bit payload).dev, host := (s.gateEvent g bit payload).host,
      mem := (s.gateEvent g bit payload).mem, poison := (s.gateEvent g bit payload).poison,
      streams := (s.gateEvent g bit payload).streams, gates := (s.gateEvent g bit payload).gates } := by
  apply State.same <;> simp only [State.gateEvent] <;> (repeat' split) <;> simp

theorem dropHeld_frame (mine : TileRef → Bool) :
    s.dropHeld mine = { s with pool := (s.dropHeld mine).pool, bench := (s.dropHeld mine).bench } := rfl

theorem putBench_frame (h : HeldTensor) :
    s.putBench h = { s with bench := (s.putBench h).bench } := rfl

theorem writeRecord_frame (st plane i : Nat) (r : Record) :
    s.writeRecord st plane i r = { s with mem := (s.writeRecord st plane i r).mem, poison := (s.writeRecord st plane i r).poison } := rfl

theorem markRecord_frame (st half t bit : Nat) :
    s.markRecord st half t bit = { s with mem := (s.markRecord st half t bit).mem, poison := (s.markRecord st half t bit).poison } := rfl

theorem setTileRecord_frame (st half t v : Nat) :
    s.setTileRecord st half t v = { s with mem := (s.setTileRecord st half t v).mem, poison := (s.setTileRecord st half t v).poison } := rfl

theorem trimOverlay_frame (st : Nat) :
    s.trimOverlay st = { s with mem := (s.trimOverlay st).mem, poison := (s.trimOverlay st).poison } := rfl

theorem trimRushes_frame (st : Nat) :
    s.trimRushes st = { s with mem := (s.trimRushes st).mem, poison := (s.trimRushes st).poison } := rfl

theorem commandDone_frame (st : Nat) :
    s.commandDone st = { s with mem := (s.commandDone st).mem, poison := (s.commandDone st).poison, streams := (s.commandDone st).streams } := by
  apply State.same <;> simp [State.commandDone]

theorem dropOldKeys_frame (st : Nat) :
    s.dropOldKeys st = { s with mem := (s.dropOldKeys st).mem, poison := (s.dropOldKeys st).poison, streams := (s.dropOldKeys st).streams } := by
  apply State.same <;> simp only [State.dropOldKeys, State.trimRushes] <;> (repeat' split) <;> simp

theorem releaseRecords_frame (st : Nat) (f : Frame) (tiles : List Nat) :
    s.releaseRecords st f tiles = { s with chk := (s.releaseRecords st f tiles).chk } := rfl

theorem writeService_frame :
    s.writeService = { s with flash := s.writeService.flash } := by
  simp only [State.writeService]
  (repeat' split) <;> rfl

theorem markRow_frame (f : RowFinding) (scrub : Bool) :
    s.markRow f scrub = { s with units := (s.markRow f scrub).units } := rfl

theorem releaseSafe_frame :
    s.releaseSafe = { s with
      out := s.releaseSafe.out, dev := s.releaseSafe.dev, host := s.releaseSafe.host, mem := s.releaseSafe.mem,
      poison := s.releaseSafe.poison, streams := s.releaseSafe.streams, chk := s.releaseSafe.chk } := by
  apply State.same <;> simp [State.releaseSafe, State.checkerEvent]

theorem spiError_frame :
    s.spiError = { s with out := s.spiError.out, chk := s.spiError.chk } := rfl

theorem resetGate_frame (g : Nat) (c : Option GateConfig) :
    s.resetGate g c = { s with chk := (s.resetGate g c).chk, gates := (s.resetGate g c).gates } := by
  apply State.same <;> simp [State.resetGate]

theorem advanceTo_frame (t : Nat) :
    s.advanceTo t = { s with clock := (s.advanceTo t).clock } := by
  simp only [State.advanceTo]
  (repeat' split) <;> rfl

theorem readbackTile_frame (d : Decisions) (rec_ : List Byte) :
    s.readbackTile d rec_ = { s with chk := (s.readbackTile d rec_).chk } := rfl

theorem addCounts_frame (c : TileRef × Nat × Nat × Nat) :
    s.addCounts c = { s with streams := (s.addCounts c).streams } := by
  apply State.same <;> simp [State.addCounts]

/-! ### The crossing to the checker -/

/-- Filling the crossing changes the checker alone. -/
theorem fillFabricBy_frame (n : Nat) : s.fillFabricBy n = { s with chk := (s.fillFabricBy n).chk } := by
  induction n generalizing s with
  | zero => rfl
  | succ n ih =>
    rw [State.fillFabricBy]
    split
    · rfl
    · split
      · rfl
      · rename_i h
        simp only [State.ontoFabric] at h
        rw [ih]
        (repeat' split at h) <;> first | (cases h; rfl) | cases h

theorem fillFabric_frame : s.fillFabric = { s with chk := s.fillFabric.chk } := fillFabricBy_frame s _

theorem dropFabric_frame : s.dropFabric = { s with chk := s.dropFabric.chk } := by
  unfold State.dropFabric
  rw [fillFabric_frame]

theorem sendFabric_frame (bs : List Byte) (kind : Nat) :
    s.sendFabric bs kind = { s with chk := (s.sendFabric bs kind).chk } := by
  simp only [State.sendFabric, State.ontoFabric]
  (repeat' split) <;> simp_all
  rename_i h
  (repeat' split at h) <;> first | (cases h; rfl) | cases h

/-! ### Answers of deferred messages -/

theorem completeDeferred_frame (p : Waits → Bool) (status : Nat) (body : List Byte) :
    s.completeDeferred p status body = { s with
      mbox := (s.completeDeferred p status body).mbox, dev := (s.completeDeferred p status body).dev,
      out := (s.completeDeferred p status body).out, host := (s.completeDeferred p status body).host } := by
  apply State.same <;> first
    | rfl
    | exact foldl_keeps (fun (t : State) (d : Deferred) => t.respond d.chan status 0 body) _ (fun t d => by simp) _ _

theorem completeStage_frame (n : Nat) :
    s.completeStage n = { s with
      fw := (s.completeStage n).fw, mbox := (s.completeStage n).mbox, dev := (s.completeStage n).dev, out := (s.completeStage n).out,
      host := (s.completeStage n).host } := by
  simp only [State.completeStage]
  (repeat' split) <;> first | rfl | (rw [completeDeferred_frame])

/-! ### Writes to memory -/

/-- A write that may fall on an operand in the benches. -/
theorem storeBytes_frame (a : Nat) (bs : List Byte) :
    s.storeBytes a bs = { s with
      mem := (s.writeBytes a bs).mem, poison := (s.writeBytes a bs).poison, bench := (s.storeBytes a bs).bench,
      arr := (s.storeBytes a bs).arr } := by
  apply State.same <;> simp [State.storeBytes]

theorem copyBytes_frame (src dst n : Nat) :
    s.copyBytes src dst n = { s with
      mem := (s.copyBytes src dst n).mem, poison := (s.copyBytes src dst n).poison, bench := (s.copyBytes src dst n).bench,
      arr := (s.copyBytes src dst n).arr } := by
  apply State.same <;> first
    | rfl
    | exact (foldl_keeps (fun (t : State) i => t.poisonRange (dst + 32 * i) (min 32 (n - 32 * i))) _ (fun _ _ => rfl) _ _).trans
        (by simp [State.storeBytes])

/-- The work of an engine on memory, where the firewall passes its accesses (R486). -/
theorem screen_passes (who : Requester) (rs ws : List (Nat × Nat)) (f : State → State) (h : s.passes who rs ws = true) :
    s.screen who rs ws f = f s := by simp [State.screen, h]

theorem screen_fails (who : Requester) (rs ws : List (Nat × Nat)) (f : State → State) (h : s.passes who rs ws = false) :
    s.screen who rs ws f = s.accessViolation (requesterRegion who) 0 := by simp [State.screen, h]

/-- A run of writes that each change memory alone changes memory alone. -/
theorem foldl_writes {α : Type} (f : State → α → State) (h : ∀ q a, f q a = { q with mem := (f q a).mem, poison := (f q a).poison })
    (l : List α) : l.foldl f s = { s with mem := (l.foldl f s).mem, poison := (l.foldl f s).poison } := by
  induction l generalizing s with
  | nil => rfl
  | cons a l ih => rw [List.foldl_cons, ih (f s a), h s a]

theorem writeTile_frame (base tiles colour t : Nat) (px : List Nat) :
    s.writeTile base tiles colour t px = { s with
      mem := (s.writeTile base tiles colour t px).mem, poison := (s.writeTile base tiles colour t px).poison } :=
  foldl_writes s _ (fun q i => by apply State.same <;> simp [State.writeBlock]) _

theorem writeTile_canonical (base tiles colour t : Nat) (px : List Nat) (h : s.memoryCanonical = true) :
    (s.writeTile base tiles colour t px).memoryCanonical = true :=
  foldl_inv _ (fun q : State => q.memoryCanonical = true)
    (fun q _ hq => writeBytes_canonical _ _ _ (writeBytes_canonical q _ _ hq)) _ _ h

theorem copyBytes_canonical (src dst n : Nat) (h : s.memoryCanonical = true) : (s.copyBytes src dst n).memoryCanonical = true := by
  let f (t : State) (i : Nat) : State := t.poisonRange (dst + 32 * i) (min 32 (n - 32 * i))
  have e := writeBytes_canonical s dst (s.readBytes src n) h
  rw [show (s.writeBytes dst (s.readBytes src n)).memoryCanonical = (s.storeBytes dst (s.readBytes src n)).memoryCanonical from rfl] at e
  rwa [← canonical_congr (foldl_keeps f State.mem (fun _ _ => rfl) _ _) (foldl_keeps f State.flash (fun _ _ => rfl) _ _)] at e

theorem setTileRecord_canonical (st half t v : Nat) (h : s.memoryCanonical = true) :
    (s.setTileRecord st half t v).memoryCanonical = true := writeBytes_canonical s _ _ h

theorem writeRecord_canonical (st plane i : Nat) (r : Record) (h : s.memoryCanonical = true) :
    (s.writeRecord st plane i r).memoryCanonical = true := writeBytes_canonical s _ _ h

theorem readSlot_canonical (slot : Nat) (h : s.memoryCanonical = true) : (s.readSlot slot).memoryCanonical = true :=
  writeBytes_canonical s _ _ h

/-! ### Packets of the set -/

/-- An answer goes to a port, or waits for its credit. -/
theorem sendAnswer_frame (bs : List Byte) :
    s.sendAnswer bs = { s with ports := (s.sendAnswer bs).ports, set := (s.sendAnswer bs).set } := by
  simp only [State.sendAnswer]
  split
  · rw [routePacket_frame]
  · rfl

/-- An answer to a request of this chip raises its error, one to another member's goes to a port or waits for its credit. -/
theorem errorResponse_frame (h : List Byte) (code : Nat) :
    s.errorResponse h code = { s with
      out := (s.errorResponse h code).out, ports := (s.errorResponse h code).ports, set := (s.errorResponse h code).set } := by
  simp only [State.errorResponse]
  split
  · rfl
  · rw [sendAnswer_frame]

/-- The host island's reset changes the host's side, the DEVICE block and the slot of its event. -/
theorem hostReset_frame :
    s.hostReset = { s with
      host := s.hostReset.host, dev := s.hostReset.dev, out := s.hostReset.out, mem := s.hostReset.mem, poison := s.hostReset.poison } := by
  apply State.same <;> simp only [State.hostReset] <;> (repeat' split) <;> simp

/-- A write of a base register, the power state, MSI-X enable or the size of BAR 2 changes the host's side, the DEVICE block and the
messages sent; a Function Level Reset that it asks for, what `hostReset` changes. -/
theorem configWrite_frame (o v : Nat) :
    s.configWrite o v = { s with
      host := (s.configWrite o v).host, dev := (s.configWrite o v).dev, out := (s.configWrite o v).out, mem := (s.configWrite o v).mem,
      poison := (s.configWrite o v).poison } := by
  simp only [State.configWrite]
  (repeat' split) <;> first | rfl | (simp only [State.resizeBar2]; split <;> rfl) | (rw [hostReset_frame])

end Laws
end Sys2Proof.Machine
end

