-- ==== Sys2Proof/Laws/Pool.lean ====
section
/-!
SUPPORT. What an allocation from the pool does, said once: the place it answers is free, and there is one when the pool has
room enough for every way of placing what is already there (log 11).
-/
namespace Sys2Proof.Machine

/-- What `leastWith` answers satisfies the test and stands in the list. -/
theorem leastWith_some (ok : Nat → Bool) (xs : List Nat) (b : Nat) (h : leastWith ok xs = some b) : ok b = true ∧ b ∈ xs := by
  have gen : ∀ (ys : List Nat) (best : Option Nat), (∀ c, best = some c → ok c = true ∧ c ∈ xs) → (∀ y ∈ ys, y ∈ xs) →
      ∀ c, ys.foldl (fun best x => if ok x then (match best with
        | none => some x
        | some b => some (min b x)) else best) best = some c → ok c = true ∧ c ∈ xs := by
    intro ys
    induction ys with
    | nil => intro best hb _ c hc; exact hb c hc
    | cons y ys ih =>
      intro best hb hm c hc
      refine ih _ ?_ (fun z hz => hm z (List.mem_cons_of_mem _ hz)) c hc
      intro d hd
      beta_reduce at hd
      split at hd
      · rename_i hy
        have my := hm y (List.mem_cons_self ..)
        cases best with
        | none => cases hd; exact ⟨hy, my⟩
        | some e =>
          obtain ⟨he, me⟩ := hb e rfl
          simp only [Option.some.injEq] at hd
          rcases Nat.le_total e y with l | l
          · rw [Nat.min_eq_left l] at hd; subst hd; exact ⟨he, me⟩
          · rw [Nat.min_eq_right l] at hd; subst hd; exact ⟨hy, my⟩
      · exact hb d hd
  exact gen xs none (by intro c hc; cases hc) (fun _ h => h) b h

/-- It answers one when some member satisfies the test. -/
theorem leastWith_isSome (ok : Nat → Bool) (xs : List Nat) (x : Nat) (hx : x ∈ xs) (h : ok x = true) :
    (leastWith ok xs).isSome := by
  have keep : ∀ (ys : List Nat) (best : Option Nat), (best.isSome ∨ ∃ y ∈ ys, ok y = true) →
      (ys.foldl (fun best x => if ok x then (match best with
        | none => some x
        | some b => some (min b x)) else best) best).isSome := by
    intro ys
    induction ys with
    | nil => rintro best (hb | ⟨y, hy, _⟩); exacts [hb, absurd hy (List.not_mem_nil)]
    | cons y ys ih =>
      intro best hb
      refine ih _ ?_
      by_cases hy : ok y = true
      · left; simp only [hy, if_true]; cases best <;> rfl
      · rcases hb with hb | ⟨z, hz, ok_z⟩
        · left; simpa [hy] using hb
        · rcases List.mem_cons.1 hz with rfl | hz
          · exact absurd ok_z hy
          · exact Or.inr ⟨z, hz, ok_z⟩
  exact keep xs none (.inr ⟨x, hx, h⟩)

/-- A place that the pool answers is free. -/
theorem Pool.place_fits (p : Pool) (g : Grade) (hint len b : Nat) (h : p.place g hint len = some b) : p.fits g b len = true := by
  unfold Pool.place at h
  dsimp only at h
  split at h
  · next hf => cases h; exact hf
  · exact (leastWith_some _ _ _ h).1

theorem roundUp_unit_bounds (a : Nat) : a ≤ roundUp a Config.poolUnit ∧ roundUp a Config.poolUnit < a + Config.poolUnit ∧
    roundUp a Config.poolUnit % Config.poolUnit = 0 := by
  simp only [roundUp, Config.poolUnit]
  norm_num
  omega

/-- The pool has a place when what is taken, each range with the asked length and a unit beside it, leaves room. -/
theorem Pool.place_isSome (p : Pool) (g : Grade) (hint len : Nat)
    (h : (p.taken.map fun t => t.2 + len + Config.poolUnit).sum + len ≤ Config.firmwareBase g) : (p.place g hint len).isSome := by
  unfold Pool.place
  dsimp only
  split
  · rfl
  · suffices ∀ (n : Nat) (rest : List (Nat × Nat)), rest.length = n → ∀ x,
        x ∈ 0 :: p.taken.map (fun t => roundUp (t.1 + t.2) Config.poolUnit) → x % Config.poolUnit = 0 →
        (∀ t ∈ p.taken, t ∈ rest ∨ t.1 + t.2 ≤ x) →
        x + (rest.map fun t => t.2 + len + Config.poolUnit).sum + len ≤ Config.firmwareBase g →
        ∃ y ∈ 0 :: p.taken.map (fun t => roundUp (t.1 + t.2) Config.poolUnit), p.fits g y len = true by
      obtain ⟨y, hy, ok⟩ := this _ p.taken rfl 0 (List.mem_cons_self ..) (Nat.zero_mod _) (fun t ht => .inl ht) (by omega)
      exact leastWith_isSome _ _ y hy ok
    intro n
    induction n with
    | zero =>
      intro rest hr x hx hm ht hb
      have : rest = [] := List.length_eq_zero_iff.1 hr
      subst this
      refine ⟨x, hx, ?_⟩
      simp only [Pool.fits, Bool.and_eq_true, decide_eq_true_eq, List.all_eq_true, Bool.or_eq_true, beq_iff_eq]
      simp only [List.map_nil, List.sum_nil] at hb
      exact ⟨⟨by omega, hm⟩, fun t m => .inl ((ht t m).resolve_left (List.not_mem_nil))⟩
    | succ n ih =>
      intro rest hr x hx hm ht hb
      by_cases hf : p.fits g x len = true
      · exact ⟨x, hx, hf⟩
      · have hl : x + len ≤ Config.firmwareBase g := by omega
        have : ∃ t ∈ p.taken, x < t.1 + t.2 ∧ t.1 < x + len := by
          by_contra hc
          push Not at hc
          refine hf ?_
          simp only [Pool.fits, Bool.and_eq_true, decide_eq_true_eq, List.all_eq_true, Bool.or_eq_true, beq_iff_eq]
          refine ⟨⟨hl, hm⟩, fun t m => ?_⟩
          rcases Nat.lt_or_ge x (t.1 + t.2) with q | q
          · exact .inr (hc t m q)
          · exact .inl q
        obtain ⟨t, m, q1, q2⟩ := this
        have mr : t ∈ rest := (ht t m).resolve_right (by omega)
        obtain ⟨r1, r2, r3⟩ := roundUp_unit_bounds (t.1 + t.2)
        have hs := List.sum_map_erase (fun t : Nat × Nat => t.2 + len + Config.poolUnit) mr
        refine ih (@List.erase _ instBEqOfDecidableEq rest t) (by rw [@List.length_erase_of_mem _ instBEqOfDecidableEq _ _ _ mr, hr]; rfl) (roundUp (t.1 + t.2) Config.poolUnit)
          (List.mem_cons_of_mem _ (List.mem_map.2 ⟨t, m, rfl⟩)) r3 ?_ (by omega)
        intro u mu
        by_cases e : u = t
        · subst e; exact .inr r1
        · rcases ht u mu with w | w
          · exact .inl ((@List.mem_erase_of_ne _ instBEqOfDecidableEq _ _ _ _ e).2 w)
          · right; omega

/-- An allocation takes a free place for its owner and changes the pool's list of allocations alone. -/
theorem State.alloc_some (s t : State) (len b : Nat) (o : Owner) (h : s.alloc len o = some (t, b)) :
    s.pool.fits s.fuses.grade b (roundUp (max len 1) Config.poolUnit) = true ∧
    t = { s.spend with pool := { s.pool with allocs := ⟨b, roundUp (max len 1) Config.poolUnit, o⟩ :: s.pool.allocs } } := by
  unfold State.alloc at h
  dsimp only at h
  split at h
  · cases h
  · next b' hb => cases h; exact ⟨Pool.place_fits _ _ _ _ _ hb, rfl⟩

/-! ## Room for a stream -/

/-- At most `k` ranges are taken, none longer than `cap`. -/
structure State.Room (s : State) (g : Grade) (cap k : Nat) : Prop where
  grade : s.fuses.grade = g
  count : s.pool.taken.length ≤ k
  short : ∀ t ∈ s.pool.taken, t.2 ≤ cap

theorem sum_le_of_cap (xs : List (Nat × Nat)) (f : Nat × Nat → Nat) (c : Nat) (h : ∀ t ∈ xs, f t ≤ c) :
    (xs.map f).sum ≤ xs.length * c := by
  induction xs with
  | nil => simp
  | cons x xs ih =>
    have := ih fun t m => h t (List.mem_cons_of_mem _ m)
    have := h x (List.mem_cons_self ..)
    simp only [List.map_cons, List.sum_cons, List.length_cons, Nat.succ_mul]
    omega

/-- With room for one more range of `cap` bytes an allocation of that size takes a place and leaves room for the next. -/
theorem State.alloc_room (s : State) (g : Grade) (cap k len : Nat) (o : Owner) (h : s.Room g cap k)
    (hl : roundUp (max len 1) Config.poolUnit ≤ cap) (hb : k * (2 * cap + Config.poolUnit) + cap ≤ Config.firmwareBase g) :
    ∃ t b, s.alloc len o = some (t, b) ∧ t.Room g cap (k + 1) := by
  have hp : (s.pool.place s.fuses.grade (Config.placeHint s.free) (roundUp (max len 1) Config.poolUnit)).isSome := by
    apply Pool.place_isSome
    rw [h.grade]
    have h1 := sum_le_of_cap s.pool.taken (fun t => t.2 + roundUp (max len 1) Config.poolUnit + Config.poolUnit)
      (2 * cap + Config.poolUnit) (fun t m => by have := h.short t m; omega)
    have h2 := Nat.mul_le_mul_right (2 * cap + Config.poolUnit) h.count
    omega
  obtain ⟨b, hb⟩ := Option.isSome_iff_exists.1 hp
  have e : s.alloc len o = some ({ s.spend with
      pool := { s.pool with allocs := ⟨b, roundUp (max len 1) Config.poolUnit, o⟩ :: s.pool.allocs } }, b) := by
    unfold State.alloc
    dsimp only
    rw [hb]
  refine ⟨_, b, e, h.grade, ?_, ?_⟩
  · have := h.count
    simp only [Pool.taken, List.map_cons, List.cons_append, List.length_cons] at this ⊢
    omega
  · intro t m
    simp only [Pool.taken, List.map_cons, List.cons_append, List.mem_cons] at m
    rcases m with rfl | m
    · exact hl
    · exact h.short t m

/-- What a state keeps of the pool's ranges. -/
theorem State.Room.keep {s t : State} {g : Grade} {cap k : Nat} (h : s.Room g cap k) (hf : t.fuses = s.fuses)
    (ha : t.pool.taken = s.pool.taken) : t.Room g cap k :=
  ⟨by rw [hf]; exact h.grade, by rw [ha]; exact h.count, by rw [ha]; exact h.short⟩

theorem State.Room.more {s : State} {g : Grade} {cap k j : Nat} (h : s.Room g cap k) (hk : k ≤ j) : s.Room g cap j :=
  ⟨h.grade, Nat.le_trans h.count hk, h.short⟩

theorem State.allocPart_room (s : State) (g : Grade) (cap k st q i len : Nat) (h : s.Room g cap k)
    (hl : roundUp (max len 1) Config.poolUnit ≤ cap) (hb : k * (2 * cap + Config.poolUnit) + cap ≤ Config.firmwareBase g) :
    ∃ t, s.allocPart st q i len = some t ∧ t.Room g cap (k + 1) := by
  obtain ⟨t, b, e, r⟩ := s.alloc_room g cap k len (.store st (8 * q + i)) h hl hb
  refine ⟨_, by rw [State.allocPart, e]; rfl, r.keep ?_ ?_⟩ <;> simp [State.openWindow, Pool.taken]

theorem State.allocRing_room (s : State) (g : Grade) (cap k st i entry depth tail : Nat) (h : s.Room g cap k)
    (hl : roundUp (max (roundUp (entry * 2 ^ depth) Config.poolUnit + tail) 1) Config.poolUnit ≤ cap)
    (hb : k * (2 * cap + Config.poolUnit) + cap ≤ Config.firmwareBase g) :
    ∃ t, s.allocRing st i entry depth tail = some t ∧ t.Room g cap (k + 1) := by
  obtain ⟨t, b, e, r⟩ := s.alloc_room g cap k _ (.ring st i) h hl hb
  refine ⟨_, by rw [State.allocRing, e]; rfl, ?_⟩
  dsimp only
  split <;> refine r.keep ?_ ?_ <;> simp [State.openWindow, State.initRing, Pool.taken]

/-- Allocations one after another, each with room. -/
theorem foldlM_room {α : Type} (g : Grade) (cap : Nat) (f : State → α → Option State) (xs : List α)
    (hf : ∀ x ∈ xs, ∀ s k, s.Room g cap k → k * (2 * cap + Config.poolUnit) + cap ≤ Config.firmwareBase g →
      ∃ t, f s x = some t ∧ t.Room g cap (k + 1)) :
    ∀ (s : State) (k : Nat), s.Room g cap k →
      (k + xs.length) * (2 * cap + Config.poolUnit) + cap ≤ Config.firmwareBase g →
      ∃ t, xs.foldlM f s = some t ∧ t.Room g cap (k + xs.length) := by
  induction xs with
  | nil => intro s k h _; exact ⟨s, rfl, h⟩
  | cons x xs ih =>
    intro s k h hb
    have m := Nat.mul_le_mul_right (2 * cap + Config.poolUnit) (show k ≤ k + (x :: xs).length by omega)
    obtain ⟨t, e, r⟩ := hf x (List.mem_cons_self ..) s k h (by omega)
    obtain ⟨u, e2, r2⟩ := ih (fun y my => hf y (List.mem_cons_of_mem _ my)) t (k + 1) r
      (by rw [show k + 1 + xs.length = k + (x :: xs).length by simp only [List.length_cons]; omega]; exact hb)
    refine ⟨u, ?_, r2.more (by simp only [List.length_cons]; omega)⟩
    rw [List.foldlM_cons, e]
    exact e2

/-- A stream without overlay area finds its store and rings in a pool with room for that many ranges of their size: check 8
of Table 2.8 does not turn it away. -/
theorem State.allocStream_isSome (s : State) (g : Grade) (cap k st : Nat) (p : StreamParams) (rings : List (Nat × Nat))
    (h : s.Room g cap k) (ho : p.overlayArea = 0) (hc : Config.poolUnit ≤ cap)
    (h1 : (p.storeParts.all fun q => decide (roundUp (max q.2.2 1) Config.poolUnit ≤ cap)) = true)
    (h2 : ((p.ringPlan rings).all fun q => decide (roundUp (max (roundUp (q.2.1 * 2 ^ q.2.2) Config.poolUnit +
      (if q.1 = 5 then p.mapTail else 0)) 1) Config.poolUnit ≤ cap)) = true)
    (hb : (k + 1 + p.storeParts.length + (p.ringPlan rings).length) * (2 * cap + Config.poolUnit) + cap ≤ Config.firmwareBase g) :
    (s.allocStream st p rings).isSome := by
  have hm : ∀ j, j ≤ k + 1 + p.storeParts.length + (p.ringPlan rings).length →
      j * (2 * cap + Config.poolUnit) + cap ≤ Config.firmwareBase g := fun j hj => by
    have := Nat.mul_le_mul_right (2 * cap + Config.poolUnit) hj
    omega
  obtain ⟨t, b, e, r⟩ := s.alloc_room g cap k 8192 (.ringTable st) h
    (Nat.le_trans (Nat.le_of_eq (by decide)) hc) (hm k (by omega))
  simp only [List.all_eq_true, decide_eq_true_eq] at h1 h2
  unfold State.allocStream
  rw [e]
  simp only [Option.bind_eq_bind, Option.bind_some, ho, if_true]
  obtain ⟨u, e2, r2⟩ := foldlM_room g cap (fun s (q : Nat × Nat × Nat) => s.allocPart st q.1 q.2.1 q.2.2) p.storeParts
    (by intro x mx s k hr hk; exact s.allocPart_room g cap k st x.1 x.2.1 x.2.2 hr (h1 x mx) hk)
    (((t.openWindow b Config.poolUnit false (.ringTable st)).writeBytes b (zeros 8192)).updStream st fun x =>
      { x with homes := { Homes.reset with ringTable := b, bytes := p.totalBytes rings } }) (k + 1)
    (r.keep (by simp [State.openWindow]) (by simp [State.openWindow, Pool.taken])) (hm _ (by omega))
  rw [e2]
  obtain ⟨v, e3, -⟩ := foldlM_room g cap (fun s (q : Nat × Nat × Nat) => s.allocRing st q.1 q.2.1 q.2.2 (if q.1 = 5 then p.mapTail else 0))
    (p.ringPlan rings)
    (by intro x mx s k hr hk; exact s.allocRing_room g cap k st x.1 x.2.1 x.2.2 _ hr (h2 x mx) hk)
    u _ r2 (hm _ (by omega))
  rw [Option.bind_some, e3]
  rfl

end Sys2Proof.Machine
end

