-- ==== Sys2Proof/Tests/Slice0.lean ====
section
/-!
SUPPORT. The author's own tests: ill-formed commands that WellFormed refuses, small checks against worked figures of the
manual, and for each statement a concrete state that meets its hypotheses, clause by clause.
-/
namespace Sys2Proof.Tests
set_option Elab.async false
open Sys2Proof Sys2Proof.Machine

/-! ## Helpers -/

/-- A chip at beat 1,000 with firmware running and one window that lets every requester everywhere. -/
def up : State := { State.reset with
  wall := { State.reset.wall with windows := [⟨0, 0xFF_FFFF, 0xFFFF, 0xFFFF⟩] },
  clock := { Clock.reset with running := true, clap := 500_000 },
  dev := { Device.reset with fwReady := true, fwPhase := 2 } }

/-- A chip whose firmware has been started. -/
def started : State := { State.reset with fw := { State.reset.fw with bootStep := 6 } }

/-- A message: opcode, request units, stream field and further fields by offset. -/
def msg (op units st : Nat) (fields : List (Nat × List Byte)) : List Byte :=
  fields.foldl (fun m f => patch m f.1 f.2) (leBytes 1 op ++ leBytes 1 units ++ leBytes 2 7 ++ leBytes 2 st ++ zeros 250)

/-- The message stands in channel 0, submitted. -/
def holding (s : State) (m : List Byte) : State :=
  { s with mbox := { s.mbox with chans := s.mbox.chans.set 0 m, order := [0] } }

def aTensor : TensorBuf := ⟨5, 0x1_0000, 64, 0x1_0000⟩

/-- A stream of 128 by 64 pixels at PASSTHROUGH, BATCH or DEADLINE. -/
def aParams (batch : Bool) : StreamParams := { StreamParams.reset with
  batch := batch, mode := .passthrough, outW := 128, outH := 64, renW := 128, renH := 64, n := 1, outRate := 60_000, leadRows := 4,
  overlayBeats := 8 }

def aStream (batch : Bool) : Stream := { Stream.reset with state := .running, p := aParams batch }

def with0 (s : State) (x : Stream) : State := s.updStream 0 fun _ => x

def anEntry (id beat : Nat) : Entry := ⟨id, false, [⟨0, 0, 0⟩], 9, 0, 0, .whole, true, false, 100, 100, [], [], beat, [], [], [], false, none⟩

/-- The host reaches it. -/
theorem up_there : up.hostUp := ⟨rfl, rfl⟩

/-! ## Well-formedness -/

theorem test_wf_bar0_write : WellFormed (.bar0RegisterWrite 2 0 none) = false := by decide
theorem test_wf_bar0_wide : WellFormed (.bar0RegisterWrite 4 0 (some 0)) = false := by decide
theorem test_wf_bad_access : WellFormed (.bar0BadAccess true 4 4) = false := by decide
theorem test_wf_bar2_empty : WellFormed (.bar2Access 0 0 none) = false := by decide
theorem test_wf_bar2_length : WellFormed (.bar2Access 0 2 (some [0])) = false := by decide
theorem test_wf_resize : WellFormed (.configRequest (.resizeBar2 38)) = false := by decide
theorem test_wf_fill : WellFormed (.dollyMoveComplete 0 (.fill 16 32 (zeros 32)) .other false) = false := by decide
theorem test_wf_copy : WellFormed (.dollyMoveComplete 0 (.copy 0 0 31 []) .other false) = false := by decide
theorem test_wf_encode : WellFormed (.dollyMoveComplete 0 (.encode 0 0 1 0 1 3) .other false) = false := by decide
theorem test_wf_decode : WellFormed (.dollyMoveComplete 0 (.decode 0 1 0 2 0 0) .other false) = false := by decide
theorem test_wf_multicast : WellFormed (.dollyMoveComplete 0 (.multicast 0 16 32) .other false) = false := by decide
theorem test_wf_expand : WellFormed (.dollyMoveComplete 0 (.expand 0 16 1) .other false) = false := by decide

/-- A fill of the first operand of tile 0 at offset `off` in the bench of block 0. -/
def fillAt (off : Nat) : FillTo := ⟨0, 0, 0, .slot 0, [0], off⟩

theorem test_wf_operand : WellFormed (.dollyMoveComplete 0 (.operand (fillAt 0) 0 0 0 1 1 .int8) .other false) = false := by decide
theorem test_wf_states : WellFormed (.dollyMoveComplete 0 (.states (fillAt 0) 0 0 1 1) .other false) = false := by decide
theorem test_wf_region : WellFormed (.dollyMoveComplete 0 (.region (fillAt 0) ⟨[16], 32, 1, 1, 4, 4, .int8⟩) .other false) = false := by decide
theorem test_wf_records : WellFormed (.dollyMoveComplete 0 (.records (fillAt 16)) .other false) = false := by decide
theorem test_wf_remote : WellFormed (.dollyMoveComplete 0 (.remote (fillAt 0) 1 0 1 1 .int8) .other false) = false := by decide
theorem test_wf_restore : WellFormed (.dollyMoveComplete 0 (.restore 0 0 0 0 [0] 16) .other false) = false := by decide
theorem test_wf_flit : WellFormed (.flitReceive 0 [] 0) = false := by decide
theorem test_wf_edge : WellFormed (.safeAckEdge ⟨true, 16, 0⟩) = false := by decide
theorem test_wf_hpd : WellFormed (.hpdEdge 0 ⟨true, 16, 0⟩) = false := by decide
theorem test_wf_reset : WellFormed (.resetNAssert ⟨false, 16, 0⟩) = false := by decide
theorem test_wf_perst : WellFormed (.perstNAssert ⟨false, 16, 0⟩) = false := by decide
theorem test_wf_cue : WellFormed (.setCue ⟨0, 1024, [0], [0], [([], 0)], [0], [], 1, 0, 0, 0, false, false⟩) = false := by decide
theorem test_wf_cue_tiles : WellFormed (.setCue ⟨0, 0, [], [], [], [], [], 1, 0, 0, 0, false, false⟩) = false := by decide
theorem test_wf_cue_phases : WellFormed (.setCue ⟨0, 0, [0], [], [([], 0)], [0], [], 1, 0, 0, 0, false, false⟩) = false := by decide
theorem test_wf_cue_draws : WellFormed (.setCue ⟨0, 0, [0], [0], [], [0], [], 1, 0, 0, 0, false, false⟩) = false := by decide
theorem test_wf_lanes : WellFormed (.spliceTrainingDone 0 ⟨[true], [], 0⟩) = false := by decide
theorem test_wf_ok : WellFormed (.bar0RegisterWrite 0x30 0 (some 0)) = true := by decide

/-! ## Worked figures of the manual -/

/-- The CRC of R46's example. -/
theorem test_crc32c : crc32c [0x31, 0x32, 0x33, 0x34, 0x35, 0x36, 0x37, 0x38, 0x39] = 0xE306_9283 := by decide +kernel

/-- div_round of R99 rounds half up, toward plus infinity. -/
theorem test_divRound : divRound (-3) 2 = -1 ∧ divRound 3 2 = 2 := by decide

/-- An idle step is one tick (log 4). -/
theorem test_idle : step up = .next { up with clock := { up.clock with clap := 500_001 } } := rfl

/-- The word of no command (no row of the opcode table has bits). -/
theorem test_no_word : decodeTableWord 32 0 = none := by decide

/-! ## Witnesses: registers and the host -/

/-- ResetValues, StepRunsCommand, RegisterBitsAndLatches, HostWritesTaken, ConfigRequests: blank flash, a running clapper, a
host that is there before and after firmware is ready. -/
theorem witness_plain : Memory.wfAt flashDefault State.reset.flash = true ∧ State.reset.memoryCanonical = true ∧
    up.pending = [] ∧ up.clock.running = true ∧ up.clock.holding = false ∧ { up.clock with holding := true }.holding = true ∧ up.hostUp ∧ up.dev.fwReady = true ∧
    State.reset.hostUp ∧ State.reset.dev.fwReady = false ∧ State.reset.dev.fwPhase ≠ 4 :=
  ⟨by decide, by decide, rfl, rfl, rfl, rfl, up_there, rfl, ⟨rfl, rfl⟩, rfl, by decide⟩

/-- SubmitHandled: channel 15 free, channel 0 BUSY with the HOST slot free. -/
theorem witness_submit : up.hostUp ∧ up.dev.mboxBusy.getLsbD 15 = false ∧
    (let s := { up with dev := { up.dev with mboxBusy := 1 } }
     s.hostUp ∧ s.regionFree 12 ∧ s.dev.mboxBusy.getLsbD 0 = true) := ⟨up_there, by decide, up_there, rfl, by decide⟩

/-- HostWritesTaken: the producer itself as the new consumer index, the top of the range, and the first value beyond it. -/
theorem witness_consumer : let s := { up with dev := { up.dev with ring := ⟨0, 3, 1, 0, 0⟩ } }
    s.hostUp ∧ (3 + 2 ^ 32 - s.dev.ring.consumer % 2 ^ 32) % 2 ^ 32 ≤
      (s.dev.ring.producer + 2 ^ 32 - s.dev.ring.consumer % 2 ^ 32) % 2 ^ 32 ∧
    (s.dev.ring.producer + 2 ^ 32 - s.dev.ring.consumer % 2 ^ 32) % 2 ^ 32 <
      (4 + 2 ^ 32 - s.dev.ring.consumer % 2 ^ 32) % 2 ^ 32 := ⟨up_there, by decide, by decide⟩

/-- BarAccesses: a misaligned word at the end of BAR 0, the last byte of an open window, and the byte after it. -/
theorem witness_bar : up.hostUp ∧ up.regionFree 12 ∧ bar0Aligned 0xFFFE 2 = false ∧ 0xFFFE + 2 ≤ 0x1_0000 ∧
    (let s := { up with pool := { up.pool with windows := [⟨0, 0x1_0000, true, .tensor 5⟩] }
                        wall := { up.wall with windows := [⟨0, 0, 1, 1⟩] } }
     s.hostUp ∧ 0xFFFF + 1 ≤ 2 ^ s.dev.bar2Size ∧ s.hostMay false (s.bar2Address 0xFFFF) 1 = true ∧
       s.hostMay true (s.bar2Address 0xFFFF) 1 = true ∧ 0x1_0000 + 1 ≤ 2 ^ s.dev.bar2Size ∧
       s.hostMay false (s.bar2Address 0x1_0000) 1 = false ∧ s.hostMay true (s.bar2Address 0x1_0000) 1 = false) :=
  ⟨up_there, rfl, by decide, by decide, up_there, by decide, by decide, by decide, by decide, by decide, by decide⟩

/-- HostIslandGoesAndReturns: in reset with PERST_N high; lost with a stream to close, with no sealed entry and with one. -/
theorem witness_host_island :
    (let s := { up with host := { up.host with inReset := true } }
     s.host.inReset = true ∧ s.level .perstN = true) ∧
    (let x := { aStream false with p := { aParams false with closeOnLoss := true } }
     let s := with0 { up with host := { up.host with inReset := true, lossBeat := some 7 } } x
     s.host.lossBeat = some 7 ∧ s.host.inReset = true ∧ s.firmwareUp = true ∧ (s.stream 0).p.closeOnLoss = true ∧
       (s.stream 0).state ≠ .free ∧ (s.stream 0).state ≠ .closing ∧ s.sealedFor 0 = false ∧
       { s with seq := { s.seq with known := [anEntry 1 1001] } }.sealedFor 0 = true) :=
  ⟨⟨rfl, by decide⟩, rfl, rfl, by decide, by decide, by decide, by decide, by decide, by decide⟩

/-! ## Witnesses: messages -/

/-- Firmware begins the message of a channel, as one truth value. -/
def beginsNow (s : State) (op c : Nat) : Bool :=
  s.mbox.order.head? == some c && decide (c < 16) && s.dev.fwReady && !(s.dev.fwPhase == 4) && (s.waiting? Waits.isSwitch).isNone &&
  msgKnown (s.chanBytes c) && msgOpcode (s.chanBytes c) == op && msgStreamOk (s.chanBytes c) && !s.namesPending (s.chanBytes c)

theorem begins_of {s : State} {op c : Nat} (h : beginsNow s op c = true) : s.Begins op c := by
  simp only [beginsNow, Bool.and_eq_true, beq_iff_eq, decide_eq_true_eq, Option.isNone_iff_eq_none, Bool.not_eq_true',
    beq_eq_false_iff_ne, ne_eq] at h
  obtain ⟨⟨⟨⟨⟨⟨⟨⟨h1, h2⟩, h3⟩, h4⟩, h5⟩, h6⟩, h7⟩, h8⟩, h9⟩ := h
  exact ⟨h1, h2, h3, h4, h5, h6, h7, h8, h9⟩

/-- QueriesAndRefusals: the three queries, an unknown opcode, and STREAM_CLOSE while the stream's close is pending. -/
theorem witness_queries :
    (holding up (msg 0x01 1 0xFFFF [])).Begins 0x01 0 ∧
    ((holding up (msg 0x02 1 0xFFFF [(0x14, [7])])).Begins 0x02 0 ∧ within 1 7 (leNat (msg 0x02 1 0xFFFF [(0x14, [7])]) 0x14 1) = true) ∧
    ((holding (with0 up (aStream true)) (msg 0x03 1 0 [])).Begins 0x03 0 ∧ ((with0 up (aStream true)).stream 0).state ≠ .free) ∧
    msgKnown (msg 0x04 1 0xFFFF []) = false ∧
    (let m := msg 0x21 1 0 []
     let s := holding { up with mbox := { up.mbox with deferred := [⟨3, .streamClose 0, none⟩] } } m
     s.mbox.order.head? = some 0 ∧ s.dev.fwReady = true ∧ s.dev.fwPhase ≠ 4 ∧ s.waiting? Waits.isSwitch = none ∧
     msgKnown m = true ∧ msgOpcode m = 0x21 ∧ msgStreamOk m = true ∧ s.namesPending m = true) := by
  refine ⟨begins_of ?_, ⟨begins_of ?_, ?_⟩, ⟨begins_of ?_, ?_⟩, ?_, rfl, rfl, ?_, ?_, ?_, ?_, ?_, ?_⟩ <;> decide +kernel

/-- TensorsAllocatedAndFreed: an allocation of the least length, a tensor that nothing uses. -/
theorem witness_tensors :
    (holding up (msg 0x10 1 0xFFFF [(0x10, leBytes 8 1)])).Begins 0x10 0 ∧
    (∃ h, pickHandle (Config.handleHint up.free) (2 ^ 32 - 1) [] = some h) ∧
    (∃ base, up.pool.place up.fuses.grade (Config.placeHint up.free) (roundUp 1 Config.poolUnit) = some base) ∧
    (let s := { up with tensors := [aTensor] }
     (holding s (msg 0x11 1 0xFFFF [(0x10, leBytes 4 5)])).Begins 0x11 0 ∧ s.tensor? 5 = some aTensor ∧
       (holding s (msg 0x11 1 0xFFFF [(0x10, leBytes 4 5)])).taken.tensorInUse 5 = false) := by
  refine ⟨begins_of ?_, ?_, Option.isSome_iff_exists.1 (Pool.place_isSome _ _ _ _ ?_), begins_of ?_, ?_, ?_⟩
  case refine_2 => exact ⟨_, by simp [pickHandle]; rfl⟩
  all_goals decide +kernel

def aReel : Reel := ⟨1, false, [], [], [], zeros 32, 1, ⟨255, 4095, 1, 255, 255, 255, 4⟩, 0, 64, 0, [0], 0, 0, [], 64, 0, 0⟩

def loaded : LoadedReel :=
  { handle := 9, content := aReel, setScope := false, digest := [], weightDigest := [], base := 0x2_0000, ready := true,
    reload := false, arrays := 32, engines := 8, chips := 1, positions := [], engineMap := [], cTween := 0, cKey := 0, portions := [],
    freqTween := [], freqKey := [], hot := none, filled := [], lastUse := 0, condemned := false, clearing := none }

def reelMsg : State := holding { up with tensors := [aTensor] } (msg 0x12 1 0xFFFF [(0x10, leBytes 4 5)])

/-- ReelsLoadedAndDropped: a valid empty reel whose binary fills its tensor; a loaded reel that no stream names. -/
theorem witness_reel_load : reelMsg.Begins 0x12 0 ∧ reelMsg.tensor? (leNat (reelMsg.chanBytes 0) 0x10 4) = some aTensor ∧
    leNat (reelMsg.chanBytes 0) 0x14 1 = 0 ∧ reelMsg.taken.reelRefused (some aReel) aTensor.bytes false = none ∧
    reelMsg.reels.length < 256 ∧ (∃ h, pickHandle (Config.handleHint 0) 65535 [] = some h) ∧
    ∃ b, reelMsg.pool.place .nb3296 (Config.placeHint 0) (roundUp (max aReel.binaryLen 1) Config.poolUnit) = some b :=
  ⟨begins_of (by decide +kernel), by decide +kernel, by decide +kernel, by decide +kernel, by decide +kernel,
    ⟨1 + Config.handleHint 0 % 65535, by simp [pickHandle]⟩,
    Option.isSome_iff_exists.1 (Pool.place_isSome _ _ _ _ (by decide +kernel))⟩

def dropMsg : State := holding { up with reels := [loaded] } (msg 0x13 1 0xFFFF [(0x10, leBytes 2 9)])

theorem openStreams_reset (s : State) (h : s.streams = Vector.replicate 1024 Stream.reset) : s.openStreams = [] := by
  simp [State.openStreams, State.stream, h, Stream.reset]

theorem witness_reel_drop : dropMsg.Begins 0x13 0 ∧ dropMsg.reel? (leNat (dropMsg.chanBytes 0) 0x10 2) = some loaded ∧
    dropMsg.taken.reelNamed 9 = false := ⟨begins_of (by decide +kernel), by decide +kernel, by rw [State.reelNamed, openStreams_reset _ rfl]; decide⟩

def openMsg (reel : Nat) : List Byte := msg 0x20 4 0 [(0x10, leBytes 2 reel), (0x12, [3, 1, 4]), (0x16, leBytes 2 256 ++ leBytes 2 256 ++
  leBytes 2 256 ++ leBytes 2 256 ++ [1, 0] ++ leBytes 4 60_000), (0x28, [4, 3, 4, 4, 0, 1, 0])]

def withReel : State := { up with reels := [loaded] }

def opening : State := holding { up with reels := [loaded] } (openMsg 9)

def openP : StreamParams := (parseOpen (openMsg 9)).getD StreamParams.reset

/-- StreamOpenAdmits: a PASSTHROUGH print stream of the least size passes every check, wherever firmware would like to put its
rings and store; without its reel it fails check 1. -/
theorem witness_open : opening.Begins 0x20 0 ∧ msgStream (opening.chanBytes 0) = 0 ∧ (opening.stream 0).state = .free ∧
    parseOpen (opening.chanBytes 0) = some openP ∧ opening.reel? (leNat (opening.chanBytes 0) 0x10 2) = some loaded :=
  ⟨begins_of (by decide +kernel), by decide +kernel, by decide +kernel, by decide +kernel, by decide +kernel⟩

theorem witness_open_admitted : opening.taken.openRefused 0 (openMsg 9) = none := by
  have ha : (opening.taken.allocStream 0 openP loaded.content.tensorRings).isSome :=
    State.allocStream_isSome _ .nb3296 0x800_0000 0 0 _ _ ⟨by decide +kernel, by decide +kernel, by decide +kernel⟩ (by decide +kernel)
      (by decide +kernel) (by decide +kernel) (by decide +kernel) (by decide +kernel)
  have hn : (opening.taken.allocStream 0 openP loaded.content.tensorRings).isNone = false := by
    cases h : opening.taken.allocStream 0 openP loaded.content.tensorRings with
    | none => rw [h] at ha; cases ha
    | some _ => rfl
  have hl : opening.taken.loadsWith 0 openP = [⟨0, openP, 0, 0⟩] := by
    rw [State.loadsWith, State.loads, openStreams_reset _ rfl, show opening.taken.reelCosts openP.reel = (0, 0) by decide +kernel]
    rfl
  unfold State.openRefused
  rw [show opening.taken.reel? (leNat (openMsg 9) 0x10 2) = some loaded by decide +kernel]
  dsimp only
  rw [show parseOpen (openMsg 9) = some openP by decide +kernel]
  dsimp only
  rw [hn, hl]
  decide +kernel

theorem witness_open_refused : (holding up (openMsg 8)).Begins 0x20 0 ∧
    (holding up (openMsg 8)).taken.openRefused 0 (openMsg 8) = some (eNoReel, 1) := ⟨begins_of (by decide +kernel), by decide +kernel⟩
def closing0 : State := holding (with0 up (aStream true)) (msg 0x21 1 0 [])

/-- StreamCloseEnds: the stream with no sealed entry, and with one. -/
theorem witness_close : closing0.Begins 0x21 0 ∧ (closing0.stream 0).state = .running ∧ closing0.sealedFor 0 = false ∧
    (let s := { closing0 with seq := { closing0.seq with known := [anEntry 1 1001] } }
     s.Begins 0x21 0 ∧ (s.stream 0).state = .running ∧ s.sealedFor 0 = true) :=
  ⟨begins_of (by decide +kernel), by decide +kernel, by decide +kernel, begins_of (by decide +kernel), by decide +kernel, by decide +kernel⟩

/-- 1920 by 1080 at 60 Hz over four lanes; `on` and the fill colour as given. -/
def gateMsg (on : Nat) (fill : Nat) : List Byte := msg 0x30 2 0xFFFF [(0x10, [3, BitVec.ofNat 8 on]), (0x14, [1920, 88, 44, 148, 1080, 4, 5, 36].flatMap (leBytes 2)),
  (0x24, leBytes 4 148_500), (0x29, [4, 4]), (0x32, leBytes 2 0xFFFF ++ leBytes 2 fill)]

def aConfig : GateConfig := (parseGate (gateMsg 1 0)).withWatermark

/-- OutputConfigureActs: gate 3 off; a new configuration; one that differs in the fill colour alone. -/
theorem witness_output_off : (holding up (gateMsg 0 0)).Begins 0x30 0 ∧ leNat (gateMsg 0 0) 0x10 1 = 3 ∧
    leNat (gateMsg 0 0) 0x11 1 = 0 ∧ up.gateBusy 3 none = false := ⟨begins_of (by decide +kernel), by decide +kernel, by decide +kernel, by decide +kernel⟩

theorem witness_output_new : (holding up (gateMsg 1 0)).Begins 0x30 0 ∧ leNat (gateMsg 1 0) 0x11 1 = 1 ∧
    gateRangesOk 3 (gateMsg 1 0) aConfig = true ∧ aConfig.card = 0 ∧ up.gateBusy 3 (some aConfig) = false ∧
    (up.gate 3).linkOk aConfig = true ∧ up.cloneTargets aConfig = [] ∧ (up.gate 3).cfg = none :=
  ⟨begins_of (by decide +kernel), by decide +kernel, by decide +kernel, by decide +kernel, by decide +kernel, by decide +kernel, by decide +kernel, by decide +kernel⟩

/-- With clone on gate 0, and gate 3 configured before. -/
theorem witness_output_clone :
    let m := patch (patch (gateMsg 1 0) 0x10 [0]) 0x12 [1]
    let k := (parseGate m).withWatermark
    let s := holding { up with gates := up.gates.set 3 { Gate.reset with cfg := some aConfig, runningGen := true } } m
    s.Begins 0x30 0 ∧ leNat m 0x10 1 = 0 ∧ leNat m 0x11 1 = 1 ∧ gateRangesOk 0 m k = true ∧ k.card = 0 ∧ s.gateBusy 0 (some k) = false ∧
    (s.gate 0).linkOk k = true ∧ (s.cloneTargets k).map (·.1) = [3] ∧ (∀ p ∈ s.cloneTargets k, (s.gate p.1).linkOk p.2 = true) ∧
    (s.gate 0).cfg = none :=
  ⟨begins_of (by decide +kernel), by decide +kernel, by decide +kernel, by decide +kernel, by decide +kernel, by decide +kernel,
    by decide +kernel, by decide +kernel, by decide +kernel, by decide +kernel⟩

def lit (g : Gate) : State := { up with gates := up.gates.set 3 g }

theorem witness_output_live : let k := (parseGate (gateMsg 1 7)).withWatermark
    let s := holding (lit { Gate.reset with cfg := some aConfig, runningGen := true }) (gateMsg 1 7)
    s.Begins 0x30 0 ∧ gateRangesOk 3 (gateMsg 1 7) k = true ∧ k.card = 0 ∧ s.gateBusy 3 (some k) = false ∧
    (s.gate 3).linkOk k = true ∧ s.cloneTargets k = [] ∧ aConfig.sameButLive k = true :=
  ⟨begins_of (by decide +kernel), by decide +kernel, by decide +kernel, by decide +kernel, by decide +kernel, by decide +kernel, by decide +kernel⟩

def setMsg (n : Nat) : List Byte := msg 0x40 3 0xFFFF [(0x10, [BitVec.ofNat 8 n, 1, 2]), (0x20, (List.range n).flatMap (leBytes 8))]

/-- SetConfigureTakes: a set of one, and of sixteen with the clapper from port 0. -/
theorem witness_set : (∀ n ∈ [1, 16], beginsNow (holding up (setMsg n)) 0x40 0 = true ∧ clapSourceOf (leNat (setMsg n) 0x12 1) = some .splice ∧
    leNat (setMsg n) 0x10 1 = n ∧ up.fuses.chipId ∈ (List.range n).map (fun i => leNat (setMsg n) (0x20 + 8 * i) 8) ∧
    ((List.range n).map fun i => leNat (setMsg n) (0x20 + 8 * i) 8).Nodup ∧ leNat (setMsg n) 0x11 1 = 1) ∧ up.openStreams = [] :=
  ⟨by decide +kernel, openStreams_reset _ rfl⟩

def inSet (l : Option Launch) (heard : List (Nat × LaunchMsg)) : State := { up with
  set := { SetState.reset with members := [0, 1], index := 0, configured := true, ports := 1, launch := l, heard := heard } }

def aLaunch (sent : Bool) (gos : List Nat) : Launch := ⟨600_000, 5, [], [], zeros 32, [], sent, sent, gos, false⟩

def alone : State := { up with set := { SetState.reset with members := [0], configured := true } }

/-- LaunchesRun: a launch of a set of one, 200 beats away; the messages, the GO point, commit and abort in a set of two. -/
theorem witness_launch_at : let s := holding alone (msg 0x41 1 0xFFFF [(0x10, leBytes 8 600_000 ++ leBytes 4 5)])
    s.Begins 0x41 0 ∧ s.taken.launchRefused 600_000 5 0 0 = none ∧
    leNat (s.chanBytes 0) 0x10 8 = 600_000 ∧ leNat (s.chanBytes 0) 0x18 4 = 5 ∧ leNat (s.chanBytes 0) 0x1C 1 = 0 ∧
    leNat (s.chanBytes 0) 0x20 4 = 0 :=
  ⟨begins_of (by decide +kernel), by decide +kernel, by decide +kernel, by decide +kernel, by decide +kernel, by decide +kernel⟩

theorem witness_launch : (inSet none []).firmwareUp = true ∧ (1 : Fin 16).val ∈ (inSet none []).peers ∧
    (let s := inSet (some (aLaunch false [])) []
     s.firmwareUp = true ∧ s.set.launch = some (aLaunch false []) ∧ (aLaunch false []).voted = false ∧
       (aLaunch false []).committed = false ∧ (aLaunch false []).sentGo = false) ∧
    (let s := inSet (some (aLaunch true [1])) []
     s.firmwareUp = true ∧ s.set.launch = some (aLaunch true [1]) ∧ (aLaunch true [1]).sentGo = true ∧ ∀ i ∈ s.peers, i ∈ (aLaunch true [1]).gos) := by
  decide +kernel

def unitMsg (op kind index : Nat) : List Byte := msg op 1 0xFFFF [(0x10, [BitVec.ofNat 8 kind]), (0x18, leBytes 8 index)]

def blockOut (b : BlockUnit) : State := { up with units := { up.units with blocks := up.units.blocks.set 35 b } }

/-- UnitsLeaveAndReturn: block 35 leaves and returns; each returning test ends. -/
theorem witness_units : (holding up (unitMsg 0x50 0 35)).Begins 0x50 0 ∧
    leNat (unitMsg 0x50 0 35) 0x18 8 = 35 ∧ leNat (unitMsg 0x50 0 35) 0x10 1 = 0 ∧ (up.block 35).retired = false ∧
    (∃ x ∈ up.fitBlocks, x ≠ 35) ∧ up.mappedBlock 35 = false ∧ up.units.substs = [] ∧
    (let s := holding (blockOut ⟨true, false, false, []⟩) (unitMsg 0x51 0 35)
     s.Begins 0x51 0 ∧ leNat (s.chanBytes 0) 0x18 8 = 35 ∧ (s.block 35).retired = true) ∧
    (let s := blockOut ⟨true, true, false, []⟩
     (s.block 35).testing = true ∧ (s.block 35).retired = true ∧ s.slotHeld (.block 35) = false) ∧
    (let s := { up with units := { up.units with engines := up.units.engines.set 8 ⟨true, true⟩, pageTests := [0x20_0000] }
                        mbox := { up.mbox with deferred := [⟨3, .unitReturn .port 5 900, none⟩] } }
     (s.engine 8).testing = true ∧ 0x20_0000 ∈ s.units.pageTests ∧ s.portReturnSince 5 = some 900) :=
  ⟨begins_of (by decide +kernel), by decide +kernel, by decide +kernel, by decide +kernel, ⟨0, by decide +kernel, by decide +kernel⟩, by decide +kernel, rfl,
    ⟨begins_of (by decide +kernel), by decide +kernel, by decide +kernel⟩, by decide +kernel, by decide +kernel⟩

def anImage : Image := ⟨3, 2, 1, 1, 1⟩

/-- FirmwareReplaced: staging from a tensor, the switch, the flash write, new firmware at the last beat of its time, the time
limit, and an image that has run without a chip-level entry. -/
theorem witness_firmware : (let s := holding { up with tensors := [aTensor] } (msg 0x60 1 0xFFFF [(0x10, leBytes 4 5 ++ [1])])
     s.Begins 0x60 0 ∧ s.tensor? (leNat (s.chanBytes 0) 0x10 4) = some aTensor) ∧
    (let s := holding { up with fw := { up.fw with staged := some anImage } } (msg 0x61 1 0xFFFF [(0x10, leBytes 4 3)])
     s.Begins 0x61 0 ∧ s.fw.staged = some anImage ∧ leNat (s.chanBytes 0) 0x10 4 = anImage.version) ∧
    (let s := { up with fw := { up.fw with staged := some anImage, writing := some (1, [5]) } }
     s.fw.writing = some (1, [5]) ∧ s.fw.staged = some anImage) ∧
    (let s := { up with fw := { up.fw with staged := some anImage, stagedSlot := some 1, switch := some ⟨600⟩ } }
     s.fw.switch = some ⟨600⟩ ∧ s.fw.staged = some anImage ∧ s.err.halted = false ∧ s.beat ≤ 600 + 400 ∧
       ∀ g, s.governing = some g → g.2.1 + 1 < 2 ^ 32) :=
  ⟨⟨begins_of (by decide +kernel), by decide +kernel⟩, ⟨begins_of (by decide +kernel), rfl, by decide +kernel⟩, ⟨rfl, rfl⟩,
    rfl, rfl, rfl, by decide +kernel, by intro g h; revert g; decide +kernel⟩

/-- A flash header that names slot 1, in copy 0. -/
def headed : State := let h := leBytes 4 0x4E524648 ++ leBytes 4 7 ++ [1, 0, 0, 0]
  { up with fw := { up.fw with image := some anImage, fromSlot := some 1 }, wall := { up.wall with fusePolicy := 1 } }.flashWrite 0
    (h ++ leBytes 4 (crc32c h))

theorem witness_rollback : headed.governing = some (0, 7, 1) ∧ headed.fw.image = some anImage ∧ headed.fw.fromSlot = some 1 ∧
    headed.firmwareUp = true ∧ headed.err.chipAt = none ∧ bitOf headed.wall.fusePolicy 0 = true := by decide +kernel

/-! ## Witnesses: rings, cadence, motion -/

/-- Stream 0 with ring `i` at 0x1_0000, its indices and the bytes from slot 0 on. -/
def ringed (x : Stream) (i entry depth p c : Nat) (slots : List Byte) : State :=
  ((with0 up x).writeBytes (32 * i) (leBytes 8 0x1_0000 ++ leBytes 4 entry ++ [BitVec.ofNat 8 depth, BitVec.ofNat 8 (bitN (balimRing i)), 0, 0] ++
    leBytes 4 p ++ leBytes 4 c)).writeBytes 0x1_0000 slots

/-- DoorbellHandled: before a doorbell of another ring, the top of the range on a ring the host writes and on one that Balim
writes; a FREE stream; a ring that a running stream has not set up; an index beyond the range. -/
theorem witness_doorbell : (∀ d ∈ [(1, (0 : Nat), 16), (2, 16, 16)],
      let other : DoorbellWrite := ⟨0, 6, 1, 500_001⟩
      let s := { ringed (aStream true) d.1 64 4 d.2.1 0 [] with doorbells := [⟨0, d.1, d.2.2, 500_000⟩, other] }
      s.doorbells = ⟨0, d.1, d.2.2, 500_000⟩ :: [other] ∧ s.firmwareUp = true ∧ (other.stream == 0 && other.ring == d.1) = false ∧
      (s.stream 0).state ≠ .free ∧ (s.ring 0 d.1).entryBytes ≠ 0 ∧ (s.ring 0 d.1).byBalim = (d.1 == 2) ∧
      extendIndex (s.ring 0 d.1).doorbellRange.1 (s.ring 0 d.1).doorbellRange.2 d.2.2 = some 16) ∧
    { up with doorbells := [⟨1023, 1, 0, 500_000⟩] }.doorbells = ⟨1023, 1, 0, 500_000⟩ :: [] ∧ (up.stream 1023).state = .free ∧
    (let s := { ringed (aStream true) 1 64 4 1 0 [] with doorbells := [⟨0, 6, 1, 500_000⟩] }
     (s.stream 0).state ≠ .free ∧ (s.ring 0 6).entryBytes = 0 ∧ extendIndex (s.ring 0 1).doorbellRange.1 (s.ring 0 1).doorbellRange.2 17 = none) := by
  decide +kernel

/-- A stream whose keyframes are one pixel wide and two slices high. -/
def thin (expected : Nat) (part : Option Key) : Stream := { aStream false with
  p := { aParams false with renW := 1, renH := 72 }
  rushes := { Rushes.reset with expected := expected, partial_ := part } }

def sealed32 (h : List Byte) : List Byte := h ++ leBytes 4 (crc32c h)

/-- Slice `i` of keyframe 8 at those sizes; its payload is zeros. -/
def thinSlice (i rows : Nat) : List Byte := sealed32 (([1, 0, 0, 0] ++ leBytes 4 8 ++ leBytes 8 100 ++ leBytes 2 i ++ leBytes 2 2 ++
  leBytes 2 (64 * i) ++ leBytes 2 rows ++ leBytes 2 1 ++ [0, 0] ++ leBytes 4 (rows * 4) ++ leBytes 4 (crc32c (zeros (rows * 4))) ++ zeros 60).take 60) ++
  zeros (rows * 4)

/-- The same with event ring 3 at 0x4_0000. -/
def withEvents (s : State) : State :=
  s.writeBytes (32 * 3) (leBytes 8 0x4_0000 ++ leBytes 4 64 ++ [4, 1, 0, 0] ++ leBytes 4 0 ++ leBytes 4 0)

set_option maxRecDepth 20000 in
/-- RushSliceChecked: the first slice of two, the last, and a slice of zeros. Each stream has its event ring apart from ring 1. -/
theorem witness_rush : let k : Key := ⟨8, 100, false, 500_000, 0, [zeros 32], none, [500_000]⟩
    ∀ d ∈ [(thin 0 none, thinSlice 0 64, none, 0), (thin 1 (some k), thinSlice 1 8, none, 1), (thin 0 none, [], some 1, 0)],
      let s := withEvents (ringed d.1 1 512 4 1 0 d.2.1)
      let h := s.readBytes ((s.ring 0 1).slotAt 0) 64
      let payload := s.readBytes ((s.ring 0 1).slotAt 0 + 64) (leNat h 0x1C 4)
      s.firmwareUp = true ∧ (s.stream 0).state = .running ∧ (s.ring 0 1).entryBytes ≠ 0 ∧
      (s.stream 0).rushes.read ≠ (s.ring 0 1).producer ∧ (s.stream 0).rushes.discarding = false ∧
      (s.stream 0).sliceFails 0 h payload = d.2.2.1 ∧ (d.2.2.1 = none → leNat h 0x10 2 = d.2.2.2 ∧ (s.stream 0).p.sliceCount = 2) ∧
      (s.ring 0 3).entryBytes ≠ 0 ∧ (s.ring 0 3).full = false ∧
      ((s.ring 0 3).slotAt (s.ring 0 3).producer + 64 ≤ (s.ring 0 3).at_ + 16 ∨ (s.ring 0 3).at_ + 28 ≤ (s.ring 0 3).slotAt (s.ring 0 3).producer) ∧
      ∀ i < 64, s.offConsumer 0 1 ((s.ring 0 3).slotAt (s.ring 0 3).producer + i) := by
  decide +kernel

/-- RushSliceChecked: a slice that is passed over; an OPEN stream whose reel is condemned, and one whose reel is not. -/
theorem witness_discarding : (let x := { thin 0 none with rushes := { (thin 0 none).rushes with discarding := true } }
      let s := ringed x 1 512 4 1 0 (thinSlice 1 8)
      s.firmwareUp = true ∧ (s.stream 0).state = .running ∧ (s.ring 0 1).entryBytes ≠ 0 ∧
      (s.stream 0).rushes.read ≠ (s.ring 0 1).producer ∧ (s.stream 0).rushes.discarding = true ∧
      leNat (s.readBytes ((s.ring 0 1).slotAt 0) 64) 0x10 2 ≠ 0) ∧
    ∀ c ∈ [true, false], let s := with0 { up with reels := [{ loaded with handle := 0, condemned := c }] } { thin 1 none with state := .open_ }
      (s.stream 0).state = .open_ ∧ (s.stream 0).p.batch = false ∧
      ((s.reel? (s.stream 0).p.reel).any fun r => r.condemned) = c := by
  decide +kernel

def aKey (n slot : Nat) : Key := ⟨n, 1000 * n, false, 500_000, slot, [], none, []⟩

/-- The frame 0 of a RETIME entry, in the given half of the stores. -/
def halfFrame (i half : Nat) : Frame :=
  { index := i, kind := .tween, phase := 420, keyA := some 7, keyB := 8, nameA := 7, nameB := 8, tsA := 7000, tsB := 8000, hold := false,
    cut := false, base := 2_000_000 * 2 ^ 32, lines := 0, lineNum := 2 ^ 42, lineDen := 1, gateBeats := 0, half := half, output := 0,
    printSkipped := false, entry := 0, entryPhase := 0, wantSlate := false, wantFinger := false, keySeq := false, begun := true,
    positions := [0], arrays := 32, active := 32, engines := 8, chips := 1, freq := [], cold := some false, skipped := false, downgraded := false,
    tiles := [⟨0, 0, [], false, false⟩], doneRows := [], written := [], latched := [], closed := false, poisoned := false,
    motionLate := 0, overlayLate := 0, passesMax := 0, tensorSum := none }

def aFrame (i : Nat) : Frame := halfFrame i 0

/-- EntriesTaken: a PROXY of one leaf node, an entry of another type (also on a BATCH stream whose frames have closed), a RETIME at
phase 840 between keyframes it holds, with no frame in progress and with both halves of the stores taken. -/
theorem witness_entries :
    (let e := leBytes 2 0x23 ++ zeros 2 ++ leBytes 4 8 ++ leBytes 4 5 ++ [1] ++ zeros 51
     let s := { ringed (aStream false) 0 64 4 1 0 e with tensors := [{ aTensor with base := 0x2_0000, bytes := 80 }] }
     let s := s.writeBytes 0x2_0000 (zeros 28 ++ leBytes 4 0x8000_0001)
     s.commandHead 0 = some e ∧ entryType e = 0x23 ∧ s.proxyOk e = true) ∧
    (let e := leBytes 2 0x99 ++ zeros 62
     (ringed (aStream false) 0 64 4 1 0 e).commandHead 0 = some e ∧ entryType e = 0x99 ∧ (aStream false).p.batch = false ∧
       (let x := { aStream true with frames := [{ aFrame 0 with closed := true }] }
        let s := ringed x 0 64 4 1 0 e
        s.commandHead 0 = some e ∧ (s.ring 0 2).full = false ∧ x.retime = [] ∧ ∀ f ∈ x.frames, f.closed = true)) ∧
    (let e := leBytes 2 0x21 ++ zeros 2 ++ leBytes 4 1 ++ leBytes 4 7 ++ leBytes 4 8 ++ leBytes 2 840 ++ zeros 46
     ∀ fs ∈ [[], [halfFrame 0 0, halfFrame 1 1]],
      let s := ringed { aStream true with keys := [aKey 7 0, aKey 8 1], frames := fs } 0 64 4 1 0 e
      s.commandHead 0 = some e ∧ entryType e = 0x21 ∧ (s.stream 0).p.batch = true ∧ (s.stream 0).retime = [] ∧
       (s.stream 0).frames = fs ∧ (s.stream 0).retimeRulesOk e = true ∧ (s.stream 0).keyStands (leNat e 8 4) = .held ∧
       (s.stream 0).keyStands (leNat e 0xC 4) = .held ∧ (fs ≠ [] → ∀ h < 2, ∃ f ∈ fs, f.closed = false ∧ f.half = h)) := by
  decide +kernel

/-- EntriesTaken: an empty list. -/
theorem witness_list : let h := sealed32 ([0x41, 0, 0, 0] ++ leBytes 4 1 ++ zeros 52)
    let s := ringed { aStream false with p := { aParams false with overlayArea := 0x10_0000 } } 6 64 4 1 0 h
    s.firmwareUp = true ∧ (s.stream 0).state = .running ∧ (s.stream 0).p.batch = false ∧ (s.stream 0).p.overlayArea ≠ 0 ∧
    s.readBytes ((s.ring 0 6).slotAt 0) 64 = h ∧ leNat h 0x18 1 = 0 ∧ leNat h 8 4 = 0 ∧ (s.ring 0 6).producer = 1 ∧
    (s.stream 0).headerFails 0 h = false ∧ s.listFails 0 h [] [] = none := by
  decide +kernel

/-- FramesSetUpInTime: the last frame of an interval; the first frame after it with no keyframe, with one that arrived by the cutoff
and with one that did not; a run of hold frames that has ended; a candidate frame, and one that was set up before its window opened. -/
theorem witness_cadence : (∀ d ∈ [(4, true, []), (5, false, []), (5, false, [{ aKey 9 2 with arrival := 400_000 }]),
        (5, false, [{ aKey 9 2 with arrival := 2 ^ 60 }])],
      let i : Interval := ⟨8, some 7, 3, 2, false⟩
      let s := with0 up { aStream false with interval := some i, nextFrame := d.1, frames := [aFrame 3], keys := d.2.2,
                                              rasterStart := 500_000 * 2 ^ 32 }
      s.cadenceRuns 0 = true ∧ (s.stream 0).interval = some i ∧ (s.stream 0).runEnds = none ∧
      Interval.holds i (s.stream 0).nextFrame = d.2.1 ∧ (s.stream 0).waitingKey = d.2.2.head? ∧ (s.stream 0).frames ≠ [] ∧
      (∀ k ∈ d.2.2, (k.arrival = 400_000 → k.arrival ≤ s.cutoff 0 5) ∧ (k.arrival = 2 ^ 60 → s.cutoff 0 5 < k.arrival))) ∧
    (let s := with0 up { aStream false with interval := some ⟨8, some 7, 3, 2, false⟩, runEnds := some 500_000, holdRun := 1 }
     s.cadenceRuns 0 = true ∧ (s.stream 0).runEnds = some 500_000 ∧ (s.stream 0).holdRun ≠ 0 ∧ 500_000 ≤ s.clock.clap) ∧
    (let s := with0 up (aStream false)
     s.cadenceRuns 0 = true ∧ (s.stream 0).candidate = true ∧ (s.stream 0).cued = none ∧ (s.stream 0).cuesDue = [] ∧
       s.frame? 0 (s.stream 0).nextFrame = none) ∧
    (let s := with0 up { aStream false with cuesDue := [3], frames := [aFrame 3] }
     s.cadenceRuns 0 = true ∧ (s.stream 0).cuesDue = 3 :: [] ∧ s.frame? 0 3 = some (aFrame 3)) := by
  decide +kernel

/-- FramesSetUpInTime: the first keyframe, in time for the first frame, with a mode that runs the reel and with one that copies; no
keyframe yet, and one that came after the cutoff. -/
theorem witness_first_frame : (∀ m ∈ [Mode.upscale, .tween],
      let s := with0 up { aStream false with p := { aParams false with mode := m }, keys := [{ aKey 7 0 with arrival := 400_000 }],
                                             rasterStart := 500_000 * 2 ^ 32 }
      s.cadenceRuns 0 = true ∧ (s.stream 0).interval = none ∧ (s.stream 0).runEnds = none ∧ (s.stream 0).holdRun = 0 ∧
      (s.stream 0).keys.head? = some { aKey 7 0 with arrival := 400_000 } ∧ 400_000 ≤ s.cutoff 0 0) ∧
    ∀ ks ∈ [[], [{ aKey 7 0 with arrival := 2 ^ 60 }]],
      let s := with0 up { aStream false with keys := ks, rasterStart := 500_000 * 2 ^ 32 }
      s.cadenceRuns 0 = true ∧ (s.stream 0).interval = none ∧ (s.stream 0).runEnds = none ∧ (s.stream 0).holdRun = 0 ∧
      (∀ k ∈ (s.stream 0).keys.head?, s.cutoff 0 0 < k.arrival) ∧ (s.stream 0).p.overlayArea = 0 ∧ 0 < (s.stream 0).p.tileCount := by
  decide +kernel

/-- A TWEEN stream of 16 by 8 pixels with two keyframes. -/
def moving (cut : Bool) (q : Pair) (pyr : List (Nat × Nat × List Nat)) (more : StreamParams → StreamParams) : State :=
  { with0 up { aStream false with
      p := more { aParams false with mode := .tween, renW := 16, renH := 8, outW := 16, outH := 8 }
      keys := [{ aKey 7 0 with proxy := some ⟨7, [], 5⟩ }, { aKey 8 1 with cut := cut, proxy := some ⟨8, [], 5⟩ }] } with
    motion := ⟨pyr, [q], [], false, 0⟩
    reels := [{ loaded with handle := 0 }] }

def aPair (blocks census occ : List Nat) (owns : Bool) : Pair := ⟨0, 0, 1, [], blocks, census, occ, [], [], [], owns, false, 500_000⟩

def keyA : MotionKey := ⟨0, 1, false, some ⟨7, [], 5⟩⟩
def keyB (cut : Bool) : MotionKey := ⟨1, 1, cut, some ⟨8, [], 5⟩⟩

theorem openStreams_with0 (s : State) (x : Stream) (h : s.streams = (Vector.replicate 1024 Stream.reset).set 0 x)
    (hx : x.state ≠ .free) : s.openStreams = [0] := by
  have h0 : s.stream 0 = x := by simp [State.stream, h]
  have hs : ∀ i ∈ List.range' 1 1023, (!((s.stream i).state == .free)) = false := by
    intro i hi
    have hi := List.mem_range'_1.1 hi
    simp [State.stream, h, show i < 1024 by omega, show ¬ (0 = i) by omega, Stream.reset]
  rw [State.openStreams, List.range_eq_range', show (1024 : Nat) = 1023 + 1 from rfl, List.range'_succ, List.filter_cons_of_pos (by simp [h0, hx]),
    List.filter_eq_nil_iff.2 (by intro i hi; simp [hs i hi])]

/-- No DEADLINE tile row is ready where the only stream is BATCH. -/
theorem no_deadlineRow {s : State} (h : s.openStreams = [0]) (b : (s.stream 0).p.batch = true) : s.deadlineRow = false := by
  simp [State.deadlineRow, h, b]

/-- The only stream of a chip finds a lane. -/
theorem laneFree_alone {s : State} (h : s.openStreams = [0]) (m : (s.laneOrder 0).isSome = true) : s.laneFree 0 = true := by
  obtain ⟨o, ho⟩ := Option.isSome_iff_exists.1 m
  simp [State.laneFree, ho, h]

theorem laneTakes_moving (cut : Bool) (q : Pair) (pyr : List (Nat × Nat × List Nat)) (more : StreamParams → StreamParams)
    (m : ((moving cut q pyr more).laneOrder 0).isSome = true) : (moving cut q pyr more).laneTakes 0 1 = true := by
  simp only [State.laneTakes, laneFree_alone (openStreams_with0 _ _ rfl (show StreamState.running ≠ .free by decide)) m, Bool.true_and,
    Bool.or_eq_true]
  exact .inr rfl

/-- MotionAnalysesPairs: the last row group of the second keyframe, and of the pair at each engine. -/
theorem witness_pyramid : let s := moving false (aPair [] [] [] false) [(0, 0, [1, 0]), (0, 1, [0])] id
    s.laneTakes 0 1 = true ∧ 1 < (s.stream 0).p.groups ∧ (s.stream 0).motionKeys = [keyA] ++ keyB false :: [] ∧
    1 ∈ s.pyramidDone 0 0 ∧ 1 ∉ s.pyramidDone 0 1 ∧ min (4 * 1 + 3) ((s.stream 0).p.renH - 1) < 64 * (keyB false).slices ∧
    (∀ q ∈ s.motion.pairs, q.stream = 0 → q.a = 1 ∨ q.b = 1 → q.resumeAt ≤ s.clock.clap) ∧
    s.passes .motion (s.keyRanges 0 1) [] = true ∧ s.passes .motion (s.pairRanges 0 (keyA, keyB false)) [] = true :=
  ⟨laneTakes_moving _ _ _ _ (by decide +kernel), by decide +kernel, by decide +kernel, by decide +kernel, by decide +kernel,
    by decide +kernel, by decide +kernel, by decide +kernel, by decide +kernel⟩

theorem witness_match : let s := moving false (aPair [0] [] [] false) [(0, 0, [1, 0]), (0, 1, [1, 0])] id
    s.laneTakes 0 1 = true ∧ (s.stream 0).motionPairs = [] ++ (keyA, keyB false) :: [] ∧ s.pairLive (s.pair 0 0 1) = true ∧
    1 ∉ (s.pair 0 0 1).blockDone ∧ coversRows (s.stream 0).p (s.pyramidDone 0 0) 0 8 = true ∧
    coversRows (s.stream 0).p (s.pyramidDone 0 1) (dependRows 4 0 (1 / 2) (1 / 2)).1 (dependRows 4 0 (1 / 2) (1 / 2)).2 = true :=
  ⟨laneTakes_moving _ _ _ _ (by decide +kernel), by decide +kernel, by decide +kernel, by decide +kernel, by decide +kernel,
    by decide +kernel⟩

theorem witness_census : let s := moving false (aPair [1, 0] [0] [] false) [] id
    s.laneTakes 0 1 = true ∧ s.pairLive (s.pair 0 0 1) = true ∧ 1 ∉ (s.pair 0 0 1).censusDone ∧
    coversRows (s.stream 0).p (s.pair 0 0 1).blockDone (8 * (1 / 2 - 1)) (8 * (1 / 2) + 15) = true :=
  ⟨laneTakes_moving _ _ _ _ (by decide +kernel), by decide +kernel, by decide +kernel, by decide +kernel⟩

/-- MotionRecordsWritten: a pair of frames, a cut, and rays. -/
theorem witness_records (cut : Bool) : let s := moving cut (aPair [1, 0] (if cut then [] else [1, 0]) [] false) [] id
    s.laneTakes 0 1 = true ∧ 1 < (s.stream 0).p.groups ∧ (s.stream 0).motionPairs = [] ++ (keyA, keyB cut) :: [] ∧
    s.pairLive (s.pair 0 0 1) = true ∧ 1 ∉ (s.pair 0 0 1).occDone ∧ s.planesFree 0 0 1 = true ∧
    s.passes .motion (s.pairRanges 0 (keyA, keyB cut)) ((s.stream 0).groupRecords 1) = true ∧
    (cut = true ∨ coversRows (s.stream 0).p (s.pair 0 0 1).censusDone (4 * 1 - 1028) (4 * 1 + 3 + 1028) = true) := by
  cases cut <;> exact ⟨laneTakes_moving _ _ _ _ (by decide +kernel), by decide +kernel, by decide +kernel, by decide +kernel,
    by decide +kernel, by decide +kernel, by decide +kernel, by decide +kernel⟩

/-- MotionRecordsWritten: planes apart and a clean memory, and a keyframe with a poisoned sector. -/
theorem witness_planes : let s := moving false (aPair [1, 0] [1, 0] [] false) [] fun p => p
    let x := { s.stream 0 with homes := { (s.stream 0).homes with records := [0x30_0000, 0x31_0000] } }
    x.motionRecordAt 0 (x.p.renW * x.p.renH) ≤ x.motionRecordAt 1 0 ∧ s.poison = [] ∧
    (s.poisonRange (s.colourAt 0 0 4 0) 32).keysPoisoned 0 1 0 1 = true := by
  decide +kernel

theorem witness_rays : let s := moving false (aPair [1, 0] [1, 0] [1, 0] true) [] fun p => { p with planes := 1 }
    s.laneTakes 0 1 = true ∧ (s.stream 0).motionPairs = [] ++ (keyA, keyB false) :: [] ∧ s.pairLive (s.pair 0 0 1) = true ∧
    1 ∉ (s.pair 0 0 1).rayDone ∧ s.castsRays 0 keyA (keyB false) = true ∧ keyA.proxy.isSome = true ∧
    (keyB false).proxy.isSome = true ∧ (s.pair 0 0 1).owns = true ∧
    coversRows (s.stream 0).p (s.pair 0 0 1).occDone 0 (4 * 1 + 3) = true ∧
    s.passes .motion (s.pairRanges 0 (keyA, keyB false) ++ (s.stream 0).groupRecords 1) ((s.stream 0).groupRecords 1) = true :=
  ⟨laneTakes_moving _ _ _ _ (by decide +kernel), by decide +kernel, by decide +kernel, by decide +kernel, by decide +kernel,
    by decide +kernel, by decide +kernel, by decide +kernel, by decide +kernel, by decide +kernel⟩

/-- Stream 0 with fallback store and tile map apart. -/
def shownBy (f : Frame) (batch : Bool) : Stream := { aStream batch with
  frames := [f], keys := [aKey 7 0, aKey 8 1]
  homes := { Homes.reset with fallback := [0x10_0000, 0x20_0000], tileMap := [0x8_0000, 0x9_0000] } }

/-- WarpWritesRows: the only tile row of a computed frame, and its done token. -/
theorem witness_warp :
    (let f := { aFrame 3 with kind := .computed }
     let s := with0 up (shownBy f false)
     let x := s.stream 0
     s.frame? 0 3 = some f ∧ s.motion.stopped = false ∧ f.warped = true ∧ f.closed = false ∧ 0 < x.p.rows ∧ 0 ∉ f.written ∧
     x.warpTurn f 0 = true ∧ x.state = .running ∧ (x.key? f.keyB).isSome ∧ f.kind ≠ .tween ∧
     s.passes .warp (s.warpReads 0 f) (x.warpWrites f 0) = true ∧ x.p.rowTiles 0 = [] ++ 0 :: [] ∧ s.mapByte 0 f.half 0 1 = 0 ∧
     s.warpRoom 0 = true ∧ s.poison = [] ∧
     (∀ u ∈ x.p.rowTiles 0, ∀ v ∈ x.p.rowTiles 0, x.entryByte f.half u 1 < headerAt (x.homes.fallback.getD f.half 0) v ∧
       x.entryByte f.half u 1 < tileSlotAt (x.homes.fallback.getD f.half 0) x.p.tileCount (bppOf x.p.colour) v)) ∧
    (let f := { aFrame 3 with written := [0] }
     let s := with0 (moving false (aPair [1, 0] [1, 0] [1, 0] true) [] id)
       { (moving false (aPair [] [] [] false) [] id).stream 0 with frames := [f] }
     s.frame? 0 3 = some f ∧ f.kind.reelRun = true ∧ 0 ∈ f.written ∧ ((s.stream 0).pairOf f).all (fun q => !(s.pair 0 q.1.slot q.2.slot).failed) = true ∧
       0 ∉ f.doneRows ∧ ((0 : Fin 1024).val, 3, 0) ∉ s.motion.tokens ∧ s.recordsFinal 0 f 0 = true) := by
  decide +kernel

/-- WarpWritesRows: a BATCH stream alone. -/
theorem witness_warp_batch : let s := with0 up (shownBy { aFrame 3 with kind := .computed } true)
    (s.stream 0).p.batch = true ∧ s.deadlineRow = false :=
  ⟨by decide +kernel, no_deadlineRow (openStreams_with0 _ _ rfl (by decide)) (by decide +kernel)⟩

/-! ## Witnesses: sequencer and array island -/

/-- A matrix product of one element with a weight of the reel. -/
def aStep : Step := ⟨.matmul (some ⟨1, 1, 1, .int8, [1], []⟩), [.slot 0], none, 1, 1, 1, 1, 0, 0, 1, 1, [], false,
  ⟨.float ⟨[], [], none, .none⟩, 0, false, false, 1, false, none⟩, [15], [0], true, false, .local_⟩

def stepped : LoadedReel := { loaded with content := { aReel with key := [aStep], tween := [aStep] }, positions := [35] }

/-- BeatBoundaryTurns and SheetsSealedAndArrive: no sheet on the crossing; a draft of the next sheet, with a credit and without one. -/
theorem witness_sheets : up.clock.running = true ∧ up.seq.inflight = [] ∧ up.firmwareUp = true ∧ up.seq.sealed ≠ up.beat + 1 ∧
    up.slotHeld (.region 18) = false ∧ up.drafted (up.beat + 1) = false ∧ up.sheetCredits ≠ 0 ∧ up.beat = 1000 ∧
    (let sh := sheetOf 1001 false [anEntry 1 1001]
     let s := { up with seq := { up.seq with draft := some (sh, []) } }
     s.seq.draft = some (sh, []) ∧ sh.beat = 1001 ∧ s.sheetCredits ≠ 0 ∧
       { s with seq := { s.seq with inflight := [sheetOf 999 false [], sheetOf 1000 false []] } }.sheetCredits = 0) ∧
    (∀ m ∈ [999, 1000, 1001], (sheetOf m false [anEntry 1 m]).beat = m) ∧
    (∀ m ∈ [1001, 1002], let s := { up with arr := { up.arr with next := some (sheetOf m false []) } }
      s.arr.next = some (sheetOf m false []) ∧ ((sheetOf m false []).beat = 1001 ∨ (sheetOf m false []).beat ≠ 1001)) := by
  decide +kernel

/-- SheetsSealedAndArrive: a draft with cued work, whose input stands in two packets of its owner's memory. -/
theorem witness_cued_sheet : let f : CueFill := ⟨0, .slot 0, [(0x1000, 300)], false⟩
    let e := { anEntry 1 1001 with owner := some (1, 7), fills := [f] }
    let sh := sheetOf 1001 false [e]
    let s := { up with seq := { up.seq with draft := some (sh, []) } }
    s.firmwareUp = true ∧ s.seq.sealed ≠ s.beat + 1 ∧ s.seq.draft = some (sh, []) ∧ sh.beat = s.beat + 1 ∧
    (∃ x ∈ sh.entries, x.owner.isSome = true) ∧ s.sheetCredits ≠ 0 ∧ e.tiles[f.tile]? = some ⟨0, 0, 0⟩ ∧ (fillPackets f).length = 2 := by
  decide +kernel

/-- The entry at the head of the current sheet, with its operand in the bench of its block. -/
def taking (e : Entry) (fin : List (Nat × Nat)) (r : Option Running) : State := { up with
  arr := { up.arr with left := [e], finals := fin, running := r, repaired := some 512 }, reels := [stepped]
  bench := [⟨⟨0, 0, 0⟩, .slot 0, ⟨1, 1, 1, .int8, [1], []⟩, [35], none, false, [(benchAddr 35, 32)], 0, none⟩] }

/-- TakeAdmitted: an entry that may start, one whose predecessor failed, and a third run that waits for the spare's bench. -/
theorem witness_admit : (let s := taking (anEntry 1 1000) [] none
      s.arr.head = some (anEntry 1 1000) ∧ s.arr.running = none ∧ s.arr.doomed (anEntry 1 1000) = false ∧ s.reel? 9 = some stepped ∧
      s.stepOf (anEntry 1 1000) = some aStep ∧ s.admissible (anEntry 1 1000) stepped aStep = true ∧
      s.takeBanks (anEntry 1 1000) stepped aStep = [.bench 35 15, .bench 35 0]) ∧
    (let e := { anEntry 1 1000 with deps := [0] }
     (taking e [(0, 3)] none).arr.head = some e ∧ (taking e [(0, 3)] none).arr.running = none ∧
       (taking e [(0, 3)] none).arr.doomed e = true ∧ (taking e [(0, 3)] none).tokenCredit = true) ∧
    (let r : Running := ⟨anEntry 1 1000, 3, 0, 0, [35], [35], [(35, 3)], true, []⟩
     (taking (anEntry 2 1000) [] (some r)).arr.running = some r ∧ r.waitRefill = true) := by
  decide +kernel

/-- A first run; a second and a third after mismatches of block 35, the third with block 0 in its place. -/
def firstRun : Running := ⟨anEntry 1 1000, 1, 0, 0, [], [], [], false, []⟩
def secondRun : Running := { firstRun with run := 2, firstBad := [35] }
def thirdRunOf : Running := { firstRun with run := 3, firstBad := [35], secondBad := [35], substituted := [(35, 0)] }

/-- TakeAdmitted: the only operand stands in the bench of the block taken out, and in no spare's. -/
theorem witness_refill : let h : HeldTensor := ⟨⟨0, 0, 0⟩, .slot 0, ⟨1, 1, 1, .int8, [1], []⟩, [35], none, false, [(benchAddr 35, 32)], 1, none⟩
    let r := { thirdRunOf with waitRefill := true, operands := [h] }
    let s := { taking (anEntry 2 1000) [] (some r) with bench := [h] }
    s.arr.running = some r ∧ r.waitRefill = true ∧ (∀ k ∈ s.bench, k = h) ∧ benchAddr 35 + 32 ≤ benchAddr 35 + Config.benchSize ∧
    (∀ h ∈ s.bench, ∀ x ∈ h.at_, ∀ p ∈ r.substituted, x.1 + x.2 ≤ benchAddr p.2 ∨ benchAddr p.2 + Config.benchSize ≤ x.1) := by
  decide +kernel

/-- TakeEnds: the second run repeats the mismatch of block 35, with spares and with none left, or shows one of another block; the third
shows one of the spare; a first run meets an uncorrectable error in the last row of a bank. -/
theorem witness_runs : let badBlock (b : Fin 36) : TakeSeen := ⟨[⟨b, 1023, 1⟩], [], [], []⟩
    let lone (s : State) : State := { s with units := { s.units with blocks := (Vector.replicate 36 ⟨true, false, false, []⟩).set 35 (s.block 35) } }
    let on (r : Running) : State := taking (anEntry 2 1000) [] (some r)
    (∀ r ∈ [firstRun, secondRun, thirdRunOf], ∀ s ∈ [on r, lone (on r)], s.arr.running = some r ∧ r.waitRefill = false ∧ s.tokenCredit = true ∧
      s.egressFree r.entry = true ∧ s.arr.held = [] ∧ r.entry.freq = false) ∧
    badUnits ((on secondRun).seenBy secondRun.entry (badBlock 35)) = [35] ∧ 35 ∈ secondRun.firstBad ∧ (on secondRun).spares.head? = some 0 ∧
    (lone (on secondRun)).spares = [] ∧ (lone (on secondRun)).lastBlock 35 = true ∧ (lone (on secondRun)).err.halted = false ∧
    badUnits ((on secondRun).seenBy secondRun.entry (badBlock 34)) = [34] ∧ 34 ∉ secondRun.firstBad ∧
    badUnits ((on thirdRunOf).seenBy thirdRunOf.entry (badBlock 0)) = [0] ∧ (35, 0) ∈ thirdRunOf.substituted ∧
    (on thirdRunOf).slotHeld (.cell 0) = false ∧ (on thirdRunOf).lastBlock 0 = false ∧
    (let seen : TakeSeen := ⟨[], [], [], [⟨.bench 35 15, 1023, true⟩]⟩
     badUnits ((on firstRun).seenBy firstRun.entry seen) = [] ∧ (on firstRun).slotHeld (.block 35) = false) := by
  decide +kernel

/-- TakeEnds: a clean run, one that read poison, and a first run with a mismatch of the last cell of block 35. -/
theorem witness_end : let r := firstRun
    let s := taking (anEntry 2 1000) [] (some r)
    s.arr.running = some r ∧ r.waitRefill = false ∧ r.run = 1 ∧ s.tokenCredit = true ∧ s.egressFree r.entry = true ∧ s.nothingWaits ∧
    (∀ rl st, s.reel? r.entry.reel = some rl → s.stepOf r.entry = some st → ∀ u ∈ r.entry.tiles,
      s.passes (.egress (s.egressOf rl u)) [] (s.outRanges rl r.entry st u) = true) ∧
    badUnits (s.seenBy r.entry ⟨[], [], [], []⟩) = [] ∧ s.readsPoison r.entry (s.seenBy r.entry ⟨[], [], [], []⟩) = false ∧
    { s with arr := { s.arr with tainted := [1] } }.readsPoison r.entry ⟨[], [], [], []⟩ = true ∧
    badUnits (s.seenBy r.entry ⟨[⟨35, 1023, 1⟩], [], [], []⟩) ≠ [] := by
  refine ⟨by decide +kernel, by decide +kernel, by decide +kernel, by decide +kernel, by decide +kernel, by decide +kernel, ?_,
    by decide +kernel, by decide +kernel, by decide +kernel, by decide +kernel⟩
  intro rl st h1 h2
  have e1 : rl = stepped := Option.some.inj (h1.symm.trans (by decide +kernel))
  have e2 : st = aStep := Option.some.inj (h2.symm.trans (by decide +kernel))
  subst e1 e2
  decide +kernel

def remote1 : Remote := ⟨1, 1, false, some (plainToken 1 0 5)⟩

/-- TokensAndExchanges: a token of the crossing, the last part of a member and one before it. -/
theorem witness_tokens : ∀ r ∈ [remote1, { remote1 with left := 2 }],
    let s := { up with seq := { up.seq with tokens := [plainToken 1 0 5], remote := [r] } }
    s.seq.tokens = plainToken 1 0 5 :: [] ∧ s.seq.remote = [] ++ r :: [] ∧ r.takeId = (⟨1, 0, 100, [(0, 0, 0)]⟩ : RemoteToken).takeId ∧ 0 < r.left := by
  decide +kernel

/-- TokensAndExchanges in a set of three: partial states, the first and the last phase out, the last phase back. -/
theorem witness_exchange : ∀ x ∈ [⟨1, [], 1, false, 0, true⟩, ⟨1, [], 1, false, 0, false⟩, ⟨1, [], 2, false, 0, false⟩,
      (⟨1, [], 2, true, 0, false⟩ : Exchange)],
    let s := { inSet none [] with
      set := { (inSet none []).set with members := [0, 1, 2], exchanges := [x] }, arr := { up.arr with finals := [(1, 0)] } }
    s.set.exchanges = [] ++ x :: [] ∧ (x.takeId, 0) ∈ s.arr.finals ∧ s.seq.owed x.takeId = false ∧ s.set.unacknowledged x.takeId = false ∧
    s.arrived x = true ∧ s.nothingWaits ∧ s.set.members.length = 3 := by
  decide +kernel

/-- An expert step of two experts over the output of `aStep`, in a set of two. -/
def expertReel : LoadedReel :=
  let e : Sys2Proof.Step := { aStep with op := .expert [⟨1, 1, 1, .int8, [1], []⟩, ⟨1, 1, 1, .int8, [2], []⟩] 1 1, inputs := [.slot 0, .step 0], kind := .expert }
  { stepped with handle := 0, chips := 2, setScope := true, content := { aReel with tween := [aStep, e] } }

/-- The last phase back of its exchange, where the packets at the given addresses have been written. -/
def exchanging (landed : List Nat) : State :=
  { with0 (inSet none []) (shownBy { aFrame 3 with chips := 2, positions := [35] } false) with
    reels := [expertReel], arr := { up.arr with finals := [(1, 0)] }
    set := { (inSet none []).set with exchanges := [⟨1, [⟨0, 3, 0⟩], 1, true, 0, false⟩], landed := landed } }

/-- TokensAndExchanges: the rows of the expert whose home is the other chip have come back. -/
theorem witness_arrived : let x : Exchange := ⟨1, [⟨0, 3, 0⟩], 1, true, 0, false⟩
    let rs := ((exchanging []).incoming x expertReel ⟨0, 3, 0⟩).ranges 0
    let s := exchanging (rs.flatMap fun r => (packetsOf r.1 r.2).map (·.1))
    s.arrived x = true ∧ s.set.exchanges = [] ++ x :: [] ∧ s.set.members.length ≤ x.phase + 1 ∧ x.tiles = [⟨0, 3, 0⟩] ∧
    (x.tiles.head?.bind fun k => s.reel? (s.stream k.stream).p.reel) = some expertReel ∧
    ((exchanging []).incoming x expertReel ⟨0, 3, 0⟩).rows.map (·.2.2) = some [(1, 1)] := by
  refine ⟨?_, rfl, by decide +kernel, rfl, by decide +kernel, by decide +kernel⟩
  show (List.all _ _) = true
  simp only [List.all_cons, List.all_nil, Bool.and_true]
  generalize h : ((exchanging []).incoming _ expertReel ⟨0, 3, 0⟩).ranges 0 = rs
  show (List.all (((exchanging []).incoming _ expertReel ⟨0, 3, 0⟩).ranges 0) fun w =>
    SetState.hasLanded { (exchanging []).set with landed := rs.flatMap fun r => (packetsOf r.1 r.2).map (·.1) } w.1 w.2) = true
  rw [h]
  simp only [List.all_eq_true, SetState.hasLanded, List.contains_iff_mem, List.mem_flatMap, List.mem_map]
  exact fun r hr p hp => ⟨r, hr, p, hp, rfl⟩

/-- TokensAndExchanges: a cue for a split step, at the last member of a launched set. -/
theorem witness_cue : let r := { stepped with setScope := true, chips := 2, content := { aReel with tween := [{ aStep with kind := .split }] } }
    let s := { inSet none [] with set := { (inSet none []).set with epoch := some ⟨1, 900, [], [], [9]⟩ }, reels := [r] }
    let c : Cue := ⟨1, 0, [0], [420], [([], 0)], [0], [], 9, 0, 1, 1001, false, false⟩
    s.firmwareUp = true ∧ s.set.configured = true ∧ s.set.epoch.isSome ∧ c.owner.val ≠ s.set.index ∧
    c.owner.val < s.set.members.length ∧ s.reel? c.reel = some r ∧ r.setScope = true ∧ c.tiles ≠ [] ∧
    (reelSteps r.content c.keySeq)[c.step]? = some { aStep with kind := .split } ∧
    .share ∈ (r.shape s.set.index).partsRun { aStep with kind := .split } := by
  decide +kernel

/-! ## Witnesses: output frames, repair, moves -/

/-- TileRowLatched, FrameCloses, LateTilesAndVerdicts: the only row of a frame, the frame with its row latched, a print frame,
a tile without its output, a verdict whose source is to be written, a notice. -/
theorem witness_frames : (∀ gate ∈ [none, some 3], let s := with0 up { shownBy (aFrame 3) false with p := { aParams false with gate := gate } }
      s.frame? 0 3 = some (aFrame 3) ∧ (s.stream 0).p.batch = false ∧ (s.stream 0).state = .running ∧ 0 < (s.stream 0).p.rows ∧
      0 ∉ (aFrame 3).latched) ∧
    (let f := { aFrame 3 with latched := [0] }
     (with0 up (shownBy f false)).frame? 0 3 = some f ∧ ∀ r < (shownBy f false).p.rows, r ∈ f.latched) ∧
    (let f := { aFrame 3 with kind := .black }
     let s := with0 up (shownBy f true)
     (s.stream 0).frames = [] ++ f :: [] ∧ (s.ring 0 5).full = false ∧ (s.ring 0 2).full = false ∧ s.batchFrameReady 0 f = true) ∧
    (let s := { with0 up (shownBy (aFrame 3) false) with reels := [{ stepped with handle := 0 }] }
     (aFrame 3).tiles[0]? = some ⟨0, 0, [], false, false⟩ ∧ s.reel? (s.stream 0).p.reel = some { stepped with handle := 0 } ∧
       0 < (s.frameUnitsOf { stepped with handle := 0 } (aFrame 3)).length ∧ s.seq.tokens ++ s.seq.received = []) ∧
    (∀ late ∈ [0, 1], let s := { (with0 up (shownBy (aFrame 3) false)).setMapByte 0 0 0 4 late with
        chk := { up.chk with phase := .run, pendingSource := [⟨0, 3, 0, 900⟩], notices := [(0, 5)] } }
     s.chk.pendingSource = [⟨0, 3, 0, 900⟩] ∧ s.chk.phase = .run ∧ s.frame? 0 3 = some (aFrame 3) ∧ s.mapByte 0 0 0 4 % 2 = late ∧ s.chk.notices = [(0, 5)] ∧
       s.passes .continuity (s.mapEntry 0 (aFrame 3) 0) (s.mapEntry 0 (aFrame 3) 0) = true ∧
       s.firmwareUp = true) := by
  decide +kernel

/-- TileRowLatched: a tile with a composite, with a ready fallback tile, with a generated source but no fallback tile, after a frame that
showed its own tile, and with the source of a black frame before it. -/
theorem witness_sources : let l (from_ : Nat) : LatchedFrame := ⟨2, [⟨0, 0, none, from_, 0, 7⟩]⟩
    ∀ d ∈ [(0, 1, 1, ([] : List LatchedFrame)), (0, 1, 0, []), (1, 0, 0, [l 1]), (2, 0, 0, [l 4]), (3, 0, 0, [])],
      let x := { shownBy (aFrame 3) false with p := { aParams false with gate := some 3 }, shown := d.2.2.2 }
      let s := (((with0 up x).setMapByte 0 0 0 0 d.1).setMapByte 0 0 0 1 d.2.1).setMapByte 0 0 0 5 d.2.2.1
      s.frame? 0 3 = some (aFrame 3) ∧ s.mapByte 0 0 0 0 % 8 = d.1 ∧ s.mapByte 0 0 0 1 % 2 = d.2.1 ∧ s.mapByte 0 0 0 5 % 2 = d.2.2.1 ∧
      (s.stream 0).shown = d.2.2.2 ∧ 0 ∈ (s.stream 0).p.rowTiles 0 ∧ (s.stream 0).lists = [] := by
  decide +kernel

/-- FrameCloses: a frame with nothing to report, and a completion ring whose slots lie outside its descriptor. -/
theorem witness_close_quiet : let f := { aFrame 3 with latched := [0] }
    let s := ringed (shownBy f false) 2 128 4 0 0 []
    s.frame? 0 3 = some f ∧ f.closed = false ∧ (∀ r < (s.stream 0).p.rows, r ∈ f.latched) ∧ s.lateCount 0 f.half = 0 ∧ f.motionLate = 0 ∧
    f.passesMax ≤ 1 ∧ f.overlayLate = 0 ∧ s.decisions? 0 = none ∧ (s.stream 0).lists = [] ∧ s.tensorRingsOf 0 = [] ∧
    (s.ring 0 2).entryBytes ≠ 0 ∧ (s.ring 0 2).full = false ∧
    ((s.ring 0 2).slotAt (s.ring 0 2).producer + 128 ≤ (s.ring 0 2).at_ + 16 ∨ (s.ring 0 2).at_ + 28 ≤ (s.ring 0 2).slotAt (s.ring 0 2).producer) := by
  decide +kernel

/-- RowsAndPagesRepaired: the repair window, a marked row of MOTION scratch, patrol of the last sectors of a stack and of a free page. -/
theorem witness_repair : up.clock.running = true ∧ up.arr.running = none ∧ up.arr.repaired = none ∧ up.units.marks = [] ∧
    (let m : RowMark := ⟨.motion 7, 255, 2, true, true⟩
     { up with units := { up.units with marks := [m] } }.units.marks = [] ++ m :: [] ∧ m.marked = true ∧ onArrays m.bank = false) ∧
    (3 : Fin 4).val < Config.stackCount up.fuses.grade ∧ Config.dramEnd up.fuses.grade - 0x30_0001 < Config.dramEnd up.fuses.grade ∧
    stackOf up.fuses.grade (Config.dramEnd up.fuses.grade - 0x30_0001) = 3 ∧ stackOf up.fuses.grade 0x1234_5478 = 3 ∧
    up.pool.pageErrors = [] ∧ up.pageKnown (pageOf 0x1234_5478) = false ∧ up.pageAllocs (pageOf 0x1234_5478) = [] ∧
    pageOf 0x1234_5478 < Config.firmwareBase up.fuses.grade ∧ up.pool.retired.length < 512 ∧ up.pool.candidates = [] ∧
    up.mbox.deferred = [] ∧ up.slotHeld (.region (14 + 3)) = false := by
  decide +kernel

/-- RowsAndPagesRepaired: the last row of a bench and of a stage bank marked, with every spare row free, with one left, and with none; the
block of the bank mapped, and a spare for it. -/
theorem witness_marked : ∀ bank ∈ [BankId.bench 35 15, .stage 8 23], ∀ n ∈ [0, spareRowsOf bank - 1, spareRowsOf bank],
    let m : RowMark := ⟨bank, 127, 2, true, true⟩
    let s := { up with
      reels := [stepped]
      units := { up.units with marks := [m], repairs := (List.range n).map fun k => ⟨bank, k, k⟩ } }
    s.clock.running = true ∧ s.arr.running = none ∧ s.arr.repaired ≠ some (s.beat / 512 * 512) ∧ m ∈ s.units.marks ∧ onArrays m.bank = true ∧
    s.freeRow bank = (if n = spareRowsOf bank then none else some n) ∧ s.slotHeld (.block 35) = false ∧ (s.block 35).retired = false ∧
    s.mappedBlock 35 = true ∧ s.spares.head? = some 0 ∧ s.slotHeld (.region 8) = false ∧ (8, 23) ∉ s.units.stagePending ∧
    (8, 23) ∉ s.units.stageOut := by
  decide +kernel

/-- DollyMoveEnds: a fill of the last sectors of an open window, a copy onto them, and a fill of the last bank of a bench that the running
take owns. -/
theorem witness_move : (let s := { up with wall := { up.wall with windows := [⟨0, 0, 0xFFFF, 0xFFFF⟩] } }
     s.err.halted = false ∧ s.moveWaits ⟨15, .fill 0xFFC0 64 (zeros 32), .other, false⟩ = false ∧
       s.allows (.dolly 15) true 0xFFC0 64 = true ∧ (zeros 32).length = 32 ∧
       s.moveWaits ⟨15, .copy 0 0xFFC0 64 [], .other, false⟩ = false ∧ s.allows (.dolly 15) false 0 64 = true ∧ s.poison = []) ∧
    (let s := taking (anEntry 2 1000) [] (some ⟨anEntry 1 1000, 1, 0, 0, [], [], [], false, []⟩)
     { s with arr := { s.arr with owned := [.bench 35 15] } }.moveWaits
       ⟨15, .fill (benchAddr 35 + 16 * 0x2_0000 - 32) 32 (zeros 32), .fillAck 2, true⟩ = true) := by
  decide +kernel

/-- A take is known whose image the engines bring from the working stores to the bench of block 35. -/
def feeding : State := { up with reels := [stepped], seq := { up.seq with known := [anEntry 1 1001] } }

/-- DollyMoveEnds: a copy in two strided dimensions, a multicast across two stage banks, an expansion of a whole segment into a bench, the
last tile of a store encoded and decoded, and a copy that feeds a take. -/
theorem witness_moves : feeding.err.halted = false ∧ feeding.chipInReset = false ∧ feeding.poison = [] ∧
    (∀ m ∈ [Move.copy 0x1000 0x8000 64 [⟨2, 0x100, 0x40⟩, ⟨2, 0x20, 0x200⟩], .multicast 0x1000 0x3_FFE0 64, .expand 0x1000 (benchAddr 35) 256,
        .encode 0x1000 0x4_0000 2 1 1 0, .decode 0x4_0000 2 1 1 0x20_0000 0,
        .copy (Config.stageBase + 8 * Config.stageSize + 0x40_0000) (benchAddr 35) 32 []],
      feeding.moveKnown m = true ∧ m.aligned = true ∧ (∀ why bad, feeding.moveWaits ⟨15, m, why, bad⟩ = false) ∧
      (∀ r ∈ (feeding.moveRanges m).1, feeding.allows (.dolly 15) false r.1 r.2 = true) ∧
      (∀ r ∈ (feeding.moveRanges m).2, feeding.allows (.dolly 15) true r.1 r.2 = true)) ∧
    (let rs := (strideRuns 0x1000 0x8000 [⟨2, 0x100, 0x40⟩, ⟨2, 0x20, 0x200⟩]).map fun r => (r.1, r.2, 64)
     rs.Pairwise fun x y => (x.2.1 + x.2.2 ≤ y.2.1 ∨ y.2.1 + y.2.2 ≤ x.2.1) ∧ (x.2.1 + x.2.2 ≤ y.1 ∨ y.1 + y.2.2 ≤ x.2.1)) ∧
    (let rs := ((List.range 9).flatMap fun k => feeding.stageRuns k 0x3_FFE0 64).map fun r => (0x1000 + r.1, r.2.1, r.2.2)
     (rs.Pairwise fun x y => (x.2.1 + x.2.2 ≤ y.2.1 ∨ y.2.1 + y.2.2 ≤ x.2.1) ∧ (x.2.1 + x.2.2 ≤ y.1 ∨ y.1 + y.2.2 ≤ x.2.1)) ∧
       ∀ r ∈ rs, feeding.allows (.dolly 15) false r.1 r.2.2 = true) ∧
    (let e := anEntry 1 1001
     feeding.seq.known.find? (fun x => x.takeId == 1) = some e ∧ feeding.reel? e.reel = some stepped ∧ feeding.stepOf e = some aStep ∧
       feeding.imageFed e stepped (.copy (Config.stageBase + 8 * Config.stageSize + 0x40_0000) (benchAddr 35) 32 []) = [(35, 32)]) := by
  refine ⟨by decide +kernel, by decide +kernel, by decide +kernel, fun m hm => ⟨?_, ?_, fun why bad => ?_, ?_, ?_⟩, by decide +kernel,
    by decide +kernel, by decide +kernel⟩
  case refine_3 =>
    show feeding.moveWaits ⟨15, m, .other, false⟩ = false
    revert m
    decide +kernel
  all_goals
    revert m
    decide +kernel

/-- DollyMoveEnds: a window that lets the engine read and not write, and one that lets it write and not read. -/
theorem witness_denied : ∀ w ∈ [(0xFFFF, 0), (0, 0xFFFF)],
    let s := { up with wall := { up.wall with windows := [⟨0, 0xFF_FFFF, w.1, w.2⟩] } }
    s.allows (.dolly 15) false 0 64 = (w.1 != 0) ∧ s.allows (.dolly 15) true 0xFFC0 64 = (w.2 != 0) ∧ s.slotHeld (.region 18) = false := by
  decide +kernel

/-! ## Witnesses: errors and the checker -/

/-- ErrorEntersSlot: every cause of the three groups finds its slot free on an idle chip. -/
theorem witness_causes : (∀ c ∈ [Cause.residue, .joinResidue, .transformSumcheck, .benchUncorrectable, .stageUncorrectable,
      .stageRowsExhausted, .dramUncorrectable, .bootFallback, .blockTestFail, .benchRowsExhausted, .motionFault, .overlayFault,
      .lineBufferUncorrectable, .spliceHopLimit, .fabricIntegrity, .tagTimeout, .controlWatchdog, .firmwareUncorrectable, .clapperFault,
      .accessViolation],
      (causeSlot c 0).any (fun x => !up.slotHeld x) = true ∧ up.causeUnitOk c 0 = true) ∧
    causeSlot .sramUncorrectable 18 = some (.region 18) ∧ up.causeUnitOk .sramUncorrectable 18 = true ∧ up.slotHeld (.region 18) = false := by
  decide +kernel

/-- ErrorEntersSlot: the last byte of a bank of each kind of SRAM; a page of DRAM with nothing on it, and one with the bytes of a tensor. -/
theorem witness_places : (∀ d ∈ [(rowAddress (.bench 35 15) 127 + 1023, BankId.bench 35 15, 127, Cause.benchUncorrectable, 35),
        (rowAddress (.stage 8 23) 255, .stage 8 23, 255, .stageUncorrectable, 8), (rowAddress (.motion 7) 1, .motion 7, 1, .sramUncorrectable, 9),
        (rowAddress (.lineBuffer 3 0) 0, .lineBuffer 3 0, 0, .lineBufferUncorrectable, 3), (rowAddress (.control 0) 5, .control 0, 5, .sramUncorrectable, 18)],
      bankAt d.1 = some (d.2.1, d.2.2.1) ∧ (causeSlot d.2.2.2.1 d.2.2.2.2).any (fun x => !up.slotHeld x) = true ∧
      up.testTakes d.2.2.2.1 d.2.2.2.2 = false) ∧
    (∀ al ∈ [[], [(⟨0x1234_0000, 64, .tensor 5⟩ : Alloc)]], let a := 0x1234_5478
      let s := { up with pool := { up.pool with allocs := al } }
      a < Config.dramEnd s.fuses.grade ∧ stackOf s.fuses.grade a = 3 ∧ 3 < Config.stackCount s.fuses.grade ∧ s.slotHeld (.region (14 + 3)) = false ∧
      pageOf a < Config.firmwareBase s.fuses.grade ∧ s.pageKnown (pageOf a) = false ∧ s.pool.retired.length < 512 ∧
      (al = [] → s.pageAllocs (pageOf a) = []) ∧ (al ≠ [] → s.pageAllocs (pageOf a) ≠ [] ∧ s.pageUsers (pageOf a) = [])) ∧
    bankAt (rowAddress (.stage 8 23) 255) = some (.stage 8 23, 255) ∧ (8, 23) ∉ up.units.stagePending ∧ (8, 23) ∉ up.units.stageOut := by
  decide +kernel

/-- ErrorEntersSlot and WatchdogsAct: each cause's slot free and held. -/
theorem witness_errors : (∀ c ∈ [Cause.fallbackRecordCrc, .sheetLate, .dailiesMismatch], ∃ k ∈ [9, 18, 19], causeSlot c 0 = some (.region k) ∧
      up.slotHeld (.region k) = false ∧
      { up with err := { up.err with slots := [⟨.region k, c, 0, .spliceEvent, none⟩] } }.slotHeld (.region k) = true) ∧
    up.slotHeld .chip = false ∧ up.err.halted = false ∧
    (∀ who ∈ [Requester.dolly 15, .splice 5], let h : TagHold := ⟨16383, who, 400_000⟩
     let s := { up with tags := [h], arr := { up.arr with held := [⟨15, .fill 0 32 (zeros 32), .other, false⟩] } }
     s.tags.find? (fun x => x.tag == (16383 : Fin 16384).val) = some h ∧ s.nothingWaits ∧ s.slotHeld .chip = false) ∧
    ∀ h ∈ up.tags, h.tag ≠ 0 := by
  decide +kernel

def deciding : Decisions := ⟨0, none, true, false, [], [], [], [], [], [], none, [], 0, none, 0, []⟩

/-- Phase RUN with decision state for stream 0. -/
def checking (d : Decisions) (rec_ : List Byte) (kind : Nat) : State := { with0 up (shownBy (aFrame 3) false) with
  chk := { up.chk with phase := .run, safe := false, cause := 0, streams := [d], fromArray := [(rec_, false)], fromFabric := [(rec_, kind, false)] } }

/-- A record of tile 0 of frame 3, intact. -/
def aRecord : List Byte := sealed32 (zeros 4 ++ leBytes 4 3 ++ zeros 24)

/-- GeneratedTileJudged: a tile without a verdict, one that has it, and the checker outside RUN. -/
theorem witness_judged : (let s := checking deciding aRecord 0
      s.chk.fromArray = (aRecord, false) :: [] ∧ s.chk.phase = .run ∧ s.decisions? (leNat aRecord 0 2) = some deciding ∧
      s.recordFrame aRecord = some (aFrame 3) ∧ (aFrame 3).kind.reelRun = true ∧ leNat aRecord 8 2 < (aFrame 3).tiles.length ∧
      s.mapByte 0 0 0 2 % 2 = 0 ∧ (s.setMapByte 0 0 0 2 1).mapByte 0 0 0 2 % 2 = 1 ∧
      s.passes .continuity (s.mapEntry 0 (aFrame 3) 0) (s.mapEntry 0 (aFrame 3) 0) = true) ∧
    up.chk.phase ≠ .run := by
  decide +kernel

/-- FabricCrossingChecked: an intact record of each kind; then one with a wrong CRC, which is a region fault. -/
theorem witness_fabric : ∀ kind < 3, let s := checking deciding aRecord kind
      s.chk.phase = .run ∧ s.chk.fromFabric = (aRecord, kind, false) :: [] ∧ s.chk.fabricWait = [] ∧ recordIntact aRecord = true ∧
      s.decisions? (leNat aRecord 0 2) = some deciding ∧ deciding.safety = true ∧ s.chk.records = [] ∧
      s.recordLate aRecord = false ∧ leNat aRecord 3 1 = 0 ∧ leNat aRecord 0xC 4 = leNat aRecord 0x10 4 := by
  decide +kernel

theorem witness_bad_fabric : let bad := zeros 31 ++ [1]
    (checking deciding bad 0).chk.fromFabric = (bad, 0, false) :: [] ∧ recordIntact bad = false ∧ (checking deciding bad 0).slotHeld (.region 9) = false ∧
      (checking deciding bad 1).decisions? (leNat bad 0 2) = some deciding ∧ deciding.regionFrames = [] := by
  decide +kernel

/-- FabricCrossingChecked: a faulty region record after two faulty frames, on a stream with a tolerance table and on one without. -/
theorem witness_region_trips : ∀ tol ∈ [none, some (zeros 32)], let bad := zeros 31 ++ [1]
    let d := { deciding with tolerance := tol, regionFrames := [(9, true), (8, true)] }
    (checking d bad 1).decisions? (leNat bad 0 2) = some d ∧ recordIntact bad = false ∧
      (∀ f ∈ d.regionFrames, f.1 = leNat bad 4 4 → f.2 = false) ∧
      historyTrips (((noteFrame (leNat bad 4 4) true d.regionFrames).take 64).map (·.2)) = some 0 := by
  decide +kernel

/-- FabricCrossingChecked: the record of either class finds a slot. -/
theorem witness_slots (s : State) (h : s.chk.records = []) (batch : List Byte → Bool) :
    ((s.chk.records.filter fun r => !sameTile aRecord r).filter fun r => batch r == batch aRecord).length <
      (if batch aRecord then Config.recordSlotsBatch else Config.recordSlotsDeadline) := by
  rw [h]; split <;> simp [Config.recordSlotsBatch, Config.recordSlotsDeadline]

/-- ReadbackAndDailiesChecked: records of the frame being read back (a wrong CRC, a tile, the end of a clean frame), and of the
portion in progress (one that matches, one that does not). -/
theorem witness_readback : (let d := { deciding with rbFrame := some 3, rbTiles := [0], rbCount := 1 }
     let last := sealed32 ([0, 0, 0, 32] ++ leBytes 4 3 ++ zeros 12 ++ leBytes 4 1 ++ zeros 4)
     ∀ rec_ ∈ [aRecord, last, zeros 31 ++ [1]],
      let s := { checking d rec_ 0 with
        gates := up.gates.set 3 { Gate.reset with holder := some 0 }
        chk := { (checking d rec_ 0).chk with fromGate := up.chk.fromGate.set 3 [rec_] } }
      s.chk.phase = .run ∧ s.chk.fromGate[(3 : Fin 4).val] = rec_ :: [] ∧ (s.gate 3).holder = some 0 ∧ s.decisions? 0 = some d ∧
      (rec_ = aRecord → recordIntact rec_ = true ∧ d.rbFrame = some (leNat rec_ 4 4) ∧ bitOf (leNat rec_ 3 1) 5 = false) ∧
      (rec_ = last → recordIntact rec_ = true ∧ d.rbFrame = some (leNat rec_ 4 4) ∧ bitOf (leNat rec_ 3 1) 5 = true ∧
        (∀ u < (s.stream 0).p.tileCount, u ∈ d.rbTiles) ∧ leNat rec_ 0x14 4 = d.rbCount ∧ d.rbWorst = 0) ∧
      (rec_ = zeros 31 ++ [1] → recordIntact rec_ = false)) ∧
    (let good := sealed32 (leBytes 2 9 ++ leBytes 2 0 ++ zeros 4 ++ leBytes 8 77 ++ zeros 8)
     let say : Dailies := ⟨9, 0, true, false, [(0, 0, 77)], 1024, [1], false, false, false, none⟩
     let ok (rec_ : List Byte) := recordIntact rec_ && leNat rec_ 0 2 == say.reel && leNat rec_ 2 2 == say.portion &&
       say.expected.any fun e => (e.1 == leNat rec_ 4 1 && e.2.1 == leNat rec_ 5 1) && e.2.2 == leNat rec_ 8 8
     ok good = true ∧ ok aRecord = false ∧ say.active = true ∧ say.takesLeft ≠ [] ∧ say.mismatch = false ∧ say.failed = false ∧
       up.slotHeld (.region 19) = false) := by
  decide +kernel

/-- CheckerPhases: phase ROM with step 6 and with step 7 behind it, phase RUN at a dailies beat. -/
theorem witness_phases : started.chk.phase = .rom ∧ started.fw.bootStep = 6 ∧ started.dev.fwPhase ≠ 4 ∧ started.clock.source = .internal ∧
    started.chipInReset = false ∧ (started.port 5).state = .disabled ∧ started.serviceCopy = none ∧
    (let s := { started with fw := { started.fw with bootStep := 7 } }
     s.chk.phase = .rom ∧ 6 < s.fw.bootStep ∧ s.dev.fwPhase ≠ 4 ∧ { s.chk with phase := .run }.phase ≠ .rom) ∧ (started.chk.cause &&& ~~~ 0x40).toNat % 64 = 0 ∧
    ((0x41 : Word32) &&& ~~~ 0x40).toNat % 64 ≠ 0 ∧ ¬ 6 ≤ State.reset.fw.bootStep ∧
    (let s := checking deciding [] 0
     s.chk.phase = .run ∧ { s with clock := { s.clock with clap := 512_000 } }.beat % 512 = 0) := by
  decide +kernel

/-- SafeAckActs: the first edge, an edge one eighth too early, one that is just late enough; SAFE_STATE with no acknowledgement,
and SAFE_ACK high while it is released. -/
theorem witness_ack : (∀ last ∈ [none, some (4_000_000 - 20_000), some (4_000_000 - 19_999)],
      let x : Input := ⟨.safeAck, false, false, last⟩
      let s := up.setInput x
      x ∈ s.inputs ∧ s.input .safeAck = x ∧ 17 ≤ (⟨true, 17, 0⟩ : Edge).samples ∧
      (last ≠ some (4_000_000 - 19_999) → ∀ l ∈ last, l + 20_000 ≤ 8 * s.clock.clap + 0) ∧
      (last = some (4_000_000 - 19_999) → 8 * s.clock.clap + 0 < (4_000_000 - 19_999) + 20_000)) ∧
    up.chk.safe = true ∧ up.chk.ackSeen = false ∧ up.chk.blanking = false ∧ up.chipInReset = false ∧
    (let s := { up with chk := { up.chk with safe := false } }.setInput ⟨.safeAck, true, true, none⟩
     s.chk.safe = false ∧ s.chk.ackStuck = false ∧ s.level .safeAck = true) := by
  decide +kernel

/-- SpiTarget: an accepted release, a read of sixteen registers, a write with a right and with a wrong CRC, a bad offset. -/
theorem witness_spi : (let s := { up with chk := { up.chk with phase := .run, ackSeen := true, cause := 0x100 } }
      s.chk.phase = .run ∧ s.chk.ackSeen = true ∧ s.chk.cause.toNat % 64 = 0) ∧
    spiBad [0x0B, 0, 0, 16] = false ∧ leNat [0x0B, 0, 0, 16] 0 1 = 0x0B ∧ spiBad [5, 0, 0, 1] = false ∧ leNat [5, 0, 0, 1] 0 1 = 5 ∧ spiBad [0x0B, 2, 0, 1] = true ∧
    (∀ o ∈ [0x0C, 0x10, 0x14, 0x1C], let bs := sealed32 ([2, BitVec.ofNat 8 o, 0, 1] ++ leBytes 4 0x5AFE)
      spiBad bs = false ∧ leNat bs 0 1 = 2 ∧ leNat bs 3 1 = 1 ∧ bs.length = 12 ∧ leNat bs 8 4 = crc32c (bs.take 8) ∧
      BitVec.ofNat 32 (leNat bs 4 4) = 0x5AFE ∧ leNat bs 1 2 = o) ∧
    (let bs := [2, 0x0C, 0, 1] ++ zeros 8
     spiBad bs = false ∧ leNat bs 8 4 ≠ crc32c (bs.take 8)) := by
  decide +kernel

/-- SpiTarget: writes of CHK_CAUSE, CHK_RELEASE and CHK_CHALLENGE at once, with a right and with a wrong CRC, and with a word too few; a
transaction of an opcode alone, and one of a bad offset alone; a chip held in reset. -/
theorem witness_spi_many : (let bs := sealed32 ([2, 0x0C, 0, 3] ++ leBytes 4 0xF ++ leBytes 4 0x5AFE ++ leBytes 4 7)
      spiBad bs = false ∧ leNat bs 0 1 = 2 ∧ leNat bs 3 1 = 3 ∧ bs.length = 8 + 4 * 3 ∧ leNat bs 1 2 = 0x0C ∧
      leNat bs (4 + 4 * 3) 4 = crc32c (bs.take (4 + 4 * 3))) ∧
    (let bs := [2, 0x0C, 0, 3] ++ zeros 16
     spiBad bs = false ∧ leNat bs (4 + 4 * 3) 4 ≠ crc32c (bs.take (4 + 4 * 3)) ∧ spiBad (bs.take 16) = false ∧ (bs.take 16).length < 8 + 4 * 3) ∧
    (∀ bs ∈ [([9] : List Byte), [0x0B], [2]], spiBad bs = false ∧ bs ≠ [] ∧ bs.length < 8 + 4 * leNat bs 3 1) ∧ spiBad [2, 1, 0] = true ∧
    up.chipInReset = false ∧ { up with board := { up.board with hold := .brownOut } }.chipInReset = true := by
  decide +kernel

/-- SafeStateReleasedOnly: CHECKER_START after step 7 of the boot releases it. -/
theorem witness_release : let s := { started with fw := { started.fw with bootStep := 7 } }
    ∃ t, exec .checkerStart s = .next t ∧ s.chk.safe = true ∧ t.chk.safe = false :=
  ⟨_, rfl, by decide +kernel, by decide +kernel⟩

/-! ## Witnesses: overlay and gates -/

def drawing (lists : List OverlayList) (rows : List RowBins) : State :=
  { with0 up { shownBy (aFrame 3) false with p := { aParams false with overlayArea := 0x10_0000 }, lists := lists } with ovl := ⟨rows, [], false⟩ }

def aList : OverlayList := ⟨1, 0, 400_000, 0, 0, 0, none, 0, 0⟩

/-- OverlayRows: the row with no list, with one, with a sealed pass, and not done at its latch. -/
theorem witness_overlay : (∀ ls ∈ [[], [aList]],
      let s := drawing ls []
      s.frame? 0 3 = some (aFrame 3) ∧ (s.advanceTo (500 * (aFrame 3).releaseBeat 8 4 0)).overlayOpen 0 (aFrame 3) 0 = true ∧
      s.binTurn 0 (aFrame 3) 0 = true ∧ s.rowBins? 0 3 0 = none ∧ (s.stream 0).listFor (aFrame 3) = ls.head? ∧
      s.passes .overlay (s.stream 0).overlayRanges (s.stream 0).overlayRanges = true) ∧
    (let r : RowBins := { RowBins.begin 0 3 0 with sealed := some [], binned := true }
     let s := drawing [aList] [r]
     s.rowBins? 0 3 0 = some r ∧ r.sealed = some [] ∧ r.failed = false ∧ r.finished = false ∧
       (s.advanceTo (500 * ((aFrame 3).dueBeat 8 0 + 2))).overlayOpen 0 (aFrame 3) 0 = true) := by
  decide +kernel

/-- OverlayRows: a first pass of the row's only tile, sealed alone or as the last, and a later one, with the stream's stores apart. -/
theorem witness_composite : ∀ d ∈ [(false, ([] : List Nat)), (true, []), (false, [0])],
    let r : RowBins := { RowBins.begin 0 3 0 with sealed := some [(0, [])], binned := d.1, tiles := d.2 }
    let s := (drawing [aList] [r]).updStream 0 fun x => { x with homes := { x.homes with composite := [0x30_0000, 0x40_0000], overlay := 0x50_0000 } }
    let x := s.stream 0
    let offTile (a : Nat) : Prop := (a < headerAt 0x30_0000 0 ∨ headerAt 0x30_0000 0 + 128 ≤ a) ∧
      (a < tileSlotAt 0x30_0000 1 4 0 ∨ tileSlotAt 0x30_0000 1 4 0 + 8192 * 4 ≤ a)
    s.rowBins? 0 3 0 = some r ∧ x.listFor (aFrame 3) = some aList ∧ r.failed = false ∧
    s.passes .overlay x.overlayRanges (x.overlayRanges ++ x.compositeRanges (aFrame 3) 0) = true ∧
    ((x.p.rowTiles 0).filter fun k => [(0, ([] : List Nat))].any (fun b => binTile x.p 0 b.1 == k) ||
      (r.drawn == 0 && (regionTiles x.p (s.listRegions 0 aList) 0).contains k)) = [0] ∧
    (∀ k ∈ 0 :: r.tiles, (∀ i < 4, offTile (x.recordAt 0 k + i)) ∧ offTile (x.entryByte 0 k 5)) ∧ x.p.tileCount = 1 ∧
    bppOf x.p.colour = 4 ∧ (∀ u ∈ r.tiles, u ∈ x.p.rowTiles 0) := by
  decide +kernel

/-- GateTimingRuns, GateEventsRaised, LinesFetchedAndRead: a gate that locks, starts its first and a later frame; a frame before its
events, and after its last line; lines 0 and the last. -/
theorem witness_gate : (let x := { Gate.reset with cfg := some aConfig, runningGen := true, begun := true }
     let s := lit x
     (lit { x with locking := true }).clock.running = true ∧ (s.gate 3).cfg = some aConfig ∧ (s.gate 3).runningGen = true ∧
     (lit { x with begun := false }).gate 3 = { x with begun := false } ∧ (lit { x with doneSent := true }).gate 3 = { x with doneSent := true } ∧
     (s.gate 3).lineMatched = false ∧ (lit { x with cfg := some { aConfig with matchLine := 1124 } }).gate 3 =
       { x with cfg := some { aConfig with matchLine := 1124 } } ∧ 1124 < aConfig.vTotal ∧ (s.gate 3).sobDone = false ∧ aConfig.genlock = false ∧
     (let y := { x with sobDone := true, readLine := 1080, genEdges := [5, 3] }
      ((lit y).gate 3).sobDone = true ∧ ((lit y).gate 3).doneSent = false ∧ aConfig.vActive ≤ ((lit y).gate 3).readLine) ∧
     (s.chk.fromGate[(3 : Fin 4).val]).length ≤ (Config.credits (.gateContinuity 3)).req ∧ (s.gate 3).lineCfg = some aConfig ∧ s.layerOff 3 = false ∧
     s.fetched 3 aConfig (x.workFrame + 0) 0 = some (0, []) ∧ 0 < x.readLine + aConfig.ahead ∧ aConfig.dsc = false ∧
     (let y := { x with buffer := [(1079, 0, [])], readLine := 1079 }
      (lit y).layerOff 3 = false ∧ y.buffer.find? (fun b => b.1 == 1079) = some (1079, 0, []) ∧ 1079 < aConfig.vActive) ∧
     (lit { x with pictureOff := true }).layerOff 3 = true ∧ x.buffer = [] ∧ x.fetchLine = 0 ∧
     s.passes (.gate 3) (s.fetchRanges 3 aConfig (x.workFrame + 0) 0) [] = true) := by
  decide +kernel

/-- LinesFetchedAndRead: the last line of a picture on a link with DSC, in the buffer and with the picture layer off. GateEventsRaised: two
edges of a reference within gen_ppm, and of one that is not. -/
theorem witness_dsc : (let c := { aConfig with dsc := true, dscHeight := 108 }
      let x := { Gate.reset with cfg := some c, runningGen := true, begun := true, linked := true, readLine := 1079, buffer := [(1079, 0, [])] }
      ((lit x).gate 3).lineCfg = some c ∧ x.sends = true ∧ x.readLine < c.vActive ∧ (lit x).layerOff 3 = false ∧
      x.buffer.find? (fun b => b.1 == 1079) = some (1079, 0, []) ∧ (lit { x with pictureOff := true }).layerOff 3 = true ∧
      (lit x).clock.running = true) ∧
    (let c := { aConfig with genlock := true, ratio := 1, ppm := 100 }
     let want := lineTime c.hTotal c.vTotal c.nominal
     let x := { Gate.reset with cfg := some c, runningGen := true, begun := true, genEdges := [want + 5, 5] }
     x.sobDone = false ∧ x.genPost = none ∧ (lit x).cloneMode = false ∧ c.rateNear (want + 5 - 5) = true ∧
       c.rateNear (want + want / 5_000) = false ∧ ((lit x).gate 3).cfg = some c) := by
  decide +kernel

theorem matchQuiet_of {s : State} {g : Nat} {c : GateConfig} (h : (s.gate g).cfg = some c) (m : (s.gate g).matchWaits c = false) :
    s.matchQuiet g := by
  intro d hd w
  rw [h] at hd
  cases hd
  rw [m] at w
  cases w

theorem gateQuiet_of {s : State} {g : Nat} {c : GateConfig} (h : (s.gate g).cfg = some c) (m : (s.gate g).matchWaits c = false)
    (r : s.readQuiet g) (b : (s.gate g).sobWaits = false) (e : s.doneReady g c = false) (p : (s.gate g).genPost = none) :
    s.gateQuiet g := by
  refine ⟨r, matchQuiet_of h m, p, fun d hd => ?_⟩
  rw [h] at hd
  cases hd
  exact ⟨fun w => absurd (b.symm.trans w) (by decide), e⟩

theorem gateQuiet_dark {s : State} {g : Nat} (h : (s.gate g).cfg = none) (r : s.readQuiet g) (p : (s.gate g).genPost = none) :
    s.gateQuiet g :=
  ⟨r, fun _ hd => absurd (h.symm.trans hd) (by simp), p, fun _ hd => absurd (h.symm.trans hd) (by simp)⟩

/-- GateEventsRaised and LinesFetchedAndRead: nothing that comes before SOB, LINE_MATCH or FRAME_DONE is due; the gate may fetch. -/
theorem witness_gate_quiet : let x := { Gate.reset with cfg := some aConfig, runningGen := true, begun := true }
    let s := lit x
    let y := { x with sobDone := true, readLine := 1080 }
    (s.advanceTo (x.lineStart aConfig 0 aConfig.vActive / subTicks)).readQuiet 3 ∧
    (s.advanceTo (x.lineStart aConfig 0 aConfig.vActive / subTicks)).matchQuiet 3 ∧ (lit y).matchQuiet 3 ∧
    (let c := { aConfig with matchLine := 1124 }
     ((lit { x with cfg := some c }).advanceTo (x.lineStart c 0 1124 / subTicks)).readQuiet 3) ∧
    s.mayRequest (.gate 3) (.gateFabric 3) (x.fetchUrgent aConfig) = true ∧
    (let k := { aConfig with clone := true }
     let s := { s with gates := s.gates.set 0 { Gate.reset with cfg := some k, runningGen := true } }
     s.cloneMode = true ∧ (s.gate 3).cfg = some aConfig) ∧ s.cloneMode = false :=
  ⟨by decide +kernel, matchQuiet_of (c := aConfig) (by decide +kernel) (by decide +kernel),
    matchQuiet_of (c := aConfig) (by decide +kernel) (by decide +kernel), by decide +kernel, by decide +kernel, by decide +kernel,
    by decide +kernel⟩

/-- A gate that follows the reference, with one edge seen. -/
def genGate : Gate := { Gate.reset with
  cfg := some { aConfig with genlock := true }, runningGen := true, genEdges := [9], genLast := some 9 }

/-- HotPlugAndTraining and GenlockFollows: nothing that comes before HPD, LINK or GENLOCK is due, at an unplugged gate, at the end of the 2 ms,
at the training and one tick after two periods from the last edge; a gate that is dark, and one after a mismatch. -/
theorem witness_quiet : up.gateQuiet 3 ∧
    (let g := { Gate.reset with fallAt := some 3_900_000, unplugged := false }
     ((lit g).advanceTo ((3_900_000 + 4_000_000) / 8)).gateQuiet 3) ∧
    (let g := { Gate.reset with cfg := some aConfig, runningGen := true, unplugged := false, mustTrain := true }
     ((lit g).advanceTo g.trainAt).gateQuiet 3 ∧ ({ g with cfg := none }).cfg = none ∧ ({ g with capMismatch := true }).capMismatch = true) ∧
    (∀ k < 4, ((lit genGate).gate k).genlocked.isSome → (lit genGate).gateQuiet k) ∧
    ((lit genGate).advanceTo ((9 + 2 * { aConfig with genlock := true }.genPeriod) / subTicks + 1)).gateQuiet 3 := by
  refine ⟨gateQuiet_dark (by decide +kernel) (by decide +kernel) (by decide +kernel),
    gateQuiet_dark (by decide +kernel) (by decide +kernel) (by decide +kernel), ⟨gateQuiet_of (c := aConfig) ?_ ?_ ?_ ?_ ?_ ?_, rfl, rfl⟩, fun k hk h => ?_,
    gateQuiet_of (c := { aConfig with genlock := true }) ?_ ?_ ?_ ?_ ?_ ?_⟩
  case refine_7 =>
    have e : ∀ k < 4, ((lit genGate).gate k).genlocked.isSome → k = 3 := by decide +kernel
    cases e k hk h
    exact gateQuiet_of (c := { aConfig with genlock := true }) (by decide +kernel) (by decide +kernel) (by decide +kernel)
      (by decide +kernel) (by decide +kernel) (by decide +kernel)
  all_goals decide +kernel

/-- HotPlugAndTraining and GenlockFollows: edges of HPD and GENLOCK_IN, an unplug, a training, a reference that is lost. -/
theorem witness_hpd : (∀ l ∈ [true, false],
      let i : Input := ⟨.hpd 3, !l, !l, none⟩
      let s := up.setInput i
      i ∈ s.inputs ∧ s.input (.hpd 3) = i ∧ i.filtered = !(⟨l, 17, 7⟩ : Edge).level ∧ (s.gate 3).unplugged = true) ∧
    (let g := { Gate.reset with fallAt := some 3_900_000, unplugged := false }
     (lit g).level (.hpd 3) = false ∧ (lit g).gate 3 = g) ∧
    (let g := { Gate.reset with cfg := some aConfig, runningGen := true, unplugged := false, mustTrain := true }
     let s := (lit g).setInput ⟨.hpd 3, true, true, none⟩
     s.firmwareUp = true ∧ s.gate 3 = g ∧ s.level (.hpd 3) = true ∧ g.capMismatch = false ∧ g.irq = false) ∧
    up.input .genlock ∈ up.inputs ∧ (up.input .genlock).pin = .genlock ∧ (up.input .genlock).filtered = false ∧
    (let c := { aConfig with genlock := true }
     let g := { Gate.reset with cfg := some c, runningGen := true, genEdges := [9], genLast := some 9 }
     ((lit g).gate 3).genlocked = some c ∧ ((lit g).gate 3).genEdges = [9] ∧ ((lit g).gate 3).genLast = some 9 ∧
       ((lit { g with genEdges := [] }).gate 3).genEdges = [] ∧ ((lit g).gate 3).genState ≠ .lost) := by
  decide +kernel

/-! ## Witnesses: splice, clapper, boot, board -/

def porting (x : Port) : State := { inSet none [] with ports := up.ports.set 5 x }

def aFlit (kind seq : Nat) : List Byte := sealed32 ([BitVec.ofNat 8 kind, 0] ++ leBytes 2 seq ++ zeros 248)

/-- FlitsSent and FlitsReceived: a port in UP with a member behind it and a packet to send, one with a flit kept, one DOWN;
flits of each kind and one with a wrong CRC. -/
theorem witness_flits : (let peer := (zeros 36 ++ leBytes 8 1 ++ zeros 64, 400_000, 0)
     let x := { Port.reset with state := .up, queue := [⟨false, false, zeros 32, false⟩], peer := some (peer.1.take 240, peer.2.1, peer.2.2) }
     let s := porting x
     (s.port 5).state = .up ∧ (s.memberAt 5).isSome ∧ s.nothingWaits ∧
     (({ s with ports := s.ports.set 5 { x with replay := [aFlit 1 0] } }).memberAt 5).isSome ∧ (up.memberAt 5).isNone ∧ x.canSend false = true ∧ x.canSend true = false ∧ x.retryDue = false ∧ x.replay = [] ∧
     (up.port 5).state ≠ .up) ∧
    (∀ kind < 4, (aFlit kind 0).length = 256 ∧ leNat (aFlit kind 0) 0xFC 4 = crc32c ((aFlit kind 0).take 0xFC) ∧
      leNat (aFlit kind 0) 0 1 = kind ∧ leNat (aFlit kind 0) 2 2 % 4096 = Port.reset.rxSeq) ∧
    (let bad := zeros 255 ++ [1]
     bad.length = 256 ∧ leNat bad 0xFC 4 ≠ crc32c (bad.take 0xFC)) := by
  decide +kernel

/-- FlitsReceived: a flit of an unknown kind, a DATA flit out of order, an ack that covers one flit of two, a RETRY of kept flits before and
after the eighth replay. -/
theorem witness_flits_more : (let bs := aFlit 7 0
     leNat bs 0xFC 4 = crc32c (bs.take 0xFC) ∧ 3 < leNat bs 0 1) ∧
    leNat (aFlit 1 9) 2 2 % 4096 ≠ Port.reset.rxSeq ∧
    (let bs := sealed32 ([0, 0, 0, 0] ++ leBytes 2 0x8001 ++ zeros 246)
     let x := { Port.reset with kept := [(1, aFlit 1 1), (2, aFlit 1 2)] }
     bs.length = 256 ∧ bitOf (leNat bs 4 2) 15 = true ∧ x.kept.map (·.1) = [1, 2] ∧ 1 = leNat bs 4 2 % 4096) ∧
    (∀ n ∈ [7, 8], let x := { Port.reset with replays := n, kept := [(0, aFlit 1 0)] }
      (x.kept.dropWhile fun k => !(k.1 == leNat (aFlit 2 0) 0x0C 2 % 4096)).isEmpty = false ∧ (x.replays < 8 ∨ 8 ≤ x.replays)) ∧
    (twiceDelay (slice (sealed32 ([3, 0, 0, 0] ++ zeros 17 ++ [1] ++ zeros 230)) 0x0C 240) 0 0).isSome = true := by
  decide +kernel

/-- FlitsReceived: bytes that end a packet of the length its header names, for this chip, after fewer than fifteen hops. -/
theorem witness_packet : let h := zeros 32
    let got := h ++ zeros (Config.packetData h).val
    got.length = 32 + (Config.packetData (got.take 32)).val ∧ packetDst (got.take 32) = (inSet none []).set.index ∧ packetHops (got.take 32) < 15 := by
  have e : (zeros 32 ++ zeros (Config.packetData (zeros 32)).val).take 32 = zeros 32 := by simp [zeros]
  refine ⟨?_, ?_, ?_⟩
  · simp only [e, List.length_append]; simp only [zeros, List.length_replicate]
  · simp only [e]; decide +kernel
  · simp only [e]; decide +kernel

/-- PortTimersAndTraining: each state and timer; a training that ends at the last tick with two lanes, and one that fails. -/
theorem witness_port : (let x := { Port.reset with state := .up, retrySent := true, kept := [(0, aFlit 1 0)] }
      ((porting x).port 5).state = .up ∧ x.retrySent = true ∧ x.kept ≠ [] ∧ x.replays < 8 ∧ 8 ≤ { x with replays := 8 }.replays) ∧
    (∀ st ∈ [PortState.down, .retraining], let x := { Port.reset with state := st, trainingAt := some 0 }
      ((porting x).port 5).state = st ∧ { x with trainingAt := none }.trainingAt = none ∧ x.trainingAt = some 0 ∧
      lanesOf [false, false, true, true] = some [2, 3] ∧ { (porting x).clock with clap := 1_250_000 }.clap ≤ 0 + 1_250_000 ∧
      lanesOf [true, false, true, false] = none ∧ twiceDelay [] 0 0 = none ∧
      { x with attemptAt := some 5 }.attemptAt = some 5) := by
  decide +kernel

/-- A TIME payload that echoes a flit sent at clapper value 400,000. -/
def anEcho : List Byte := zeros 9 ++ [1, 0, 0] ++ leBytes 8 400_000 ++ zeros 220

/-- PortTimersAndTraining: a round trip within the limit, and one beyond it, whatever the skew of the island's copy. -/
theorem witness_echo : (let s := { porting Port.reset with clock := { up.clock with clap := 400_000 } }
      ∃ w, twiceDelay (slice anEcho 0 240) (s.copy spliceIsland) 0 = some w ∧ w ≤ 512_000) ∧
    (let s := { porting Port.reset with clock := { up.clock with clap := 500_000 } }
      ∃ w, twiceDelay (slice anEcho 0 240) (s.copy spliceIsland) 0 = some w ∧ 512_000 < w) := by
  have e : ∀ rx, twiceDelay (slice anEcho 0 240) rx 0 = some (Int.ofNat (256 * rx + 0) - 102_400_000 - (0 - 0)) := fun rx => by
    unfold twiceDelay
    rw [if_neg (by decide +kernel)]
    refine congrArg some (congrArg₂ _ (congrArg₂ _ rfl ?_) (congrArg₂ _ ?_ ?_)) <;> decide +kernel
  refine ⟨⟨_, e _, ?_⟩, _, e _, ?_⟩ <;>
  · simp only [State.copy, islandCopy, Int.ofNat_eq_natCast]
    omega

/-- ClapperAligns: a correction by CLAP_IN, its edges, a source that is lost. -/
theorem witness_clapper : (∀ o ∈ [(191 : Int), 192, -192, 128_000],
      let s := { up with clock := { up.clock with source := .clapIn, state := .aligned, offset := o, offsetBeat := some 999 } }
      s.clock.running = true ∧ s.clock.source ≠ .internal ∧ s.clock.corrected = none ∧ s.tickInBeat = 0 ∧ s.clock.state ≠ .free ∧
      s.clock.state ≠ .root ∧ s.beat ≠ 0 ∧ s.clock.measuredIn (s.beat - 1) = some o ∧ s.clock.againstRoot = o ∧ s.set.epoch.isNone = true) ∧
    up.openStreams = [] ∧ up.idleForStep = true :=
  ⟨by decide +kernel, openStreams_reset _ rfl, by simp [State.idleForStep, openStreams_reset up rfl]; rfl⟩

/-- ClapperAligns: a known value at a rising edge, and a source that was heard. -/
theorem witness_clapper_edges : (let c := { up.clock with source := .clapIn, rx := { up.clock.rx with rise := some 3_996_000, nominal := some 499_500 } }
      c.rx.rise = some 3_996_000 ∧ c.rx.nominal = some 499_500 ∧ 1 ≤ ({ up with clock := c }.edgeTime ⟨true, 17, 7⟩ - 3_996_000 + 2000) / 4000) ∧
    (⟨true, 16, 7⟩ : Edge).samples < 17 ∧ up.filtered .clapIn ≠ (⟨true, 16, 7⟩ : Edge).level ∧
    (∀ src ∈ [ClapSource.clapIn, .splice], { up.clock with source := src, lastTime := some 400_000 }.source = src ∧ src ≠ .internal) := by
  decide +kernel

theorem witness_clapIn : up.Accepts .clapIn ⟨true, 17, 7⟩ ∧ up.Accepts .resetN ⟨false, 17, 0⟩ ∧ up.Accepts .perstN ⟨false, 17, 0⟩ :=
  ⟨⟨by decide +kernel, by decide +kernel, by decide, by decide +kernel, by decide +kernel⟩,
    ⟨by decide +kernel, by decide +kernel, by decide, by decide +kernel, by decide +kernel⟩,
    by decide +kernel, by decide +kernel, by decide, by decide +kernel, by decide +kernel⟩

/-- BootSteps and ResetsAndPins: after reset; with the clapper running; unlocked after the image; locked; a halted chip; a
deferred level on each pin. -/
theorem witness_boot : State.reset.clock.running = false ∧ State.reset.board.hold = .none ∧ State.reset.level .resetN = true ∧
    (let s := { State.reset with fw := { State.reset.fw with bootStep := 2 } }
     s.fw.bootStep = 2 ∧ s.dev.fwPhase ≠ 4 ∧ s.slotHeld (.region 18) = false ∧ s.slotHeld .chip = false) ∧
    (let s := { State.reset with fw := { State.reset.fw with bootStep := 5 } }
     s.wall.lock = false ∧ s.fw.bootStep = 5 ∧ (1 : Word32).getLsbD 0 = true) ∧
    (let s := { State.reset with wall := { State.reset.wall with lock := true }, dev := { Device.reset with fwPhase := 2 } }
     s.wall.lock = true ∧ s.dev.fwReady = false ∧ s.dev.fwPhase = 2 ∧ s.err.halted = false ∧ s.reels = [] ∧ s.fw.bootStep < 8 ∧
       8 ≤ { s.fw with bootStep := 8 }.bootStep) ∧ up.err.halted = false ∧ up.slotHeld .chip = false ∧ up.chipInReset = false ∧
    { up with dev := { up.dev with fwPhase := 4 } }.dev.fwPhase = 4 ∧ up.board.hold ≠ .thermal ∧
    (∀ p ∈ [InputPin.genlock, .clapIn, .safeAck, .hpd 3, .resetN, .perstN],
      let i : Input := ⟨p, !(up.level p), up.level p, some 3_999_999⟩
      let s := up.setInput i
      s.input p = i ∧ i ∈ s.inputs ∧ i.filtered ≠ i.level) := by
  decide +kernel

/-- BoardAndTestAccess: a board with an alert; the three settings of JTAG_POLICY with and without a window on the benches. -/
theorem witness_board : up.clock.running = true ∧ up.board.hold = .none ∧ up.board.tdram ≠ [] ∧ up.board.alert = 0 ∧
    up.chipInReset = false ∧ 250_000 ≤ up.rawTick + Config.lockTicks.val ∧ up.chk.safe = true ∧
    { up with board := { up.board with hold := .thermal } }.chipInReset = true ∧ { up.board with alert := 1 }.alert ≠ 0 ∧ up.wall.jtagPolicy % 4 = 0 ∧ bitOf up.wall.jtagPolicy 2 = false ∧
    (let s := { up with wall := { up.wall with jtagPolicy := 6, windows := [⟨0xF0_0000, 0xF0_0020, 0xFFFF, 0xFFFF⟩] }, fw := { up.fw with bootStep := 6 } }
     s.wall.jtagPolicy % 4 = 2 ∧ bitOf s.wall.jtagPolicy 2 = true ∧ s.allows .jtag false Config.benchBase 8 = true ∧
       s.allows .jtag true Config.benchBase 8 = true ∧
       { s with wall := { s.wall with windows := [] } }.allows .jtag false Config.benchBase 8 = false ∧
       { s with wall := { s.wall with windows := [] } }.allows .jtag true Config.benchBase 8 = false ∧
       s.slotHeld (.region 18) = false) := by
  refine ⟨by decide +kernel, by decide +kernel, by decide +kernel, by decide +kernel, by decide +kernel, ?_, by decide +kernel⟩
  exact Nat.le_trans (show 250_000 ≤ up.rawTick by decide +kernel) (Nat.le_add_right _ _)

/-- CensusAndRounding: a plane of one pixel. -/
theorem witness_plane : (0 : Nat) < (⟨1, 1, #[5]⟩ : Plane).w ∧ 0 < (⟨1, 1, #[5]⟩ : Plane).h ∧
    censusWord 0 ⟨1, 1, #[5]⟩ 0 0 = 0 := by decide +kernel

/-! ## Worked figures of the manual -/

/-- The conversion examples of the rounding rules: to nearest, and stochastically with r = 0x1234 and r = 0x5000. -/
theorem test_convert_e4m3 :
    (convert .e4m3 none false (.fin false 39 (-7))).1 = 0x2A ∧
    (convert .e4m3 (some 0x1234) false (.fin false 39 (-7))).1 = 0x29 ∧
    (convert .e4m3 (some 0x5000) false (.fin false 39 (-7))).1 = 0x2A := by decide +kernel

theorem test_elem_value :
    ((elemValue .e4m3 0x2A).sub (.fin false 5 (-4))).isZero = true ∧
    ((elemValue .e5m2 0x35).sub (.fin false 5 (-4))).isZero = true := by decide +kernel

def e4 (a b : Nat) : FNum × FNum := (elemValue .e4m3 a, elemValue .e4m3 b)

/-- The group's sum is exact: the small term survives between two large ones, 2^-18 in units of 2^-32. -/
theorem test_exact_group :
    (Acc.zero.add [e4 0x7E 0x7E, e4 0x01 0x01, e4 0xFE 0x7E]).a = 16_384 := by decide +kernel

theorem test_out_extent : outExtent 16 40 40 40 3 1 = some 16 := by decide
theorem test_pool_avg : (poolAvg .int8 4 [3, 4, 4, 4]).1 = 4 ∧ (poolAvg .int8 4 [1, 2, 2, 2]).1 = 2 ∧
    (poolAvg .int8 4 [1, 2, 1, 2]).1 = 2 := by decide +kernel
theorem test_map_pos : mapPos 5 16 32 = 36 := by decide
theorem test_div_round : divRound (-25200) 840 = -30 ∧ divRound 15120 840 = 18 := by decide
theorem test_expert_cap : expertCap 2 512 20 16 = 80 := by decide
theorem test_extend_index : extendIndex 0x00FF_FFF8 104 0x1A = some 0x0100_001A := by decide
theorem test_page_of : pageOf 0x03_4A00_0600 = 0x03_4A00_0000 ∧ stackOf .nb3296 0x03_4A00_0600 = 2 := by decide
theorem test_step_counter : stepCounter 4000 630 = 0x3E_8276 := by decide
theorem test_least_by : leastBy id [[3, -1], [3, 0], [4, 0]] = some [(3 : Int), -1] := by decide
theorem test_motion_beats : motionBeatsOf { StreamParams.reset with renW := 3840 } 0 0 = 30 ∧
    motionBeatsOf { StreamParams.reset with renW := 3840 } 0 3840 = 32 := by decide +kernel

theorem test_luma : luma 0 0xFF32_64C8 = 2_012 ∧ luma 0 0xFF32_64D2 = 2_061 := by decide +kernel

def int8Layer (m : Int) (sh : Nat) : IntPath := ⟨[24 * 2 ^ 32], [m], [sh], [-3], -128, 127, true, none⟩

theorem test_integer_finish :
    (integerFinish .int8 (int8Layer 12_897 20) none 0 ⟨1_000 * 2 ^ 32, false, false, false⟩).1 = 0x0A ∧
    (integerFinish .int8 (int8Layer 5 10) none 0 ⟨488 * 2 ^ 32, false, false, false⟩).1 = 0xFF := by decide +kernel

/-- A convolution whose filter is k by k, with padding p, over h by w pixels. -/
def convStep (k p groups h w ci co sigma : Nat) : Sys2Proof.Step :=
  ⟨.conv ⟨k, k, 1, 1, 1, 1, p, p, p, p⟩ groups .zero emptyTensor, [.slot 0], none, h, w, ci, co, 0, 0, 1, sigma, [], false,
    ⟨.integer (int8Layer 1 0), 0, false, true, 1, false, none⟩, [], [], true, false, .local_⟩

/-- P arrays and E engines of one chip. -/
def onChip (arrays engines : Nat) : LoadShape := ⟨false, arrays, engines, 1, 0, arrays⟩

theorem test_conv_cycles : stepCycles (onChip 32 0) [] false (convStep 3 1 1 32 64 128 128 1) 2 .whole = 622 ∧
    stepCycles (onChip 28 0) [] false (convStep 3 1 1 32 64 128 128 1) 2 .whole = 766 := by decide +kernel

theorem test_depthwise_cycles : choosesFreq (onChip 32 8) [] (convStep 63 31 4 64 64 4 4 1) 1 = true ∧
    stepCycles (onChip 32 8) [] true (convStep 63 31 4 64 64 4 4 1) 1 .whole = 2_990 := by decide +kernel
end Sys2Proof.Tests
end

section
/-!
SUPPORT. CRC-32C (R46) as a shift register: one bit, one byte, and the register after a list of bytes.
-/
namespace Sys2Proof.Proofs
open Sys2Proof.Machine

/-- The reflected Castagnoli polynomial of R46. -/
def castagnoli : Nat := 0x82F6_3B78

/-- The CRC-32C register after the bytes, before the final inversion of R46. -/
def crc32cRegister (bs : List Byte) : Nat := bs.foldl (crcByte castagnoli) 0xFFFF_FFFF

/-! ## Any reflected polynomial of `n` bits -/

theorem crcBit_lt {poly c n : Nat} (hpoly : poly < 2 ^ n) (hc : c < 2 ^ n) : crcBit poly c < 2 ^ n := by
  have hshift : c >>> 1 < 2 ^ n := (Nat.shiftRight_le c 1).trans_lt hc
  unfold crcBit
  split
  · exact Nat.xor_lt_two_pow hshift hpoly
  · exact hshift

theorem crcByte_lt {poly c n : Nat} (hpoly : poly < 2 ^ n) (hn : 8 ≤ n) (hc : c < 2 ^ n) (b : Byte) :
    crcByte poly c b < 2 ^ n := by
  have hb : b.toNat < 2 ^ n := b.isLt.trans_le (Nat.pow_le_pow_right (by decide) hn)
  have hin : c ^^^ b.toNat < 2 ^ n := Nat.xor_lt_two_pow hc hb
  unfold crcByte
  iterate 8 apply crcBit_lt hpoly
  exact hin

theorem foldl_crcByte_lt {poly n : Nat} (hpoly : poly < 2 ^ n) (hn : 8 ≤ n) (bs : List Byte) (c : Nat) (hc : c < 2 ^ n) :
    bs.foldl (crcByte poly) c < 2 ^ n := by
  induction bs generalizing c with
  | nil => exact hc
  | cons b bs ih => exact ih _ (crcByte_lt hpoly hn hc b)

/-! ## The register of CRC-32C -/

theorem crc32c_eq_inverted_register (bs : List Byte) : crc32c bs = crc32cRegister bs ^^^ 0xFFFF_FFFF := rfl

theorem crc32c_xor_ones (bs : List Byte) : crc32c bs ^^^ 0xFFFF_FFFF = crc32cRegister bs := by
  rw [crc32c_eq_inverted_register, Nat.xor_xor_cancel_right]

theorem crc32cRegister_append_singleton (bs : List Byte) (b : Byte) :
    crc32cRegister (bs ++ [b]) = crcByte castagnoli (crc32cRegister bs) b := by
  simp [crc32cRegister]

theorem crc32c_lt (bs : List Byte) : crc32c bs < 2 ^ 32 := by
  have hreg : crc32cRegister bs < 2 ^ 32 := foldl_crcByte_lt (by decide) (by decide) bs _ (by decide)
  exact Nat.xor_lt_two_pow hreg (by decide)

/-- The check value of R46. -/
theorem crc32c_check_value :
    crc32c [0x31, 0x32, 0x33, 0x34, 0x35, 0x36, 0x37, 0x38, 0x39] = 0xE306_9283 := by decide +kernel

/-- Settles O60: the register of `crc32c` takes one byte at a time, stays within 32 bits, and yields R46's check value. -/
theorem crc32cIsCastagnoli : Obligations.Crc32cIsCastagnoli := by
  unfold Obligations.Crc32cIsCastagnoli
  refine ⟨crc32c_xor_ones [], fun bs b => ?byteTaken, crc32c_lt, crc32c_check_value, ?littleEndian⟩
  case byteTaken =>
    change crc32c (bs ++ [b]) ^^^ 0xFFFF_FFFF = crcByte castagnoli (crc32c bs ^^^ 0xFFFF_FFFF) b
    rw [crc32c_xor_ones, crc32c_xor_ones, crc32cRegister_append_singleton]
  case littleEndian =>
    rw [crc32c_check_value]
    decide

end Sys2Proof.Proofs
end

section
/-!
SUPPORT. The census word (R96) as a number written bit by bit, clamped coordinates as a `max` of a `min`, and the roundings of R99 as
floors.
-/
namespace Sys2Proof.Proofs
open Sys2Proof.Machine

/-! ## A number written bit by bit -/

/-- The number whose bit `i` is `b i`, for `i` below `n`, summed from bit 0 up as `censusWord` does. -/
def sumOfBits (b : Nat → Bool) (n : Nat) : Nat :=
  (List.range n).foldl (fun v i => v + (if b i then 2 ^ i else 0)) 0

theorem sumOfBits_succ (b : Nat → Bool) (n : Nat) :
    sumOfBits b (n + 1) = sumOfBits b n + (if b n then 2 ^ n else 0) := by
  simp [sumOfBits, List.range_succ]

theorem sumOfBits_lt (b : Nat → Bool) (n : Nat) : sumOfBits b n < 2 ^ n := by
  induction n with
  | zero => simp [sumOfBits]
  | succ n ih =>
    rw [sumOfBits_succ, Nat.pow_succ]
    split <;> omega

theorem testBit_sumOfBits (b : Nat → Bool) {n i : Nat} (hi : i < n) : (sumOfBits b n).testBit i = b i := by
  induction n with
  | zero => exact absurd hi (Nat.not_lt_zero i)
  | succ n ih =>
    have hclear : (sumOfBits b n).testBit n = false := Nat.testBit_lt_two_pow (sumOfBits_lt b n)
    rw [sumOfBits_succ, Nat.add_comm]
    obtain hlow | rfl : i < n ∨ i = n := by omega
    · split
      · rw [Nat.testBit_two_pow_add_gt hlow, ih hlow]
      · rw [Nat.zero_add, ih hlow]
    · split
      next hset => rw [Nat.testBit_two_pow_add_eq, hclear, hset, Bool.not_false]
      next hunset => rw [Nat.zero_add, hclear, Bool.eq_false_of_not_eq_true hunset]

/-! ## Clamped coordinates -/

theorem clampCoord_eq_max_min {n : Nat} (hn : 0 < n) (v : Int) :
    clampCoord n v = (max 0 (min v ((n : Int) - 1))).toNat := by
  simp only [clampCoord, clampInt, Int.ofNat_eq_natCast]
  split
  · omega
  · split <;> omega

theorem clampCoord_natCast {n x : Nat} (hx : x < n) : clampCoord n x = x := by
  rw [clampCoord_eq_max_min (Nat.zero_lt_of_lt hx)]
  omega

theorem planeAt_eq_px {p : Plane} (hw : 0 < p.w) (hh : 0 < p.h) (x y : Int) :
    p.at_ x y =
      p.px.getD ((max 0 (min y ((p.h : Int) - 1))).toNat * p.w + (max 0 (min x ((p.w : Int) - 1))).toNat) 0 := by
  rw [Plane.at_, clampCoord_eq_max_min hh, clampCoord_eq_max_min hw]

theorem planeAt_natCast {p : Plane} {x y : Nat} (hx : x < p.w) (hy : y < p.h) :
    p.at_ x y = p.px.getD (y * p.w + x) 0 := by
  rw [Plane.at_, clampCoord_natCast hy, clampCoord_natCast hx]

/-! ## The census word -/

/-- Offset of the `i`-th neighbour in raster order: the centre of the 5 by 5 square, place 12, is passed over. -/
def censusOffset (i : Nat) : Vec :=
  let j := if i < 12 then i else i + 1
  (((j % 5 : Nat) : Int) - 2, ((j / 5 : Nat) : Int) - 2)

theorem ring24_zip_range :
    ring24.zip (List.range 24) = (List.range 24).map fun i => (censusOffset i, i) := by decide

/-- Whether the `i`-th neighbour of a pixel is brighter than it by more than the noise. -/
def brighterNeighbour (noise : Nat) (p : Plane) (x y i : Nat) : Bool :=
  p.at_ x y + noise < p.at_ (x + (censusOffset i).1) (y + (censusOffset i).2)

theorem censusWord_eq_sumOfBits (noise : Nat) {p : Plane} {x y : Nat} (hx : x < p.w) (hy : y < p.h) :
    censusWord noise p x y = sumOfBits (brighterNeighbour noise p x y) 24 := by
  simp only [censusWord, ring24_zip_range, List.foldl_map, sumOfBits, brighterNeighbour, decide_eq_true_eq,
    clampCoord_natCast hx, clampCoord_natCast hy, Int.ofNat_eq_natCast]

/-! ## The roundings of R99 -/

theorem fdiv_floor_bounds (a : Int) {b : Int} (hb : 0 < b) : a.fdiv b * b ≤ a ∧ a < (a.fdiv b + 1) * b :=
  ⟨Int.mul_comm b _ ▸ Int.mul_fdiv_self_le hb, Int.lt_fdiv_add_one_mul_self a hb⟩

theorem divRound_floor_bounds (a : Int) {b : Nat} (hb : 0 < b) :
    divRound a b * (2 * b) ≤ 2 * a + b ∧ 2 * a + b < (divRound a b + 1) * (2 * b) :=
  fdiv_floor_bounds (2 * a + b) (Int.mul_pos (by decide) (Int.natCast_pos.2 hb))

theorem nearest_floor_bounds (z : Int) : 16 * nearest z ≤ z + 8 ∧ z + 8 < 16 * (nearest z + 1) := by
  have hfloor : nearest z * 16 ≤ z + 8 ∧ z + 8 < (nearest z + 1) * 16 := fdiv_floor_bounds (z + 8) (by decide)
  omega

/-- Settles O59: the census word is the sum of its 24 comparison bits, and `divRound` and `nearest` are floor divisions. -/
theorem censusAndRounding : Obligations.CensusAndRounding := by
  unfold Obligations.CensusAndRounding
  refine ⟨fun noise p x y i hx hy hi => ⟨?below, ?bit⟩, fun a b hb => divRound_floor_bounds a hb, nearest_floor_bounds,
    fun p x y hw hh => planeAt_eq_px hw hh x y⟩
  case below =>
    rw [censusWord_eq_sumOfBits noise hx hy]
    exact sumOfBits_lt _ 24
  case bit =>
    rw [censusWord_eq_sumOfBits noise hx hy, testBit_sumOfBits _ hi, brighterNeighbour, decide_eq_decide,
      planeAt_natCast hx hy, planeAt_eq_px (Nat.zero_lt_of_lt hx) (Nat.zero_lt_of_lt hy)]
    simp only [censusOffset, Int.add_sub_assoc]

end Sys2Proof.Proofs
end
